-- ==== Sys2Proof/Word.lean ====
section
/-!
DEFINITION. The words of the machine (spec/00_scope.md: registers of 32 or 64 bits, bytes, little-endian)
and the sparse map in which large collections are held: a list of key and value pairs.
-/
namespace Sys2Proof

/-- One byte of memory. -/
abbrev Byte := BitVec 8
/-- A 32-bit register or record word. -/
abbrev W32 := BitVec 32
/-- A 64-bit register or port value. -/
abbrev W64 := BitVec 64
/-- A sparse collection keyed by a natural number, in one canonical form: keys strictly rising. -/
abbrev NMap (α : Type) := List (Nat × α)
/-- A master ID (R126). -/
abbrev Master := Fin 16
/-- One of the four control cores. -/
abbrev CoxId := Fin 4
/-- One of the four shells. -/
abbrev ShellId := Fin 4
/-- A power domain number (R420). -/
abbrev DomId := Fin 120

end Sys2Proof
end

