-- ==== Sys2Proof/Config.lean ====
section
/-!
DEFINITION. What the manual leaves open, as values nothing can evaluate (notes/assumptions/1.md): each is an
opaque function of the operands the open value depends on, and, where every occurrence may differ, of a plain
counter held in State.
-/
namespace Sys2Proof.Config

/-- What a read of a word with three or more flipped bits gives (R143 states only single and double errors). -/
inductive EccOutcome where
  | clean
  | corrected (bit : Nat)
  | uncorrectable
deriving DecidableEq, Repr, Inhabited

/-- Check bits that the SECDED code gives for non-zero data (R143 gives them for all-zero data only). -/
opaque eccCheck : BitVec 64 → BitVec 8
/-- Outcome of reading a word whose error pattern has weight three or more. -/
opaque eccHeavy : BitVec 72 → EccOutcome
/-- Syndrome less 1 of an error pattern of one or two bits: neither 0 nor the poison code (R143). -/
opaque eccLight : BitVec 72 → Fin 254
/-- Syndrome of a heavier error pattern, which R143 leaves open. -/
opaque eccSyndrome : BitVec 72 → BitVec 8
/-- A byte of DDR5 that nothing has written since the Launch numbered by the first argument (R528). -/
opaque ddrByte : Nat → Nat → BitVec 8
/-- Whether more than two symbol errors of a codeword are detected (R400). -/
opaque ddrHeavy : List Nat → Bool
/-- A byte of a line whose symbol errors go undetected (R400), from the symbols, its address and the byte stored. -/
opaque ddrGarbled : List Nat → Nat → BitVec 8 → BitVec 8
/-- A byte of the boot ROM (R4 names its purpose, not its content). -/
opaque bootRomByte : Nat → BitVec 8
/-- How a host answers an outbound read made inside an agent's step (R396). -/
inductive HostAnswer where
  | data | unsupported | abort | silent
deriving DecidableEq, Repr, Inhabited

opaque hostAnswer : Nat → HostAnswer
/-- A byte that a host returns for an outbound read inside a stream (R399), at free-value index and address. -/
opaque hostByte : Nat → Nat → BitVec 8
/-- The way that pseudo-LRU replaces (07_cox_pipeline.md names the policy only). -/
opaque plruWay : Nat → Fin 4
/-- The form of the LFSR that picks a TLB victim (R307 gives its polynomial, not its form). -/
opaque lfsrForm : Fin 4
/-- Whether the fill of an abandoned walk took place (R311). -/
opaque abandonedFill : Nat → Bool
/-- A word of the random source behind NONCE (R459). -/
opaque nonceWord : Nat → BitVec 32
/-- Which item an OTP word programmed by OTPPROG belongs to (R492 gives no word map). -/
opaque otpItem : Nat → Nat
/-- Ageing: projected life in 0.1 year after the stress recorded so far (R437 gives no formula). -/
opaque projectedLife : Nat → Nat
/-- Whether DDR5 training of a rank passes, and its seed record (R402 leaves the algorithm to the device). -/
opaque seedRecord : Nat → BitVec 64
/-- Wait for the next 66-bit block boundary of a 10GBASE-R port from an instant (R383 gives the spacing only). -/
opaque blockWait : Nat → Nat → Nat
/-- The address of this node on a PRP or HSR pair (R385 names it without a register). -/
opaque nodeMac : Nat → Nat
/-- Which of a port's error counters counts a transmit frame that an uncorrectable error stopped: FCSERR, RUNT, LONG, LENERR, RINGDROP or
ONESTEP_ERR (R146, R377; notes/assumptions/65.md). -/
opaque transmitUeCount : Fin 6
/-- The PMBus addresses of the other regulators, at most 8, which the power profile gives in a form that the spec does not state (R432). -/
opaque pmbusAddrs : List Nat
/-- Whether the flash of a chip select supports erase suspend, as its SFDP table says (R473). -/
opaque eraseSuspend : Nat → Bool
/-- The position of an ordinary value that the spec leaves unstated (see the log entry that names its use). -/
opaque openWord : Nat → BitVec 64

end Sys2Proof.Config
end

