-- ==== Sys2Proof/Syntax.lean ====
section
/-!
DEFINITION. The commands of the device (spec/opcode_table.json, every row a constructor) and their operands.
A row that stands for a register write carries the master and the written word; a row that stands for an event
carries what the outside decides of it: a reading, an edge, an outcome of a physical process.
-/
namespace Sys2Proof

/-- What a write transaction does at its target (R394, R141). -/
inductive WriteAct where
  | store (data : List Byte)
  | add (n v : Nat)
  | swap (n v : Nat)
deriving DecidableEq, Repr

/-- How the host completes an outbound read (R396): with data, Unsupported Request, Completer Abort, or not yet. -/
abbrev HostReply := Config.HostAnswer

/-- One word that a march test found failing: bank, 32-byte line, word, bit (R156). -/
structure MarchFail where
  bank : BitVec 6
  line : BitVec 11
  word : BitVec 2
  bit : Nat
deriving DecidableEq, Repr

/-- Where a job descriptor comes from: a command queue, or SUBMIT of a core (02). -/
inductive JobSource where
  | queue (q : Fin 16)
  | submit (c : CoxId) (region : W32) (off : Nat)
deriving DecidableEq, Repr

/-- The paths to the Stakeboat: its registers, or the handle unit of a core (R173). -/
inductive StkPath where
  | register (m : Master)
  | core (c : CoxId)
deriving DecidableEq, Repr

/-- The hardware producers of records (R177): ingest link, network port, Photo-finish input, vector scheduler for a
shell's master ID, Mover engine, timer, vault, host link. -/
inductive Producer where
  | ingest (k : Fin 4)
  | port (n : Fin 4)
  | photo (j : Fin 32)
  | vector (m : Fin 4)
  | mover (e : Fin 16)
  | timer
  | vault
  | host
deriving DecidableEq, Repr

/-- What a record holds beside its sequence number, GAP, length and stamp (R179). -/
structure RecordBody where
  word0 : W32
  type : BitVec 8
  partialRec : Bool
  error : Bool
  last : Bool
  summary : BitVec 4
  word6 : W32
  word7 : W32
  payload : List Byte
deriving DecidableEq, Repr

/-- A record that a hardware producer offers to a ring handle (R182). -/
structure RecordOffer where
  producer : Producer
  handle : W32
  body : RecordBody
deriving DecidableEq, Repr

/-- An inbound host request (R398). -/
inductive HostAct where
  | read (n : Nat)
  | write (data : List Byte)
deriving DecidableEq, Repr

/-- How an xSPI command ended (R404). -/
structure XspiResult where
  ok : Bool
  data : List Byte
deriving DecidableEq, Repr

/-- Who asks for a mode (R407, R416): a register write of a master, or a cause of the device. -/
inductive ModeCause where
  | request (m : Master)
  | escalation
  | overtemp
deriving DecidableEq, Repr

/-- What a wake finds (R411 to R415): ticks counted, and which components are ready in time. -/
structure WakeIn where
  ticks : Nat
  /-- The frame that ETH0 receives. -/
  frame : List Byte
  /-- The oscillator is ready, and VDD_CORE confirms its voltage, within WTIMEOUT. -/
  osc : Bool
  vreg : Bool
  /-- Bits of retained Crew words that flipped during Boathouse: byte offset in Crew memory, code-word bits. -/
  upsets : List (BitVec 22 × BitVec 72)
deriving DecidableEq, Repr

/-- The component that a wake waits for (R413). -/
inductive WakeComp where
  | osc | vreg
deriving DecidableEq, Repr

/-- The calibration of a delay line (R345): the offset of its input's path from ball to threshold (R346) and the widths of its 64
taps, in fraction units of 2^-16 ns. -/
structure LineCal where
  path : Int
  widths : Vector (BitVec 12) 64
deriving DecidableEq, Repr

/-- What the physical world decides in a Launch (R439); lines: the calibrations of both lines of event inputs 0 to 31 and SYSREF; reads:
of each slot, the offset of the first byte that the flash did not answer, nor on its retry (R442). -/
structure LaunchIn where
  seedsPass : Bool
  fullPass : Bool
  quickPass : Bool
  durations : List Nat
  marchFails : List MarchFail
  lines : List (LineCal × LineCal)
  reads : Vector (Option Nat) 2
deriving DecidableEq, Repr

/-- The cycles that one access of a stroke waited at a memory bank: shell, address, whether it reads, request-cycles (R75, R128). -/
structure BankWait where
  shell : ShellId
  addr : BitVec 44
  read : Bool
  cycles : Nat
deriving DecidableEq, Repr

/-- The time of a stroke or of a job's end: the cycles beyond the duration rule, and what its accesses waited at memory banks (R72, R75). -/
structure StrokeTime where
  cycles : Nat
  waits : List BankWait
deriving DecidableEq, Repr

/-- A read of a scrubber: which memory's, and whether a failing cell of the word keeps its error whatever is written (R148, R150). -/
structure ScrubRead where
  crew : Bool
  stuck : Bool
deriving DecidableEq, Repr

/-- A SYSREF edge: its place within the time-unit cycle, and for each link the number, by the link's own count, of the LEMC boundary after
its anchor's that it falls on (R370, R371; notes/assumptions/64.md). -/
structure SysrefIn where
  tap : BitVec 6
  bounds : Vector (Option Nat) 4
deriving DecidableEq, Repr

/-- A physical upset of stored bits: bits of an on-chip code word (R143); symbols of a DDR5 line (R400); a word of a cached line,
beyond correction (R253); a byte or a tag of a stream register, beyond correction (R121); a word of the vault mirror, beyond correction (16, Registers);
an entry of the handle table, beyond correction (R171). -/
inductive Upset where
  | word (addr : BitVec 44) (mask : BitVec 72)
  | line (addr : BitVec 44) (symbols : List Nat)
  | cache (c : CoxId) (data : Bool) (addr : BitVec 44)
  | streamByte (sh : ShellId) (byte : BitVec 15)
  | streamTag (sh : ShellId) (tag : BitVec 15)
  | mirror (word : BitVec 15)
  | entry (index : BitVec 15)
deriving DecidableEq, Repr

/-- Time that passes: time-PLL cycles (R337), and the upsets of stored bits meanwhile (notes/assumptions/55.md). -/
structure TimeIn where
  n : Nat
  upsets : List Upset
deriving DecidableEq, Repr

/-- How the programming of fuses ends (R457). -/
structure OtpOutcome where
  verified : Bool
deriving DecidableEq, Repr

/-- How a flash operation ends (R472), and its longest page-program time in µs (R471). -/
structure FlashOutcome where
  ok : Bool
  pageUs : BitVec 16
deriving DecidableEq, Repr

/-- A block, by subsystem and block window (R4). -/
structure BlkId where
  subsys : BitVec 4
  window : BitVec 8
deriving DecidableEq, Repr

/-- How an erg group ended (R496): items tested, duration, fail entries of item and detail. -/
structure ErgOutcome where
  tested : BitVec 8
  skipped : Bool
  durationUs : W32
  fails : List (BitVec 8 × BitVec 48)
deriving DecidableEq, Repr

/-- The commands: one constructor per row of spec/opcode_table.json. -/
inductive Instr where
  /-- REGISTER_WRITE: A write to a register that has no row of its own takes the effect of its access type, reserved encodings and RWL locking included (R5). -/
  | registerWrite (m : Master) (addr : BitVec 44) (wide : Bool) (v : W64)
  /-- BUS_READ: A read transaction through the crossbar reaches its target and returns data or an error response (R394). -/
  | busRead (m : Master) (tag : BitVec 6) (addr : BitVec 44) (n : Nat) (waits : Nat) (det : Bool) (host : HostReply)
  /-- BUS_WRITE: A write transaction through the crossbar is performed at its target and returns its response (R394). -/
  | busWrite (m : Master) (tag : BitVec 6) (addr : BitVec 44) (act : WriteAct) (waits : Nat) (det : Bool)
  /-- QOS_AGING: Every 256 fabric cycles, a waiting transaction's effective QoS rises by 1, up to 14 (R392). -/
  | qosAging (i : Nat)
  /-- DET_WRITE_RETIRE: A queued DET write retires into its bank in a fabric cycle in which the bank serves no DET read (R129). -/
  | detWriteRetire (bank : BitVec 10)
  /-- DOMAIN_READY: A waking domain reports ready: a lost group is filled, and held requests are served in order (R424). -/
  | domainReady (d : DomId)
  /-- SCRUB_STEP: At its rate, the scrubber reads its next word or demand address and writes back a corrected word conditionally (R148). -/
  | scrubStep (read : ScrubRead)
  /-- ROW_REMAP: Once no DET job or march holds it back, a stuck row is copied to a spare row and its repair entry offered to the vault (R150). -/
  | rowRemap (crew : Bool)
  /-- WRITE_DATA: TEST_CMD WRITE_DATA stores TEST_DATA into the data bits of the word at TEST_ADDR (R153). -/
  | writeData (crew : Bool) (m : Master)
  /-- WRITE_CHECK: TEST_CMD WRITE_CHECK stores TEST_CHECK into the check bits of the word at TEST_ADDR (R153). -/
  | writeCheck (crew : Bool) (m : Master)
  /-- READ_RAW: TEST_CMD READ_RAW loads the raw data and check bits of the word into TEST_DATA and TEST_CHECK (R153). -/
  | readRaw (crew : Bool) (m : Master)
  /-- OWNER_WRITE: A write of a new OWNER sets PENDING and starts the handover of the Crew bank (R138). -/
  | ownerWrite (m : Master) (bank : BitVec 6) (v : W32)
  /-- OWNER_HANDOVER_DONE: After the accepted accesses complete, OWNER takes its new value, PENDING clears and held requests proceed (R138). -/
  | ownerHandoverDone (bank : BitVec 6)
  /-- MARCH_START: START begins a March C- test of the selected Crew banks in destructive or preserving mode (R155). -/
  | marchStart (m : Master) (v : W32)
  /-- MARCH_DONE: The march test ends and records its failing banks and first failure (R156). -/
  | marchDone (fails : List MarchFail)
  /-- JOB_ADMIT_MEMORY: A memory-form descriptor from a queue or SUBMIT is checked and admitted into the pool or rejected (R28). -/
  | jobAdmitMemory (src : JobSource) (ue : Bool)
  /-- JOB_ADMIT_REGISTER: A register-form descriptor is checked against the register-form limits and admitted or rejected (R40). -/
  | jobAdmitRegister (src : JobSource) (ue : Bool)
  /-- JOB_ADMIT_RESUME: A resume descriptor is admitted from its save area after the checks, or rejected with SAVE_INVALID (R63). -/
  | jobAdmitResume (src : JobSource) (ue : Bool)
  /-- JOB_ADMIT_RAFT: A raft group of a lead and continuation descriptors is checked and admitted whole or rejected whole (R43). -/
  | jobAdmitRaft (q : Fin 16) (ue : Bool)
  /-- QUEUE_BIND: A write of VEC_SCHED_QBINDn binds a command queue to a BLOCK ring, or is refused (R23). -/
  | queueBind (m : Master) (q : Fin 16) (h : W32)
  /-- QUEUE_ERROR_BIND: A write of VEC_SCHED_QERRn binds the queue's error ring, or is refused (R25). -/
  | queueErrorBind (m : Master) (q : Fin 16) (h : W32)
  /-- SCHED_CANCEL: VEC_SCHED_CANCEL ends pooled, armed and suspended jobs of a class and marks running ones to stop at their next commit (R78). -/
  | schedCancel (m : Master) (cls : W32)
  /-- JOB_START: The scheduler starts the ready job of highest PRIO on a free shell, subject to FENCE (R26). -/
  | jobStart
  /-- JOB_START_AT_CATCH: A window-bound job starts at the first core cycle at or after the catch, or late when the shell is not ready (R68). -/
  | jobStartAtCatch (slot : BitVec 14)
  /-- RESUME_SUSPENDED: A shell that becomes free and unreserved resumes its suspended job of highest PRIO (R57). -/
  | resumeSuspended (sh : ShellId)
  /-- STROKE_COMMIT: When a stroke's bubble leaves the last seat, the stroke commits, its partials merge and write-out begins (R51). -/
  | strokeCommit (sh : ShellId) (time : StrokeTime)
  /-- STROKE_DRAIN_DONE: The committed half of the stroke buffer finishes draining to memory (R52). -/
  | strokeDrainDone (sh : ShellId)
  /-- JOB_COMPLETE: After the last drain, the shell writes any KEEP or order state, reads out the accumulators and writes the completion record (R76). -/
  | jobComplete (sh : ShellId) (time : StrokeTime)
  /-- JOB_HALT: A read error, region fault, floating-point trap or IN_TEST in a stroke discards that stroke and halts the job, saving the state before it (R53). -/
  | jobHalt (sh : ShellId)
  /-- DRAIN_HELD: An error response to write-out puts the shell in DRAIN_HELD, holding the stroke (R55). -/
  | drainHeld (sh : ShellId)
  /-- RETRY: VEC_SHELLn_CTRL.RETRY in DRAIN_HELD writes the held stroke again and continues the job (R55). -/
  | retry (m : Master) (sh : ShellId)
  /-- DISCARD: VEC_SHELLn_CTRL.DISCARD in DRAIN_HELD ends the job with WRITE_ERROR (R55). -/
  | discard (m : Master) (sh : ShellId)
  /-- PREEMPT_STOP: At its next commit, a running job that a higher-PRIO job preempts stops, saves its state and is pushed on the suspension stack (R56). -/
  | preemptStop (sh : ShellId)
  /-- WINDOW_YIELD: At its next commit, a preemptible job on a reserved shell yields to the window-bound job and is suspended (R67). -/
  | windowYield (sh : ShellId)
  /-- CANCEL_STOP: At its next commit, a cancelled running job stops with CANCELLED (R58). -/
  | cancelStop (sh : ShellId)
  /-- RING_SPACE_WAIT_END: A producer waiting on a full BLOCK ring writes its record once the consumer has freed space (R182). -/
  | ringSpaceWaitEnd (i : Nat)
  /-- CREATE: CREATE makes a LIVE handle-table entry at the lowest FREE index, or at INDEX with AT, and returns the handle (R169). -/
  | create (p : StkPath) (atIdx : Bool) (index : BitVec 15)
  /-- DESTROY: DESTROY frees an unbound entry and advances its generation, retiring it at the last generation (R170). -/
  | destroy (p : StkPath)
  /-- QUERY: QUERY returns a handle's entry words in the staging registers (R174). -/
  | query (p : StkPath)
  /-- RECLAIM: RECLAIM returns a RETIRED entry to FREE with GEN 0 (R170). -/
  | reclaim (p : StkPath) (index : BitVec 15)
  /-- STK_COMMAND_COMPLETE: A Stakeboat command finishes in its last cycle, when BUSY clears and RESULT and CODE become valid (R163). -/
  | stkCommandComplete (p : StkPath) (ue : Bool)
  /-- RING_RECORD_OFFER: A hardware producer offers a record to a ring, which allocates its footprint and sequence number or acts by its overflow policy (R182). -/
  | ringRecordOffer (o : RecordOffer) (ue : Bool)
  /-- RING_RECORD_WRITTEN: When a record and all earlier ones are written, PROD advances over them and notifications follow (R177). -/
  | ringRecordWritten (r : BitVec 13)
  /-- PROD_WRITE: A software producer's write of PROD is the doorbell, refused when it would overfill the ring (R178). -/
  | prodWrite (m : Master) (r : BitVec 13) (v : W32)
  /-- CONS_WRITE: A consumer's write of CONS releases ring space, taking the further value against a DROP_OLD advance (R184). -/
  | consWrite (m : Master) (r : BitVec 13) (v : W32)
  /-- MOVER_COPY: A COPY descriptor copies bytes from source to destination in ascending order (R190). -/
  | moverCopy (e : Fin 16) (n : Nat)
  /-- MOVER_FILL: A FILL descriptor writes the 64-bit pattern over the destination range (R190). -/
  | moverFill (e : Fin 16) (n : Nat)
  /-- MOVER_GATHER: A GATHER descriptor collects indexed source elements into a contiguous destination (R190). -/
  | moverGather (e : Fin 16) (n : Nat)
  /-- MOVER_SCATTER: A SCATTER descriptor writes contiguous elements to indexed destinations (R190). -/
  | moverScatter (e : Fin 16) (n : Nat)
  /-- MOVER_TAGFILL: A TAGFILL descriptor writes one tag into a range of tag nibbles (R190). -/
  | moverTagfill (e : Fin 16) (n : Nat)
  /-- MOVER_CRC32C: A CRC32C descriptor computes CRC-32C over the source bytes, continued from SEED (R190). -/
  | moverCrc32c (e : Fin 16) (n : Nat)
  /-- MOVER_HALT: An uncorrectable read or region fault at element k halts the channel with FAIL_ELEMENT k (R192). -/
  | moverHalt (e : Fin 16)
  /-- MOVER_WRITE_ERROR: An error response to an element's write halts the channel with WRITE_ERROR (R193). -/
  | moverWriteError (e : Fin 16)
  /-- MOVER_DESCRIPTOR_COMPLETE: A descriptor ends and the engine writes its Mover completion record (R196). -/
  | moverDescriptorComplete (e : Fin 16)
  /-- CHANNEL_ENABLE: ENABLE makes the engine serve the channel and binds its rings (R195). -/
  | channelEnable (m : Master)
  /-- CHANNEL_DISABLE: DISABLE stops the channel after its current descriptor and releases its bindings (R195). -/
  | channelDisable (m : Master)
  /-- CHANNEL_RESUME: RESUME checks a halted descriptor again and continues it at FAIL_ELEMENT (R195). -/
  | channelResume (m : Master)
  /-- CHANNEL_SKIP: SKIP ends a halted descriptor with SKIPPED and advances CONS (R195). -/
  | channelSkip (m : Master)
  /-- CHANNEL_CANCEL: CANCEL stops the current descriptor at its next element boundary with CANCELLED (R195). -/
  | channelCancel (m : Master)
  /-- ISSUE_GROUP: A Cox issues one bundle or a pair as one issue group: guards are evaluated, sources read and writes applied in order (R203). -/
  | issueGroup (c : CoxId)
  /-- SYS_STATE_WRITE: A write to MASK, STATUS, VBASE, XLATE or FPENV commits at the end of its bundle, and the bundles after the shadow bundle are refetched (R248). -/
  | sysStateWrite (c : CoxId) (port : BitVec 4) (v : W64)
  /-- FETCH_LINE_ARRIVAL: A missing instruction line arrives, ending the fetch bubble (R241). -/
  | fetchLineArrival (c : CoxId)
  /-- LOAD_DATA_ARRIVAL: A load's data arrives, ending any freeze at its hold point (R254). -/
  | loadDataArrival (c : CoxId)
  /-- OPERATION_COMPLETE: A triggered unit operation delivers its result and flags to its result ports L issue cycles after its trigger (R205). -/
  | operationComplete (c : CoxId)
  /-- STORE_BUFFER_DRAIN: The oldest store-buffer entry is written into the data cache or to its target (R257). -/
  | storeBufferDrain (c : CoxId)
  /-- STORE_ERROR_RESPONSE: An error response to a drained store or write-back is captured and raises the store-error interrupt (R260). -/
  | storeErrorResponse (c : CoxId)
  /-- WALK_COMPLETE: A table walk ends in a translation, no translation or a walk fault (R310). -/
  | walkComplete (c : CoxId)
  /-- TLB_BCAST_COMPLETE: A core completes a broadcast invalidation, and TLB_INV_DONE sets once all cores have completed (R316). -/
  | tlbBcastComplete (c : CoxId)
  /-- CACHE_OP_DONE: A background cache operation completes and CACHE_BUSY clears (R216). -/
  | cacheOpDone (c : CoxId)
  /-- INTERRUPT_ENTRY: An accepted interrupt or NMI stops issue, drains or records operations in flight, saves state and issues the handler (R282). -/
  | interruptEntry (c : CoxId)
  /-- SYNC_EXCEPTION_ENTRY: A synchronous exception drains all operations and enters the next level, escalating from level 3 to a double fault (R270). -/
  | syncExceptionEntry (c : CoxId)
  /-- IRQ_INPUT: An edge or level on IRQ_INj makes the input pending for the cores that deliver it (R278). -/
  | irqInput (j : Fin 8) (level : Bool)
  /-- FETCH_SYNC: In a SERIAL bundle, FETCH_SYNC empties the prefetch queue, loop copies and branch target buffer (R214). -/
  | fetchSync (c : CoxId) (t : W64)
  /-- WAIT: WAIT stops issue after its bundle until an interrupt is taken (R214). -/
  | wait (c : CoxId) (t : W64)
  /-- TLB_WRITE: TLB_WRITE writes a TLB entry from two words, optionally locking it (R305). -/
  | tlbWrite (c : CoxId) (t : W64)
  /-- TLB_READ: TLB_READ returns the two words of a TLB entry (R305). -/
  | tlbRead (c : CoxId) (t : W64)
  /-- TLB_INV_VA: TLB_INV_VA invalidates this core's entries, locked ones included, that contain the address (R214). -/
  | tlbInvVa (c : CoxId) (t : W64)
  /-- TLB_INV_ALL: TLB_INV_ALL invalidates this core's unlocked entries, and optionally the locked ones (R214). -/
  | tlbInvAll (c : CoxId) (t : W64)
  /-- TLB_BCAST: TLB_BCAST broadcasts an invalidation to all four cores and clears TLB_INV_DONE (R316). -/
  | tlbBcast (c : CoxId) (t : W64)
  /-- CLEAN_D_LINE: CACHE_OP 0 cleans the data-cache line that holds the address (R216). -/
  | cleanDLine (c : CoxId) (t : W64)
  /-- INVAL_D_LINE: CACHE_OP 1 invalidates the data-cache line that holds the address (R216). -/
  | invalDLine (c : CoxId) (t : W64)
  /-- CLEAN_INVAL_D_LINE: CACHE_OP 2 cleans and invalidates the data-cache line that holds the address (R216). -/
  | cleanInvalDLine (c : CoxId) (t : W64)
  /-- INVAL_I_LINE: CACHE_OP 3 invalidates the instruction-cache line that holds the address (R216). -/
  | invalILine (c : CoxId) (t : W64)
  /-- CLEAN_D_ALL: CACHE_OP 4 cleans the whole data cache (R216). -/
  | cleanDAll (c : CoxId) (t : W64)
  /-- CLEAN_INVAL_D_ALL: CACHE_OP 5 cleans and invalidates the whole data cache (R216). -/
  | cleanInvalDAll (c : CoxId) (t : W64)
  /-- INVAL_I_ALL: CACHE_OP 6 invalidates the whole instruction cache and empties the branch target buffer (R216). -/
  | invalIAll (c : CoxId) (t : W64)
  /-- SAVE_READ: SAVE_READ reads a word of a level's dedicated save set (R286). -/
  | saveRead (c : CoxId) (t : W64)
  /-- SAVE_WRITE: SAVE_WRITE writes a word of a level's dedicated save set (R286). -/
  | saveWrite (c : CoxId) (t : W64)
  /-- JUMP: JUMP transfers to T after one delay bundle (R245). -/
  | jump (c : CoxId) (t : W64)
  /-- JUMP_REL: JUMP_REL transfers to the bundle address plus 16 times T after one delay bundle (R245). -/
  | jumpRel (c : CoxId) (t : W64)
  /-- CALL: CALL transfers to T, writes LINK and pushes the return address on the shadow stack (R218). -/
  | call (c : CoxId) (t : W64)
  /-- CALL_REL: CALL_REL is a relative transfer that is also a call (R218). -/
  | callRel (c : CoxId) (t : W64)
  /-- RETURN: RETURN checks T against the shadow-stack top and transfers, or raises SHADOW_MISMATCH (R218). -/
  | ret (c : CoxId) (t : W64)
  /-- TRAP: TRAP takes a software trap after its delay bundle (R274). -/
  | trap (c : CoxId) (t : W64)
  /-- ERET: ERET restores the level's state, re-triggers the recorded operations by catch-up and resumes the interrupted group (R288). -/
  | eret (c : CoxId) (t : W64)
  /-- LOOP_START: LOOP_START opens a hardware loop level with count T (R220). -/
  | loopStart (c : CoxId) (t : W64)
  /-- LOOP_POP: LOOP_POP closes the innermost loop level (R219). -/
  | loopPop (c : CoxId) (t : W64)
  /-- ADD: ALU ADD adds O1 and T (R221). -/
  | add (c : CoxId) (u : Bool) (t : W64)
  /-- SUB: ALU SUB subtracts T from O1 (R221). -/
  | sub (c : CoxId) (u : Bool) (t : W64)
  /-- ADDC: ALU ADDC adds with the carry from FLAGS.C (R322). -/
  | addc (c : CoxId) (u : Bool) (t : W64)
  /-- SUBB: ALU SUBB subtracts with the borrow from FLAGS.C (R322). -/
  | subb (c : CoxId) (u : Bool) (t : W64)
  /-- ADD32: ALU ADD32 gives the sign-extended low 32 bits of the sum (R221). -/
  | add32 (c : CoxId) (u : Bool) (t : W64)
  /-- SUB32: ALU SUB32 gives the sign-extended low 32 bits of the difference (R221). -/
  | sub32 (c : CoxId) (u : Bool) (t : W64)
  /-- ADDS: ALU ADDS adds with signed 64-bit saturation (R322). -/
  | adds (c : CoxId) (u : Bool) (t : W64)
  /-- SUBS: ALU SUBS subtracts with signed 64-bit saturation (R322). -/
  | subs (c : CoxId) (u : Bool) (t : W64)
  /-- AND: ALU AND of O1 and T (R221). -/
  | and (c : CoxId) (u : Bool) (t : W64)
  /-- OR: ALU OR of O1 and T (R221). -/
  | or (c : CoxId) (u : Bool) (t : W64)
  /-- XOR: ALU XOR of O1 and T (R221). -/
  | xor (c : CoxId) (u : Bool) (t : W64)
  /-- ANDN: ALU ANDN, O1 AND NOT T (R221). -/
  | andn (c : CoxId) (u : Bool) (t : W64)
  /-- MIN: ALU MIN, the signed minimum (R322). -/
  | min (c : CoxId) (u : Bool) (t : W64)
  /-- MAX: ALU MAX, the signed maximum (R322). -/
  | max (c : CoxId) (u : Bool) (t : W64)
  /-- MINU: ALU MINU, the unsigned minimum (R322). -/
  | minu (c : CoxId) (u : Bool) (t : W64)
  /-- MAXU: ALU MAXU, the unsigned maximum (R322). -/
  | maxu (c : CoxId) (u : Bool) (t : W64)
  /-- ABS: ALU ABS of T (R322). -/
  | abs (c : CoxId) (u : Bool) (t : W64)
  /-- NEG: ALU NEG of T (R322). -/
  | neg (c : CoxId) (u : Bool) (t : W64)
  /-- PASS: ALU PASS copies T to Q (R221). -/
  | pass (c : CoxId) (u : Bool) (t : W64)
  /-- SHL: SHIFT SHL shifts O1 left (R222). -/
  | shl (c : CoxId) (t : W64)
  /-- SHR: SHIFT SHR shifts O1 right logically (R222). -/
  | shr (c : CoxId) (t : W64)
  /-- SHRA: SHIFT SHRA shifts O1 right arithmetically (R222). -/
  | shra (c : CoxId) (t : W64)
  /-- ROTL: SHIFT ROTL rotates O1 left (R222). -/
  | rotl (c : CoxId) (t : W64)
  /-- ROTR: SHIFT ROTR rotates O1 right (R222). -/
  | rotr (c : CoxId) (t : W64)
  /-- SHL32: SHIFT SHL32 is a 32-bit left shift, sign-extended (R222). -/
  | shl32 (c : CoxId) (t : W64)
  /-- SHR32: SHIFT SHR32 is a 32-bit logical right shift (R222). -/
  | shr32 (c : CoxId) (t : W64)
  /-- SHRA32: SHIFT SHRA32 is a 32-bit arithmetic right shift (R222). -/
  | shra32 (c : CoxId) (t : W64)
  /-- FSHL: SHIFT FSHL is a funnel shift left of {O1, O2} (R222). -/
  | fshl (c : CoxId) (t : W64)
  /-- FSHR: SHIFT FSHR is a funnel shift right of {O1, O2} (R222). -/
  | fshr (c : CoxId) (t : W64)
  /-- MULU: MUL MULU gives the unsigned 128-bit product (R223). -/
  | mulu (c : CoxId) (t : W64)
  /-- MULS: MUL MULS gives the signed 128-bit product (R223). -/
  | muls (c : CoxId) (t : W64)
  /-- MULSU: MUL MULSU gives the signed-by-unsigned product (R223). -/
  | mulsu (c : CoxId) (t : W64)
  /-- MUL32U: MUL MUL32U gives the 32-bit unsigned product (R223). -/
  | mul32u (c : CoxId) (t : W64)
  /-- MUL32S: MUL MUL32S gives the 32-bit signed product (R223). -/
  | mul32s (c : CoxId) (t : W64)
  /-- DIVU: DIV DIVU is an unsigned 64-bit division, latency 40 (R324). -/
  | divu (c : CoxId) (t : W64)
  /-- DIVS: DIV DIVS is a signed 64-bit division, latency 40 (R324). -/
  | divs (c : CoxId) (t : W64)
  /-- DIVU32: DIV DIVU32 is an unsigned 32-bit division (R324). -/
  | divu32 (c : CoxId) (t : W64)
  /-- DIVS32: DIV DIVS32 is a signed 32-bit division (R324). -/
  | divs32 (c : CoxId) (t : W64)
  /-- FADD64: FPU0 binary64 addition (R225). -/
  | fadd64 (c : CoxId) (t : W64)
  /-- FSUB64: FPU0 binary64 subtraction (R225). -/
  | fsub64 (c : CoxId) (t : W64)
  /-- FMUL64: FPU0 binary64 multiplication (R225). -/
  | fmul64 (c : CoxId) (t : W64)
  /-- FMA64: FPU0 binary64 fused multiply-add (R225). -/
  | fma64 (c : CoxId) (t : W64)
  /-- FNMS64: FPU0 binary64 fused negative multiply-subtract (R225). -/
  | fnms64 (c : CoxId) (t : W64)
  /-- FMIN64: FPU0 binary64 minimumNumber (R325). -/
  | fmin64 (c : CoxId) (t : W64)
  /-- FMAX64: FPU0 binary64 maximumNumber (R325). -/
  | fmax64 (c : CoxId) (t : W64)
  /-- FADD32: FPU0 binary32 addition (R225). -/
  | fadd32 (c : CoxId) (t : W64)
  /-- FSUB32: FPU0 binary32 subtraction (R225). -/
  | fsub32 (c : CoxId) (t : W64)
  /-- FMUL32: FPU0 binary32 multiplication (R225). -/
  | fmul32 (c : CoxId) (t : W64)
  /-- FMA32: FPU0 binary32 fused multiply-add (R225). -/
  | fma32 (c : CoxId) (t : W64)
  /-- FNMS32: FPU0 binary32 fused negative multiply-subtract (R225). -/
  | fnms32 (c : CoxId) (t : W64)
  /-- FMIN32: FPU0 binary32 minimumNumber (R325). -/
  | fmin32 (c : CoxId) (t : W64)
  /-- FMAX32: FPU0 binary32 maximumNumber (R325). -/
  | fmax32 (c : CoxId) (t : W64)
  /-- FDIV64: FPU1 binary64 division, not pipelined (R226). -/
  | fdiv64 (c : CoxId) (t : W64)
  /-- FSQRT64: FPU1 binary64 square root, not pipelined (R226). -/
  | fsqrt64 (c : CoxId) (t : W64)
  /-- FDIV32: FPU1 binary32 division, not pipelined (R226). -/
  | fdiv32 (c : CoxId) (t : W64)
  /-- FSQRT32: FPU1 binary32 square root, not pipelined (R226). -/
  | fsqrt32 (c : CoxId) (t : W64)
  /-- F64TOF32: FPU1 converts binary64 to binary32 (R327). -/
  | f64tof32 (c : CoxId) (t : W64)
  /-- F32TOF64: FPU1 converts binary32 to binary64 (R327). -/
  | f32tof64 (c : CoxId) (t : W64)
  /-- F64TOS64: FPU1 converts binary64 to a signed 64-bit integer (R327). -/
  | f64tos64 (c : CoxId) (t : W64)
  /-- F64TOU64: FPU1 converts binary64 to an unsigned 64-bit integer (R327). -/
  | f64tou64 (c : CoxId) (t : W64)
  /-- S64TOF64: FPU1 converts a signed 64-bit integer to binary64 (R327). -/
  | s64tof64 (c : CoxId) (t : W64)
  /-- U64TOF64: FPU1 converts an unsigned 64-bit integer to binary64 (R327). -/
  | u64tof64 (c : CoxId) (t : W64)
  /-- F32TOS32: FPU1 converts binary32 to a signed 32-bit integer (R327). -/
  | f32tos32 (c : CoxId) (t : W64)
  /-- S32TOF32: FPU1 converts a signed 32-bit integer to binary32 (R327). -/
  | s32tof32 (c : CoxId) (t : W64)
  /-- F64TOS32: FPU1 converts binary64 to a signed 32-bit integer (R327). -/
  | f64tos32 (c : CoxId) (t : W64)
  /-- S32TOF64: FPU1 converts a signed 32-bit integer to binary64 (R327). -/
  | s32tof64 (c : CoxId) (t : W64)
  /-- F64ROUND: FPU1 rounds a binary64 value to an integral value (R327). -/
  | f64round (c : CoxId) (t : W64)
  /-- F32ROUND: FPU1 rounds a binary32 value to an integral value (R327). -/
  | f32round (c : CoxId) (t : W64)
  /-- DADD: DEC packed-decimal addition (R334). -/
  | dadd (c : CoxId) (t : W64)
  /-- DSUB: DEC packed-decimal subtraction (R334). -/
  | dsub (c : CoxId) (t : W64)
  /-- DCHK: DEC checks the digits and sign of a packed-decimal value (R334). -/
  | dchk (c : CoxId) (t : W64)
  /-- DNEG: DEC inverts the sign of a packed-decimal value (R334). -/
  | dneg (c : CoxId) (t : W64)
  /-- DTOBIN: DEC converts packed decimal to binary (R334). -/
  | dtobin (c : CoxId) (t : W64)
  /-- BINTOD: DEC converts binary to packed decimal (R334). -/
  | bintod (c : CoxId) (t : W64)
  /-- EQ: CMP EQ writes O1 = T to the selected predicates (R228). -/
  | eq (c : CoxId) (t : W64)
  /-- NE: CMP NE compares for inequality (R228). -/
  | ne (c : CoxId) (t : W64)
  /-- LT: CMP LT, signed less-than (R228). -/
  | lt (c : CoxId) (t : W64)
  /-- LE: CMP LE, signed less-or-equal (R228). -/
  | le (c : CoxId) (t : W64)
  /-- LTU: CMP LTU, unsigned less-than (R228). -/
  | ltu (c : CoxId) (t : W64)
  /-- LEU: CMP LEU, unsigned less-or-equal (R228). -/
  | leu (c : CoxId) (t : W64)
  /-- TST: CMP TST tests O1 AND T for non-zero (R228). -/
  | tst (c : CoxId) (t : W64)
  /-- EQ32: CMP EQ32 compares the low 32 bits for equality (R228). -/
  | eq32 (c : CoxId) (t : W64)
  /-- LT32: CMP LT32, 32-bit signed less-than (R228). -/
  | lt32 (c : CoxId) (t : W64)
  /-- LTU32: CMP LTU32, 32-bit unsigned less-than (R228). -/
  | ltu32 (c : CoxId) (t : W64)
  /-- FEQ64: CMP FEQ64, binary64 equality (R330). -/
  | feq64 (c : CoxId) (t : W64)
  /-- FLT64: CMP FLT64, binary64 less-than (R330). -/
  | flt64 (c : CoxId) (t : W64)
  /-- FLE64: CMP FLE64, binary64 less-or-equal (R330). -/
  | fle64 (c : CoxId) (t : W64)
  /-- FUN64: CMP FUN64, binary64 unordered (R330). -/
  | fun64 (c : CoxId) (t : W64)
  /-- FEQ32: CMP FEQ32, binary32 equality (R330). -/
  | feq32 (c : CoxId) (t : W64)
  /-- FLT32: CMP FLT32, binary32 less-than (R330). -/
  | flt32 (c : CoxId) (t : W64)
  /-- FLE32: CMP FLE32, binary32 less-or-equal (R330). -/
  | fle32 (c : CoxId) (t : W64)
  /-- FUN32: CMP FUN32, binary32 unordered (R330). -/
  | fun32 (c : CoxId) (t : W64)
  /-- LD8U: LSU loads a byte, zero-extended (R229). -/
  | ld8u (c : CoxId) (u : Bool) (t : W64)
  /-- LD8S: LSU loads a byte, sign-extended (R229). -/
  | ld8s (c : CoxId) (u : Bool) (t : W64)
  /-- LD16U: LSU loads 16 bits, zero-extended (R229). -/
  | ld16u (c : CoxId) (u : Bool) (t : W64)
  /-- LD16S: LSU loads 16 bits, sign-extended (R229). -/
  | ld16s (c : CoxId) (u : Bool) (t : W64)
  /-- LD32U: LSU loads 32 bits, zero-extended (R229). -/
  | ld32u (c : CoxId) (u : Bool) (t : W64)
  /-- LD32S: LSU loads 32 bits, sign-extended (R229). -/
  | ld32s (c : CoxId) (u : Bool) (t : W64)
  /-- LD64: LSU loads 64 bits (R229). -/
  | ld64 (c : CoxId) (u : Bool) (t : W64)
  /-- PREFETCH: LSU PREFETCH starts a fill and never faults (R313). -/
  | prefetch (c : CoxId) (u : Bool) (t : W64)
  /-- ST8: LSU stores a byte into the store buffer (R257). -/
  | st8 (c : CoxId) (u : Bool) (t : W64)
  /-- ST16: LSU stores 16 bits into the store buffer (R257). -/
  | st16 (c : CoxId) (u : Bool) (t : W64)
  /-- ST32: LSU stores 32 bits into the store buffer (R257). -/
  | st32 (c : CoxId) (u : Bool) (t : W64)
  /-- ST64: LSU stores 64 bits into the store buffer (R257). -/
  | st64 (c : CoxId) (u : Bool) (t : W64)
  /-- AADD32: LSU atomic 32-bit add on a Crew word, returning the old value (R229). -/
  | aadd32 (c : CoxId) (u : Bool) (t : W64)
  /-- AADD64: LSU atomic 64-bit add on a Crew word (R229). -/
  | aadd64 (c : CoxId) (u : Bool) (t : W64)
  /-- ASWP32: LSU atomic 32-bit swap on a Crew word (R229). -/
  | aswp32 (c : CoxId) (u : Bool) (t : W64)
  /-- ASWP64: LSU atomic 64-bit swap on a Crew word (R229). -/
  | aswp64 (c : CoxId) (u : Bool) (t : W64)
  /-- SUBMIT: VEC SUBMIT submits a descriptor directly and returns the admission status (R231). -/
  | submit (c : CoxId) (t : W64)
  /-- TIME_READ: TIME READ samples the 96-bit timebase into Q and Q2 (R231). -/
  | timeRead (c : CoxId) (t : W64)
  /-- TRIP_ARM: TIME TRIP_ARM arms an edge on an owned trip output, or refuses it (R350). -/
  | tripArm (c : CoxId) (t : W64)
  /-- TRIP_CANCEL: TIME TRIP_CANCEL cancels the armed edge of an output unless it is committed (R350). -/
  | tripCancel (c : CoxId) (t : W64)
  /-- SEND: MAIL SEND delivers a message to a Cox inbox, or drops it when the inbox is full (R231). -/
  | send (c : CoxId) (t : W64)
  /-- RECV: MAIL RECV removes the oldest inbox message (R231). -/
  | recv (c : CoxId) (t : W64)
  /-- CLZ: BITS counts leading zeros (R231). -/
  | clz (c : CoxId) (t : W64)
  /-- CTZ: BITS counts trailing zeros (R231). -/
  | ctz (c : CoxId) (t : W64)
  /-- POPC: BITS counts the set bits (R231). -/
  | popc (c : CoxId) (t : W64)
  /-- BREV: BITS reverses the bits (R231). -/
  | brev (c : CoxId) (t : W64)
  /-- BSWAP: BITS swaps the bytes (R231). -/
  | bswap (c : CoxId) (t : W64)
  /-- EXTRACT: BITS extracts a field, zero-extended (R231). -/
  | extract (c : CoxId) (t : W64)
  /-- EXTRACTS: BITS extracts a field, sign-extended (R231). -/
  | extracts (c : CoxId) (t : W64)
  /-- INSERT: BITS inserts a field from O2 (R231). -/
  | insert (c : CoxId) (t : W64)
  /-- PDEP: BITS deposits low bits at the mask positions (R231). -/
  | pdep (c : CoxId) (t : W64)
  /-- PEXT: BITS extracts the bits at the mask positions (R231). -/
  | pext (c : CoxId) (t : W64)
  /-- CRC32C: BITS advances a CRC-32C state over 8 bytes (R231). -/
  | crc32c (c : CoxId) (t : W64)
  /-- TIMEBASE_CAPTURE: A read of TIM_TB_NOW0 captures all 96 timebase bits for the reading master (R338). -/
  | timebaseCapture (m : Master)
  /-- TB_SET: CMD SET loads the timebase from SET0-2 and handles the scheduled work it jumps over (R341). -/
  | tbSet (m : Master)
  /-- TB_STEP: CMD STEP adds the signed STEP to the timebase and handles the scheduled work it jumps over (R341). -/
  | tbStep (m : Master)
  /-- SLEW_WRITE: A write of TIM_TB_SLEW adds to the pending slew (R340). -/
  | slewWrite (m : Master) (v : W64)
  /-- PPS_EDGE: In PPS mode, a PPS_IN edge is stamped and the timebase is stepped or slewed and its rate corrected (R342). -/
  | ppsEdge (tap : BitVec 6)
  /-- PPS_LOST: No PPS edge for 1.5 s clears PPS_LOCK and raises PPS_LOST (R342). -/
  | ppsLost
  /-- EVENT_EDGE: An edge on an event input crosses the threshold, is stamped and enters the filter (R344). -/
  | eventEdge (j : Fin 32) (level : Bool) (tap : BitVec 6)
  /-- EVENT_EDGE_ACCEPT: A filtered edge is accepted, gated, and written as a capture record (R347). -/
  | eventEdgeAccept (j : Fin 32)
  /-- DELAY_LINE_SWAP: Every CALPER ms, an input's calibrated delay line is swapped into service (R345). -/
  | delayLineSwap (j : Fin 33) (cal : LineCal)
  /-- TRIP_CMD_ARM: TIM_TRIPn_CMD ARM arms an edge at AT0-2 (R350). -/
  | tripCmdArm (m : Master) (n : Fin 16) (level : Bool)
  /-- TRIP_CMD_CANCEL: TIM_TRIPn_CMD CANCEL cancels the armed edge (R350). -/
  | tripCmdCancel (m : Master) (n : Fin 16)
  /-- TRIP_COMMIT: 32 time-unit cycles before its instant, an armed edge is committed to the output stage (R350). -/
  | tripCommit (n : Fin 16)
  /-- TRIP_EDGE: A trip output changes level at the grid point, with minimum spacing and collision counting (R351). -/
  | tripEdge (n : Fin 16)
  /-- SLOT_READ: TIM_REG_CMD READ copies a regatta slot into DATA (R360). -/
  | slotRead (m : Master)
  /-- SLOT_WRITE: TIM_REG_CMD WRITE replaces a regatta slot after its checks (R360). -/
  | slotWrite (m : Master)
  /-- PRE_WAKE: At catch minus LEAD, a window wakes its domains and reserves the shell (R362). -/
  | preWake (slot : BitVec 14)
  /-- PRECOMMIT_HANDOVER: 64 time-unit cycles before the edge, a precommitted action is handed to its agent (R359). -/
  | precommitHandover (slot : BitVec 14)
  /-- CATCH_EDGE: A window's catch opens an instance and carries out its catch action (R356). -/
  | catchEdge (slot : BitVec 14)
  /-- FINISH_EDGE: A window's finish closes the instance and carries out its finish action (R356). -/
  | finishEdge (slot : BitVec 14)
  /-- IRQQ_POP: A read of TIM_REG_IRQQc removes the oldest slot number (R361). -/
  | irqqPop (m : Master) (c : CoxId)
  /-- TIMER_EXPIRY: At a 256-cycle check, an expired timer writes its expiry record and rearms or clears EN (R366). -/
  | timerExpiry (idx : BitVec 15)
  /-- LINK_ENABLE: A write of EN to an ingest link checks its configuration and enables it, or refuses (R368). -/
  | linkEnable (m : Master) (k : Fin 4) (v : W32)
  /-- SYNC_HEADER_LOCK: Every lane of a link locks to its sync headers, and the link enters SH_LOCK (R369). -/
  | syncHeaderLock (k : Fin 4)
  /-- EMB_LOCK: Every lane finds its extended-multiblock boundary, and the link enters EMB_LOCK (R369). -/
  | embLock (k : Fin 4)
  /-- SYSREF_EDGE: A SYSREF edge aligns the link's LEMC and anchor, or in periodic mode re-anchors it (R370). -/
  | sysrefEdge (edge : SysrefIn)
  /-- RBD_RELEASE: The receive buffer releases data RBD octets after the LEMC boundary, and the link enters RUN (R369). -/
  | rbdRelease (k : Fin 4)
  /-- SYNC_HEADER_LOSS: Loss of sync-header lock drops the link to DOWN and raises LINK_DOWN (R369). -/
  | syncHeaderLoss (k : Fin 4)
  /-- MULTIBLOCK_CRC_CHECK: A failing multiblock CRC-12 marks the samples it carried INVALID and is counted (R375). -/
  | multiblockCrcCheck (k : Fin 4) (lane : Fin 8) (mb : Nat) (ok : Bool)
  /-- BATCH_CLOSE: Every INSTANTS instants, a link closes a batch and offers its record to the ring (R372). -/
  | batchClose (k : Fin 4) (samples : List (Option Int))
  /-- FRAME_RECEIVE: A received Ethernet frame is checked, stamped, de-duplicated and classified into a ring (R378). -/
  | frameReceive (p : Fin 4) (bytes : List Byte)
  /-- HSR_FORWARD: An HSR frame is forwarded to the other port, with Sync correction (R386). -/
  | hsrForward (p : Fin 4)
  /-- DUP_ENTRY_AGEOUT: A duplicate-table entry ages out after 400 ms (R385). -/
  | dupEntryAgeout (pair : Fin 2)
  /-- TX_REQUEST: A port takes a transmit request record from its normal queue and sends the frame (R388). -/
  | txRequest (p : Fin 4)
  /-- SCHEDULED_TRANSMIT: At a TRANSMIT instant, the port sends the head of its scheduled queue (R390). -/
  | scheduledTransmit (p : Fin 4)
  /-- PORT_LINK_CHANGE: An Ethernet port's link comes up or goes down, raising LINK_DOWN (R377). -/
  | portLinkChange (p : Fin 4) (up : Bool) (speed : BitVec 2)
  /-- PCIE_LINK_CHANGE: The PCIe link trains up or goes down, changing UP (R527). -/
  | pcieLinkChange (up : Bool) (gen : BitVec 3) (width : BitVec 4)
  /-- PCIE_INBOUND: An inbound host request through a BAR enters the crossbar as HOST and is completed (R398). -/
  | pcieInbound (bar : Fin 3) (off : Nat) (act : HostAct)
  /-- PCIE_COMPLETION_TIMEOUT: An outbound read with no completion within CPLTO gets PCIE_TIMEOUT (R396). -/
  | pcieCompletionTimeout (m : Master) (tag : BitVec 6)
  /-- MSIX_UNMASK: Unmasking an MSI-X vector sends one coalesced pending message (R399). -/
  | msixUnmask (v : BitVec 11)
  /-- HOST_MESSAGE: A host write of HMSG_HANDLE delivers a host message record to the handle's inbound ring (R399). -/
  | hostMessage (m : Master) (h : W32)
  /-- DDR_ZQ_RECAL: Every 128 ms, the controller recalibrates ZQ and DQS, holding accesses (R402). -/
  | ddrZqRecal (start : Bool)
  /-- XSPI_COMMAND: A write of HST_XSPI_CMD issues a JESD251 command to the flash (R404). -/
  | xspiCommand (m : Master) (v : W32)
  /-- XSPI_COMMAND_DONE: An xSPI program, erase or command ends and BUSY clears (R404). -/
  | xspiCommandDone (result : XspiResult)
  /-- BOATHOUSE: A BOATHOUSE request is checked and waits for all cores to reach WAIT (R407). -/
  | boathouse (cause : ModeCause)
  /-- PADDLE: A PADDLE request leaves Hold-water when no cause remains, or is refused (R418). -/
  | paddle (cause : ModeCause)
  /-- EASY_ALL: An EASY_ALL request cancels work, runs the erg runs and enters Boathouse (R419). -/
  | easyAll (cause : ModeCause)
  /-- HOLD_WATER: A HOLD_WATER request or cause enters Hold-water: safe outputs, cancelled jobs, capped ratings and a DVFS step (R416). -/
  | holdWater (cause : ModeCause)
  /-- MODE_REQUEST_TIMEOUT: Cores not all in WAIT within 1 ms end the request with CORES (R407). -/
  | modeRequestTimeout
  /-- BOATHOUSE_ENTRY: Once the last core is in WAIT, the device cleans caches, keeps retention, switches domains and rails off and arms wake sources (R409). -/
  | boathouseEntry
  /-- WAKE_TIMER: TICKS reaching TIMER wakes the device from Boathouse (R414). -/
  | wakeTimer (w : WakeIn)
  /-- WAKE_EVTIN: An edge on an enabled EVT_IN0-7 wakes the device (R414). -/
  | wakeEvtin (j : Fin 8) (w : WakeIn)
  /-- WAKE_IRQIN: An asserted enabled IRQ_INj wakes the device (R414). -/
  | wakeIrqin (j : Fin 8) (w : WakeIn)
  /-- WAKE_ETH: A wake frame to WAKEMAC on ETH0 wakes the device (R414). -/
  | wakeEth (w : WakeIn)
  /-- WAKE_PCIE: A rising edge of PCIE_PERST_N wakes the device (R414). -/
  | wakePcie (w : WakeIn)
  /-- WAKE_SUPPLY: PFAIL_N negated and held for 10 ms wakes the device (R414). -/
  | wakeSupply (w : WakeIn)
  /-- WAKE_WINDOW: The tick computed from a window's catch wakes the device (R415). -/
  | wakeWindow (w : WakeIn)
  /-- WAKE_TIMEOUT: A component not ready within WTIMEOUT is retried once, then falls back to RC or returns to Boathouse, with a chip reset after three failures (R413). -/
  | wakeTimeout (comp : WakeComp) (ready : Bool)
  /-- REFRETRY: REFRETRY retries the reference oscillator after the RC fallback (R413). -/
  | refretry (m : Master) (ok : Bool)
  /-- DOMAIN_IDLE_STAGE: A domain's idle time reaches a threshold and it enters clock gating, retention or off (R421). -/
  | domainIdleStage (d : DomId)
  /-- DOMAIN_FORCE: A write of FORCE holds a domain on, off, or under automatic control (R423). -/
  | domainForce (m : Master) (d : DomId) (v : W32)
  /-- DOMAIN_WAKE_WRITE: A write of WAKE wakes a domain now, or retries a FAILED one (R424). -/
  | domainWakeWrite (m : Master) (d : DomId)
  /-- DOMAIN_WAKE_TIMEOUT: A domain not ready within its wake time plus TIMEOUT is retried once, then enters FAILED and raises DOMAIN_FAIL (R424). -/
  | domainWakeTimeout (d : DomId)
  /-- PAD_RELEASE: A write of RELEASE opens a domain's pad hold now, or when the domain next runs (R426). -/
  | padRelease (m : Master) (d : DomId)
  /-- DVFS_REQUEST: A write of PWR_DVFS_OP sets the target, and the sequencer steps voltage and frequency in order (R430). -/
  | dvfsRequest (m : Master) (v : W32)
  /-- VOLTAGE_CONFIRMED: The regulator confirms the new voltage and VOLT_OP advances (R430). -/
  | voltageConfirmed
  /-- FREQUENCY_SWITCH: After the idle PLL channel locks and DET jobs end, the core clock switches glitch-free (R428). -/
  | frequencySwitch
  /-- VREG_TIMEOUT: A regulator that does not confirm within VTIMEOUT raises VREG_TIMEOUT and drops the target (R431). -/
  | vregTimeout
  /-- REGULATOR_POLL: The manager polls VDD_CORE current every 10 µs and PMBus telemetry every 1 ms (R432). -/
  | regulatorPoll (icore : BitVec 8)
  /-- SUPPLY_MONITOR: A rail outside 92-108 % of its setting raises SUPPLY_UV or SUPPLY_OV (R433). -/
  | supplyMonitor (k : Fin 8) (mv : Nat)
  /-- THERMAL_SAMPLE: Every 10 µs, the junction sensors are sampled and the rating cap is lowered when hot (R434). -/
  | thermalSample (temps : Vector (BitVec 8) 8)
  /-- RATING_CAP_RAISE: Each millisecond below TJ_THROT - 3 °C, the rating cap rises by 1/8 (R434). -/
  | ratingCapRaise
  /-- CURRENT_SAMPLE: A current sample above ICORE_LIM lowers the rating cap by 1/8 (R436). -/
  | currentSample (amps : BitVec 8)
  /-- RATING_RAMP: Every 32 ns, a limited shell's rating rises by 1/8 as the step limit allows (R436). -/
  | ratingRamp (sh : ShellId)
  /-- BALLAST_START: 256 ns before a catch, a reserved shell starts ballast issue (R436). -/
  | ballastStart (sh : ShellId)
  /-- PORST_ASSERT: PORST_N asserted is a chip reset and drives the rail enables low (R514). -/
  | porstAssert
  /-- LAUNCH: On PORST_N negation, a chip reset or three failed wakes, the Launch sequence runs its steps and releases the cores (R439). -/
  | launch (x : LaunchIn)
  /-- RAIL_GOOD: A rail's monitor reports 92 % and the next enable follows (R511). -/
  | railGood (i : Fin 4)
  /-- RAIL_TIMEOUT: A rail not good within 2 ms restarts step 1 once, then stops Launch (R512). -/
  | railTimeout (i : Fin 4)
  /-- LAUNCH_OSC_TIMEOUT: A reference oscillator that fails twice makes Launch continue on the RC oscillator (R441). -/
  | launchOscTimeout
  /-- CHIP_RESET: A chip reset wipes the device state and starts Launch (R406). -/
  | chipReset
  /-- LIFECYCLE_REQUEST: A write of CUS_LC TARGET programs the target's fuses, verifies them and performs a chip reset (R457). -/
  | lifecycleRequest (m : Master) (target : BitVec 3) (o : OtpOutcome)
  /-- ADVANCE: ADVANCE raises the OTP rollback counter to the running image's ROLLBACK (R463). -/
  | advance (m : Master) (ok : Bool)
  /-- PREFER_A: PREFER_A writes a system record that prefers slot A (R463). -/
  | preferA (m : Master)
  /-- PREFER_B: PREFER_B writes a system record that prefers slot B (R463). -/
  | preferB (m : Master)
  /-- COMMIT: A write of a transaction handle to CUS_VLT_CMD queues a settings commit after its checks (R471). -/
  | commit (m : Master) (h : W32)
  /-- COMMIT_END: A commit ends with its status, mirror update and status record (R472). -/
  | commitEnd (o : FlashOutcome)
  /-- SYSTEM_RECORD_WRITE: A new system record is programmed and the older block erased (R465). -/
  | systemRecordWrite (o : FlashOutcome)
  /-- PFAIL_ASSERT: PFAIL_N asserted finishes the record in flight, ends queued commits and starts cut markers (R474). -/
  | pfailAssert
  /-- PFAIL_NEGATE: PFAIL_N negating before collapse writes an end marker (R474). -/
  | pfailNegate
  /-- HUP_SENSE_FALL: HUP_SENSE below its threshold pulls PFAIL_N low (R515). -/
  | hupSenseFall
  /-- CUT_MARKER: Every 250 µs after t0, the vault programs a cut marker (R474). -/
  | cutMarker
  /-- VAULT_COMPACTION: When free space falls below two blocks, the oldest journal block is copied forward and erased (R476). -/
  | vaultCompaction (ok : Bool)
  /-- BLOCK_RESET: A REACT 3 block reset returns the block to idle, fills its memories and resets its registers (R481). -/
  | blockReset (b : BlkId)
  /-- BLOCK_RESET_END: The block reset ends after its fill, and held requests proceed (R481). -/
  | blockResetEnd (b : BlkId)
  /-- SHADOW_END: The reset shadow ends 64 fabric cycles after the block reset (R482). -/
  | shadowEnd (b : BlkId)
  /-- NMI_WAIT_EXPIRY: A FAULT_NMI still set after NMI_WAIT, with no core accepting it, escalates to Hold-water (R486). -/
  | nmiWaitExpiry
  /-- UMPIRE_TOGGLE: With TOGGLE set, the healthy umpire pair changes state every 32 always-on cycles (R489). -/
  | umpireToggle
  /-- UMPIRE_HEALTHY: When the last fault cause ends, the pair returns to healthy at the next always-on edge (R488). -/
  | umpireHealthy
  /-- UMPIRE_READBACK: A ball level that differs from the driven level for two cycles raises UMP_READBACK (R490). -/
  | umpireReadback (t c : Bool)
  /-- EXTEST: JTAG instruction EXTEST selects boundary scan (R491). -/
  | extest
  /-- SAMPLE_PRELOAD: JTAG instruction SAMPLE/PRELOAD selects boundary scan (R491). -/
  | samplePreload
  /-- IDCODE: JTAG IDCODE returns the device identity (R491). -/
  | idcode
  /-- LCSTAT: JTAG LCSTAT returns the life-cycle, umpire and boot status (R491). -/
  | lcstat
  /-- BYPASS: JTAG BYPASS selects the 1-bit register, also for instructions that are not permitted (R491). -/
  | bypass
  /-- NOP: DBGCMD NOP returns the previous response (R492). -/
  | nop
  /-- SETADDR: DBGCMD SETADDR loads the debug address (R492). -/
  | setaddr (operand : W64)
  /-- DBG_READ32: DBGCMD READ32 reads a word and advances the address (R492). -/
  | dbgRead32
  /-- DBG_READ64: DBGCMD READ64 reads a doubleword and advances the address (R492). -/
  | dbgRead64
  /-- DBG_WRITE32: DBGCMD WRITE32 writes a word and advances the address (R492). -/
  | dbgWrite32 (operand : W64)
  /-- DBG_WRITE64: DBGCMD WRITE64 writes a doubleword and advances the address (R492). -/
  | dbgWrite64 (operand : W64)
  /-- DBG_CHIPRESET: DBGCMD CHIPRESET performs a chip reset with cause 5 (R492). -/
  | dbgChipreset
  /-- LCREQ: DBGCMD LCREQ requests a life-cycle transition (R492). -/
  | lcreq (operand : W64)
  /-- OTPPROG: DBGCMD OTPPROG programs an OTP word, in TEST only (R492). -/
  | otpprog (operand : W64)
  /-- ERGSTART: DBGCMD ERGSTART starts erg-run groups (R492). -/
  | ergstart (operand : W64)
  /-- ERG_START: A write of PWR_ERG_CMD.START runs the named erg groups where allowed (R495). -/
  | ergStart (m : Master) (v : W32)
  /-- ERG_GROUP_DONE: An erg group ends, its blocks are reset or restored, and its ERG record is committed (R496). -/
  | ergGroupDone (result : ErgOutcome)
  /-- TIMEBASE_ADVANCE: On every time-PLL cycle the 96-bit timebase advances by its nominal increment, adds the RATE units in each third cycle, works off the pending slew and carries nanoseconds into seconds (R337). -/
  | timebaseAdvance (time : TimeIn)
  /-- FREQ_IN_CHANGE: FREQ_IN appearing or disappearing sets or clears TIM_TB_STAT.FREQ_OK and moves the time PLL in PPS mode between FREQ_IN and the 25 MHz reference (R339). -/
  | freqInChange (present : Bool)
  /-- DDR_READY: After a wake with DDR_SR set, the background retraining from seeds ends, HST_DDR_STAT.READY sets, and the DDR5 requests held since the wake proceed (R411). -/
  | ddrReady
  /-- CRYSTAL_STABLE: When the 32.768 kHz crystal becomes stable, the always-on domain changes over glitch-free from the divided RC oscillator to the crystal (R511). -/
  | crystalStable
deriving DecidableEq, Repr

end Sys2Proof
end

