-- ==== Sys2Proof/Decode.lean ====
section
/-!
DEFINITION. The command that a word spells by the table's bits. No row of spec/opcode_table.json gives bits
(every row's fields list is empty), so no word spells a command.
-/
namespace Sys2Proof

/-- The command spelled by the word w of nbits bits, numbered as spec/opcode_table.json numbers them: none. -/
def decodeTableWord (_nbits _w : Nat) : Option Instr := none

end Sys2Proof
end

