-- ==== Sys2Proof/Machine/Bits.lean ====
section
/-!
DEFINITION. Bit fields, sign extension and byte order, on natural numbers and words
(spec/00_scope.md: [h:l] runs from bit h down to bit l; the device is little-endian).
-/
namespace Sys2Proof.Machine

/-- Bits [hi:lo] of a number. -/
def bits (x hi lo : Nat) : Nat := (x / 2 ^ lo) % 2 ^ (hi + 1 - lo)

/-- Bit i of a number. -/
def bit (x i : Nat) : Bool := x.testBit i

/-- The number with bits [hi:lo] replaced. -/
def putBits (x hi lo v : Nat) : Nat :=
  x - bits x hi lo * 2 ^ lo + (v % 2 ^ (hi + 1 - lo)) * 2 ^ lo

/-- 1 for true, 0 for false. -/
def bnat (b : Bool) : Nat := if b then 1 else 0

/-- A number of w bits read as two's complement. -/
def sgn (w x : Nat) : Int := if x % 2 ^ w < 2 ^ (w - 1) then (x % 2 ^ w : Nat) else (x % 2 ^ w : Nat) - (2 ^ w : Nat)

/-- An integer reduced to w bits. -/
def wrap (w : Nat) (i : Int) : Nat := (i % (2 ^ w : Nat)).toNat

/-- A count that stops at its greatest value. -/
def satAdd (x d top : Nat) : Nat := min (x + d) top

/-- The number whose bytes, least significant first, these are. -/
def leNat : List Byte → Nat
  | [] => 0
  | b :: bs => b.toNat + 256 * leNat bs

/-- The n low bytes of a number, least significant first. -/
def leBytes : Nat → Nat → List Byte
  | 0, _ => []
  | n + 1, x => BitVec.ofNat 8 (x % 256) :: leBytes n (x / 256)

/-- The number whose bytes, most significant first, these are. -/
def beNat (bs : List Byte) : Nat := leNat bs.reverse

/-- The n low bytes of a number, most significant first. -/
def beBytes (n x : Nat) : List Byte := (leBytes n x).reverse

/-- Word j (32 bits) of a list of words, 0 beyond its end. -/
def wordAt (ws : List Nat) (j : Nat) : Nat := ws.getD j 0

/-- Bytes cut into little-endian words of n bytes. -/
def leWords (n : Nat) : Nat → List Byte → List Nat
  | 0, _ => []
  | k + 1, bs => leNat (bs.take n) :: leWords n k (bs.drop n)

/-- Whether a number lies in a closed range. -/
def within (lo hi : Nat) (v : Nat) : Bool := lo ≤ v && v ≤ hi

/-- Round up to a multiple of n. -/
def roundUp (x n : Nat) : Nat := (x + n - 1) / n * n

/-- Base-2 logarithm, rounded down; 0 for 0. -/
def log2 (x : Nat) : Nat := Nat.log2 x

/-- The numbers of a set given as the bits of a mask, below n. -/
def bitsOf (mask n : Nat) : List Nat := (List.range n).filter (fun i => mask.testBit i)

/-- Set or clear bit i. -/
def setBit (x i : Nat) (b : Bool) : Nat := putBits x i i (bnat b)

end Sys2Proof.Machine
end

