-- ==== Sys2Proof/Machine/Crypto.lean ====
section
/-!
DEFINITION. SHA-384 (FIPS 180-4) and ECDSA over P-384 (FIPS 186-5), which R442, R447, R459 and R462 name
(PRESUMED: the standards stand outside the spec, notes/assumptions/21.md).
-/
namespace Sys2Proof.Machine

/-! ### SHA-384 -/

/-- A number written in 64-bit words, the first word its most significant one. -/
def words64 (n x : Nat) : List Nat := (List.range n).map (fun i => x / 2 ^ (64 * (n - 1 - i)) % 2 ^ 64)

/-- Round constants, five to a number. -/
def shaConst : List Nat :=
  [0x428a2f98d728ae227137449123ef65cdb5c0fbcfec4d3b2fe9b5dba58189dbbc3956c25bf348b538,
   0x59f111f1b605d019923f82a4af194f9bab1c5ed5da6d8118d807aa98a303024212835b0145706fbe,
   0x243185be4ee4b28c550c7dc3d5ffb4e272be5d74f27b896f80deb1fe3b1696b19bdc06a725c71235,
   0xc19bf174cf692694e49b69c19ef14ad2efbe4786384f25e30fc19dc68b8cd5b5240ca1cc77ac9c65,
   0x2de92c6f592b02754a7484aa6ea6e4835cb0a9dcbd41fbd476f988da831153b5983e5152ee66dfab,
   0xa831c66d2db43210b00327c898fb213fbf597fc7beef0ee4c6e00bf33da88fc2d5a79147930aa725,
   0x06ca6351e003826f142929670a0e6e7027b70a8546d22ffc2e1b21385c26c9264d2c6dfc5ac42aed,
   0x53380d139d95b3df650a73548baf63de766a0abb3c77b2a881c2c92e47edaee692722c851482353b]
  ++ [0xa2bfe8a14cf10364a81a664bbc423001c24b8b70d0f89791c76c51a30654be30d192e819d6ef5218,
   0xd69906245565a910f40e35855771202a106aa07032bbd1b819a4c116b8d2d0c81e376c085141ab53,
   0x2748774cdf8eeb9934b0bcb5e19b48a8391c0cb3c5c95a634ed8aa4ae3418acb5b9cca4f7763e373,
   0x682e6ff3d6b2b8a3748f82ee5defb2fc78a5636f43172f6084c87814a1f0ab728cc702081a6439ec,
   0x90befffa23631e28a4506cebde82bde9bef9a3f7b2c67915c67178f2e372532bca273eceea26619c,
   0xd186b8c721c0c207eada7dd6cde0eb1ef57d4f7fee6ed17806f067aa72176fba0a637dc5a2c898a6,
   0x113f9804bef90dae1b710b35131c471b28db77f523047d8432caab7b40c724933c9ebe0a15c9bebc,
   0x431d67c49c100d4c4cc5d4becb3e42b6597f299cfc657e2a5fcb6fab3ad6faec6c44198c4a475817]

/-- Round constant t. -/
def shaK (t : Nat) : Nat := shaConst.getD (t / 5) 0 / 2 ^ (64 * (4 - t % 5)) % 2 ^ 64

/-- Initial value, as one number of eight words. -/
def shaStart : Nat :=
  0xcbbb9d5dc1059ed8629a292a367cd5079159015a3070dd17152fecd8f70e593967332667ffc00b318eb44a8768581511db0c2e0d64f98fa747b5481dbefa4fa4

/-- A 64-bit word rotated right. -/
def ror64 (x n : Nat) : Nat := (x / 2 ^ n + x * 2 ^ (64 - n)) % 2 ^ 64

/-- The exclusive or of a word's rotations by the amounts listed. -/
def rotMix (ns : List Nat) (x : Nat) : Nat := ns.foldl (fun r n => r ^^^ ror64 x n) 0

/-- The next word of the message schedule after those listed, newest first. -/
def shaNext (w : List Nat) : Nat :=
  let far := w.getD 14 0
  let near := w.getD 1 0
  ((rotMix [1, 8] far ^^^ far / 2 ^ 7) + (rotMix [19, 61] near ^^^ near / 2 ^ 6) + w.getD 15 0 + w.getD 6 0) % 2 ^ 64

/-- The two running sequences of a block, newest first: the words that enter a and e in each round. -/
structure ShaRun where
  as : List Nat
  es : List Nat

/-- Round t with its schedule word: what leaves e's sequence four rounds on feeds both. -/
def ShaRun.round (r : ShaRun) (t word : Nat) : ShaRun :=
  match r.as, r.es with
  | a :: a1 :: a2 :: a3 :: _, e :: e1 :: e2 :: e3 :: _ =>
    let feed := e3 + rotMix [14, 18, 41] e + (e2 ^^^ (e &&& (e1 ^^^ e2))) + shaK t + word
    ⟨[(feed + rotMix [28, 34, 39] a + ((a &&& a1) ||| (a2 &&& (a ||| a1)))) % 2 ^ 64, a, a1, a2], [(a3 + feed) % 2 ^ 64, e, e1, e2]⟩
  | _, _ => r

/-- Rounds from t on over the schedule words listed, newest first, of which word t is the one at place 15. -/
def shaRounds : Nat → Nat → List Nat → ShaRun → ShaRun
  | 0, _, _, r => r
  | n + 1, t, w, r => shaRounds n (t + 1) (shaNext w :: w.take 15) (r.round t (w.getD 15 0))

/-- One block of compression, of a chaining value in eight words. -/
def shaBlock (h block : List Nat) : List Nat :=
  let r := shaRounds 80 0 block.reverse ⟨h.take 4, h.drop 4⟩
  List.zipWith (fun x y => (x + y) % 2 ^ 64) h (r.as ++ r.es)

/-- Cut a list into pieces of n. -/
def pieces {α : Type} (n : Nat) : Nat → List α → List (List α)
  | 0, _ => []
  | k + 1, l => if l.isEmpty then [] else l.take n :: pieces n k (l.drop n)

/-- SHA-384 of a message. -/
def sha384 (m : List Byte) : List Byte :=
  let pad := m ++ 0x80#8 :: List.replicate ((239 - m.length % 128) % 128) 0 ++ beBytes 16 (8 * m.length)
  let h := (pieces 128 (pad.length / 128) pad).foldl (fun h b => shaBlock h ((pieces 8 16 b).map beNat)) (words64 8 shaStart)
  (h.take 6).flatMap (beBytes 8)

/-! ### ECDSA over P-384 -/

/-- Field prime, group order, curve constant b, base point. -/
def p384 : Nat := 0xfffffffffffffffffffffffffffffffffffffffffffffffffffffffffffffffeffffffff0000000000000000ffffffff
def n384 : Nat := 0xffffffffffffffffffffffffffffffffffffffffffffffffc7634d81f4372ddf581a0db248b0a77aecec196accc52973
def b384 : Nat := 0xb3312fa7e23ee7e4988e056be3f82d19181d9c6efe8141120314088f5013875ac656398d8a2ed19d2a85c8edd3ec2aef
def g384 : Nat × Nat :=
  (0xaa87ca22be8b05378eb1c71ef320ad746e1d3b628ba79b9859f741e082542a385502f25dbf55296c3a545e3872760ab7,
   0x3617de4a96262c6f5d9e98bf9292dc29f8f41dbd289a147ce9da3113b5f0b8c00a60b1ce1d7e819d7a431d7c90ea0e5f)

/-- x to the power e modulo n, over the bits of e. -/
def powMod (n x e : Nat) : Nat :=
  ((List.range (Nat.log2 e + 1)).reverse).foldl (fun r i => if e.testBit i then r * r % n * x % n else r * r % n) 1

/-- Inverse modulo a prime. -/
def invMod (n x : Nat) : Nat := powMod n x (n - 2)

/-- A point in Jacobian coordinates: x = X / Z², y = Y / Z³; Z = 0 is the point at infinity. -/
structure EcPoint where
  x : Nat
  y : Nat
  z : Nat

/-- Difference and product modulo the field prime. -/
def fSub (a b : Nat) : Nat := (a + (p384 - b)) % p384
def fMul (a b : Nat) : Nat := a * b % p384

/-- A point doubled; the curve's a is -3. -/
def ecDouble (a : EcPoint) : EcPoint :=
  let g := fMul a.y a.y
  let d := fMul a.z a.z
  let b := fMul a.x g
  let m := fMul 3 (fMul (fSub a.x d) (a.x + d))
  let x := fSub (fMul m m) (fMul 8 b)
  ⟨x, fSub (fMul m (fSub (fMul 4 b) x)) (fMul 8 (fMul g g)), fMul 2 (fMul a.y a.z)⟩

/-- Sum of two points. -/
def ecAdd (a b : EcPoint) : EcPoint :=
  if a.z = 0 then b
  else if b.z = 0 then a
  else
    let za := fMul a.z a.z
    let zb := fMul b.z b.z
    let u := fMul a.x zb
    let v := fMul a.y (fMul b.z zb)
    let h := fSub (fMul b.x za) u
    let r := fSub (fMul b.y (fMul a.z za)) v
    if h = 0 then (if r = 0 then ecDouble a else ⟨1, 1, 0⟩)
    else
      let h2 := fMul h h
      let h3 := fMul h h2
      let w := fMul u h2
      let x := fSub (fSub (fMul r r) h3) (fMul 2 w)
      ⟨x, fSub (fMul r (fSub w x)) (fMul v h3), fMul h (fMul a.z b.z)⟩

/-- A multiple of a point, over the bits of the factor. -/
def ecMul (k : Nat) (q : EcPoint) : EcPoint :=
  ((List.range (Nat.log2 k + 1)).reverse).foldl (fun r i =>
    let r := ecDouble r
    if k.testBit i then ecAdd r q else r) ⟨1, 1, 0⟩

/-- Verification of a signature (r, s) over a digest with a public key (x, y). -/
def ecdsaVerify (digest : List Byte) (x y r s : Nat) : Bool :=
  let n := n384
  let p := p384
  if r = 0 ∨ s = 0 ∨ n ≤ r ∨ n ≤ s ∨ p ≤ x ∨ p ≤ y then false
  else if y * y % p ≠ (x * x * x + (p - 3) * x + b384) % p then false
  else
    let w := invMod n s
    let u := ecAdd (ecMul (beNat digest * w % n) ⟨g384.1, g384.2, 1⟩) (ecMul (r * w % n) ⟨x, y, 1⟩)
    let i := invMod p u.z
    u.z ≠ 0 ∧ fMul u.x (fMul i i) % n = r

end Sys2Proof.Machine
end

