-- ==== Sys2Proof/Machine/NMap.lean ====
section
/-!
DEFINITION. The operations on a sparse map (a list of key and value pairs, keys strictly rising).
-/
namespace Sys2Proof.Machine

variable {α : Type}

/-- The value at a key, if one is listed. -/
def nget (k : Nat) : NMap α → Option α
  | [] => none
  | (i, v) :: m => if i = k then some v else nget k m

/-- The value at a key, or a default. -/
def ngetD (m : NMap α) (k : Nat) (d : α) : α := (nget k m).getD d

/-- List a value at a key, replacing any value there, in rising order of keys. -/
def nput (k : Nat) (v : α) : NMap α → NMap α
  | [] => [(k, v)]
  | (i, w) :: m =>
    if i = k then (k, v) :: m
    else if k < i then (k, v) :: (i, w) :: m
    else (i, w) :: nput k v m

/-- Take a key off the list. -/
def ndel (k : Nat) (m : NMap α) : NMap α := m.filter (fun p => p.1 ≠ k)

/-- Take every key of a range off the list. -/
def ndelRange (lo len : Nat) (m : NMap α) : NMap α := m.filter (fun p => ¬ (lo ≤ p.1 ∧ p.1 < lo + len))

/-- The keys rise strictly. -/
def risingFrom : Option Nat → NMap α → Bool
  | _, [] => true
  | b, (i, _) :: m => (match b with | none => true | some x => decide (x < i)) && risingFrom (some i) m

/-- The canonical form of a sparse map. -/
def rising (m : NMap α) : Bool := risingFrom none m

end Sys2Proof.Machine
end

