-- ==== Sys2Proof/Machine/RegMap.lean ====
section
/-!
DEFINITION. The register space (spec/00_scope.md R4 to R11): the blocks, the rows of their register tables
with access type, reset value and reserved encodings, and the reset level that owns each row.
-/
namespace Sys2Proof.Machine

/-- The access types of R5; w1cAll clears its whole field on any written 1 (04, SCRUB_QUEUE.DROPPED; 11, IRQQ.DROPPED). -/
inductive Acc where
  | rw | ro | wo | w1c | w1cAll | rwl
deriving DecidableEq, Repr

/-- The reset that owns a register (R6). launch: rewritten by each Launch only (15, PWR_LCH). -/
inductive Lvl where
  | power | chip | subsys | block | launch
deriving DecidableEq, Repr

/-- One row of a register table. legal says which written values are not reserved encodings (R8). -/
structure FieldRow where
  hi : Nat
  lo : Nat
  acc : Acc
  reset : Nat → Nat
  legal : Nat → Bool

/-- One register, repeated count times at a stride. -/
structure RegRow where
  off : Nat
  stride : Nat
  count : Nat
  wide : Bool
  lvl : Lvl
  fields : List FieldRow

/-- The blocks of the register space. -/
inductive Blk where
  | pwrCtl | pwrAon | pwrDom | pwrDvfs | pwrGov | pwrLch | pwrFlt | pwrErg
  | cusLc | cusAuth | cusVlt
  | timTb | timPf | timTrip | timReg
  | xbrCtl
  | cox (n : Fin 4)
  | vecSched | vecShell (n : Fin 4)
  | crsCtl | crsScrub | crsArr (k : Fin 16)
  | crwCtl | crwScrub | crwMarch | crwArr
  | movStk | movRing (k : Fin 4) | movMvr
  | ingCtl | ingLink (k : Fin 4)
  | netPort (n : Fin 4) | netPair (p : Fin 2)
  | hstPcie | hstDdr | hstXspi
deriving DecidableEq, Repr

/-- Subsystem number and block window index of a block (R4, and the register sections of the chapters). -/
def Blk.place : Blk → Nat × Nat
  | .pwrCtl => (0, 0) | .pwrAon => (0, 1) | .pwrDom => (0, 2) | .pwrDvfs => (0, 3) | .pwrGov => (0, 4)
  | .pwrLch => (0, 5) | .pwrFlt => (0, 6) | .pwrErg => (0, 7)
  | .cusLc => (1, 0) | .cusAuth => (1, 1) | .cusVlt => (1, 2)
  | .timTb => (2, 0) | .timPf => (2, 1) | .timTrip => (2, 2) | .timReg => (2, 3)
  | .xbrCtl => (3, 0)
  | .cox n => (4, 1 + n.val)
  | .vecSched => (5, 0) | .vecShell n => (5, 1 + n.val)
  | .crsCtl => (6, 0) | .crsScrub => (6, 1) | .crsArr k => (6, 2 + k.val)
  | .crwCtl => (7, 0) | .crwScrub => (7, 1) | .crwMarch => (7, 2) | .crwArr => (7, 3)
  | .movStk => (8, 0) | .movRing k => (8, 1 + k.val) | .movMvr => (8, 5)
  | .ingCtl => (9, 0) | .ingLink k => (9, 1 + k.val)
  | .netPort n => (10, n.val) | .netPair p => (10, 4 + p.val)
  | .hstPcie => (11, 0) | .hstDdr => (11, 1) | .hstXspi => (11, 2)

/-- All blocks. -/
def allBlks : List Blk :=
  [.pwrCtl, .pwrAon, .pwrDom, .pwrDvfs, .pwrGov, .pwrLch, .pwrFlt, .pwrErg, .cusLc, .cusAuth, .cusVlt,
   .timTb, .timPf, .timTrip, .timReg, .xbrCtl, .vecSched, .crsCtl, .crsScrub, .crwCtl, .crwScrub, .crwMarch,
   .crwArr, .movStk, .movMvr, .ingCtl, .hstPcie, .hstDdr, .hstXspi]
  ++ (List.finRange 4).map .cox ++ (List.finRange 4).map .vecShell ++ (List.finRange 16).map .crsArr
  ++ (List.finRange 4).map .movRing ++ (List.finRange 4).map .ingLink ++ (List.finRange 4).map .netPort
  ++ (List.finRange 2).map .netPair

/-- First address of a block's 64 KiB window (R4). -/
def Blk.base (b : Blk) : Nat := 0x10000000 + b.place.1 * 0x1000000 + b.place.2 * 0x10000

/-- The block with a subsystem and window number, if one is assigned. -/
def blkAt (n w : Nat) : Option Blk := allBlks.find? (fun b => b.place == (n, w))

/-- A field with a constant reset value. -/
def fld (acc : Acc) (hi lo reset : Nat) : FieldRow := ⟨hi, lo, acc, fun _ => reset, fun _ => true⟩
/-- A field of which only some values may be written (R8). -/
def fldL (acc : Acc) (hi lo reset : Nat) (legal : Nat → Bool) : FieldRow := ⟨hi, lo, acc, fun _ => reset, legal⟩
/-- A 32-bit register. -/
def reg (lvl : Lvl) (off : Nat) (fields : List FieldRow) : RegRow := ⟨off, 4, 1, false, lvl, fields⟩
/-- A 64-bit register. -/
def reg64 (lvl : Lvl) (off : Nat) (fields : List FieldRow) : RegRow := ⟨off, 8, 1, true, lvl, fields⟩
/-- A repeated 32-bit register. -/
def regs (lvl : Lvl) (off stride count : Nat) (fields : List FieldRow) : RegRow := ⟨off, stride, count, false, lvl, fields⟩
/-- A repeated 64-bit register. -/
def regs64 (lvl : Lvl) (off stride count : Nat) (fields : List FieldRow) : RegRow := ⟨off, stride, count, true, lvl, fields⟩
/-- The whole of a 32-bit register as one field. -/
def all32 (acc : Acc) (reset : Nat) : List FieldRow := [fld acc 31 0 reset]
/-- The whole of a 64-bit register as one field. -/
def all64 (acc : Acc) (reset : Nat) : List FieldRow := [fld acc 63 0 reset]
/-- Bits of a fault source's reset reaction packed four to a source, as REACTi holds them. -/
def packReact (l : List Nat) (i : Nat) : Nat :=
  (List.range 8).foldl (fun a j => a + l.getD (8 * i + j) 0 * 16 ^ j) 0

/-- Fault sources of a block in bit order: condition or event, reset REACT, reset UMP, subject to the shadow (R487). -/
structure Source where
  cond : Bool
  react : Nat
  ump : Bool
  w : Bool

/-- The reaction matrix (R487). -/
def sources : Blk → List Source
  | .pwrCtl => [⟨false, 1, true, false⟩]
  | .pwrAon => [⟨false, 1, false, false⟩, ⟨false, 1, true, false⟩]
  | .pwrDom => [⟨false, 1, false, false⟩]
  | .pwrDvfs => [⟨false, 1, false, false⟩]
  | .pwrGov => [⟨true, 2, true, false⟩, ⟨true, 1, false, false⟩, ⟨true, 2, true, false⟩, ⟨true, 2, true, false⟩,
                ⟨true, 1, false, false⟩]
  | .pwrFlt => [⟨true, 1, false, false⟩]
  | .pwrErg => [⟨false, 1, false, false⟩]
  | .cusLc => [⟨false, 1, true, false⟩]
  | .cusVlt => [⟨false, 1, false, false⟩, ⟨false, 2, true, false⟩]
  | .timTb => [⟨false, 0, false, false⟩, ⟨true, 1, false, false⟩]
  | .timPf => [⟨true, 1, false, false⟩]
  | .timReg => [⟨false, 2, true, false⟩, ⟨false, 1, false, false⟩]
  | .xbrCtl => [⟨false, 1, false, false⟩]
  | .cox _ => [⟨false, 1, false, false⟩, ⟨false, 4, true, false⟩]
  | .vecShell _ => [⟨true, 1, false, true⟩, ⟨false, 1, false, false⟩, ⟨false, 1, false, false⟩]
  | .crsCtl => [⟨false, 1, false, false⟩, ⟨false, 1, false, false⟩]
  | .crsScrub | .crwScrub => [⟨false, 1, false, false⟩, ⟨true, 1, false, false⟩, ⟨true, 1, false, false⟩]
  | .crwCtl => [⟨false, 1, false, false⟩, ⟨false, 1, false, true⟩, ⟨false, 0, false, false⟩]
  | .crwMarch => [⟨false, 1, false, false⟩]
  | .movStk => [⟨false, 2, true, false⟩]
  | .movRing _ => [⟨false, 1, false, false⟩]
  | .movMvr => [⟨false, 1, false, true⟩]
  | .ingLink _ => [⟨true, 1, false, false⟩, ⟨false, 1, false, false⟩]
  | .netPort _ => [⟨true, 1, false, false⟩, ⟨false, 1, false, false⟩]
  | .hstPcie => [⟨true, 1, false, false⟩, ⟨false, 1, false, true⟩]
  | .hstDdr => [⟨false, 1, false, false⟩, ⟨false, 2, true, false⟩]
  | _ => []

/-- Whether REACT 3, a block reset, is permitted in the block (R487). -/
def mayBlockReset : Blk → Bool
  | .pwrCtl | .pwrAon | .pwrDom | .pwrDvfs | .pwrGov | .pwrLch | .pwrFlt | .pwrErg => false
  | .cusLc | .cusAuth | .cusVlt | .timTb | .timTrip | .timReg | .xbrCtl => false
  | _ => true

/-- Whether every REACT value of a written REACTi word is one R479 gives; checked source by source on a write. -/
def reactLegal (b : Blk) (v : Nat) : Bool := v ≤ 4 && (v ≠ 3 || mayBlockReset b)

/-- The reset level of a block's fault register set (R477). -/
def faultLvl : Blk → Lvl
  | .pwrAon => .power
  | .pwrCtl | .pwrDom | .pwrDvfs | .pwrGov | .pwrLch | .pwrFlt | .pwrErg | .cusLc | .cusAuth | .cusVlt => .chip
  | _ => .subsys

/-- Offset of a block's fault register set from its window base; RINGk's set lies in MOV_STK (R477). -/
def faultOff : Blk → Nat
  | .movRing k => 0xF100 + 0x100 * k.val
  | _ => 0xF000

/-- The block in whose window a block's fault register set lies (R477). -/
def faultHome : Blk → Blk
  | .movRing _ => .movStk
  | b => b

/-- The fault register set of a block at an offset of its home window (17, Registers). -/
def faultRows (b : Blk) : List RegRow :=
  let o := faultOff b
  let n := (sources b).length
  let l := faultLvl b
  let cfg := [reg l (o + 0x18) [fld .w1c 31 31 0, fld .ro 15 0 0]]
  if n = 0 then cfg else
  [ reg l o [fld .w1c (n - 1) 0 0]
  , reg l (o + 4) [fld .ro (n - 1) 0 0]
  , reg l (o + 8) [fld .w1c (n - 1) 0 0]
  , reg l (o + 0xC) [fld .rwl (n - 1) 0 ((sources b).foldr (fun s a => bnat s.ump + 2 * a) 0)]
  , reg l (o + 0x10) [fld .rwl (n - 1) 0 0]
  , reg l (o + 0x14) [fldL .rwl 3 0 1 (· ≠ 0)]
  , reg l (o + 0x20) ((List.range n).map fun j =>
      let nmi := match b with | .cox _ => j == 1 | _ => false
      fldL (if nmi then .ro else .rwl) (4 * j + 2) (4 * j) (((sources b).map Source.react).getD j 0) (reactLegal b)) ]
  ++ cfg

/-- Registers of the CTL blocks of both memories at 0x200 to 0x257 (04). -/
def memCtlRows : List RegRow :=
  [ reg64 .subsys 0x200 (all64 .ro 0)
  , reg .subsys 0x208 [fld .w1c 31 31 0, fld .ro 30 24 0, fld .ro 23 16 0, fld .ro 15 12 0, fld .ro 11 8 0]
  , reg .subsys 0x20C (all32 .rw 0)
  , reg64 .subsys 0x210 (all64 .ro 0)
  , reg .subsys 0x218 [fld .w1c 31 31 0, fld .ro 30 30 0, fld .ro 23 16 0, fld .ro 15 12 0, fld .ro 11 8 0, fld .ro 7 0 0]
  , reg .subsys 0x21C (all32 .rw 0) ]

/-- The test registers of R153. -/
def memTestRows : List RegRow :=
  [ reg64 .subsys 0x240 (all64 .rw 0)
  , reg64 .subsys 0x248 (all64 .rw 0)
  , reg .subsys 0x250 [fld .rw 7 0 0]
  , reg .subsys 0x254 [fld .rwl 31 31 0, fld .wo 1 0 0] ]

/-- The SCRUB block of either memory (04). -/
def scrubRows (rate top : Nat) : List RegRow :=
  [ reg .block 0x000 [fldL .rw 23 0 rate (· ≤ top)]
  , reg .block 0x004 [fld .rwl 8 8 0, fldL .rw 7 0 4 (· ≠ 0)]
  , reg .block 0x008 (all32 .ro 0)
  , reg .block 0x00C (all32 .ro 0)
  , reg .block 0x010 [fld .w1cAll 15 8 0, fld .ro 3 0 0]
  , reg .block 0x014 [fld .w1c 31 31 0, fld .ro 17 8 0, fld .ro 6 0 0]
  , reg .block 0x018 (all32 .ro 0) ]

/-- An array block of either memory (04); all have 64 local banks. -/
def arrRows : List RegRow :=
  [ reg64 .block 0x000 (all64 .rw 0)
  , reg .block 0x008 [fld .rw 31 31 0, fld .rw 7 0 0]
  , regs64 .block 0x100 8 64 [fld .ro 63 32 0, fld .w1c 31 31 0, fld .ro 30 30 0, fld .ro 29 27 0, fld .ro 23 16 0, fld .ro 12 0 0]
  , regs .block 0x300 4 64 (all32 .ro 0) ]

/-- Reset voltage of each operating point in mV (R429). -/
def vopReset (k : Nat) : Nat := [600, 620, 650, 680, 710, 740, 770, 800].getD k 800

/-- The registers of each block, as the chapters' tables give them. -/
def blockRows : Blk → List RegRow
  | .pwrCtl =>
    [ reg .chip 0x000 [fld .ro 31 31 0, fld .ro 10 8 0, fld .wo 6 4 0, fld .ro 2 0 1]
    , reg .chip 0x004 [fldL .rwl 7 4 2 (within 1 8), fldL .rwl 2 0 2 (within 0 3)]
    , reg .chip 0x008 [fld .w1c 2 2 0, fld .w1c 1 1 0, fld .w1c 0 0 0]
    , reg .chip 0x00C [fld .rwl 2 0 4] ]
  | .pwrAon =>
    [ reg .power 0x000 [fld .rw 31 24 0, fld .rw 23 16 0, fld .rw 4 0 0]
    , reg .power 0x004 [fld .ro 31 29 0, fld .ro 28 25 0, fld .ro 19 16 0, fld .ro 2 0 0]
    , reg64 .power 0x008 [fld .ro 47 0 0]
    , reg64 .power 0x010 [fld .rw 47 0 0]
    , reg .power 0x018 [fld .rw 17 4 0, fld .rw 3 3 0, fld .rw 2 0 4]
    , reg .power 0x01C [fldL .rw 15 0 2000 (1000 ≤ ·)]
    , reg64 .power 0x020 [fld .rw 47 0 0]
    , regs64 .power 0x040 8 4 [fld .rw 43 4 0]
    , reg .power 0x060 [fld .wo 0 0 0] ]
  | .pwrDom =>
    [ reg .chip 0x800 [fldL .rw 15 0 20 (· ≠ 0)]
    , regs .chip 0x0 16 120 [fld .ro 7 7 0, fld .wo 6 6 0, fld .rw 5 5 0, fld .wo 4 4 0, fldL .rw 1 0 0 (· ≠ 3)]
    , regs .chip 0x4 16 120 [fld .rw 31 16 0, fld .rw 15 0 0]
    , regs .chip 0x8 16 120 (all32 .rw 0)
    , regs .chip 0xC 16 120 [fld .ro 31 16 0, fld .ro 2 0 0] ]
  | .pwrDvfs =>
    [ reg .chip 0x000 [fld .rw 2 0 0]
    , reg .chip 0x004 [fld .ro 31 31 0, fld .ro 30 30 0, fld .ro 29 29 0, fld .ro 28 28 0, fld .ro 10 8 0, fld .ro 6 4 0, fld .ro 2 0 0]
    , reg .chip 0x008 [fldL .rw 15 0 1000 (· ≠ 0)]
    , reg .chip 0x040 [fld .rwl 2 0 7] ]
    ++ (List.range 8).map (fun k =>
        reg .chip (0x020 + 4 * k) [fldL .rwl 9 0 (vopReset k) (within (vopReset k - 50) (vopReset k + 50))])
  | .pwrGov =>
    [ reg .chip 0x000 [fldL .rwl 31 24 95 (· ≤ 105), fldL .rwl 15 8 115 (within 100 115), fldL .rwl 5 0 8 (within 1 32)]
    , reg .chip 0x004 [fld .ro 31 24 0, fld .ro 23 16 0, fld .ro 15 12 8, fld .ro 11 11 0, fld .ro 10 10 0]
    , reg .chip 0x008 [fld .ro 15 0 0]
    , reg .chip 0x00C [fld .ro 15 8 0, fld .ro 7 0 0] ]
  | .pwrLch =>
    [ reg .launch 0x000 [fld .ro 31 28 0, fld .ro 27 27 0, fld .ro 26 26 0, fld .ro 25 25 0, fld .ro 24 24 0, fld .ro 23 20 0, fld .ro 19 16 0, fld .ro 1 0 0]
    , reg .launch 0x004 (all32 .ro 0)
    , reg .launch 0x008 (all32 .ro 0)
    , regs .launch 0x040 4 14 (all32 .ro 0) ]
  | .pwrFlt =>
    [ reg .chip 0x000 [fld .rw 2 2 0, fld .rwl 1 1 0, fld .ro 0 0 1]
    , reg .chip 0x004 [fld .ro 31 26 0x20]
    , reg .chip 0x008 [fldL .rwl 15 0 100 (· ≠ 0)]
    , reg .chip 0x00C [fld .rwl 15 0 10]
    , reg .power 0x010 [fld .w1c 31 31 0, fld .ro 27 24 0, fld .ro 23 16 0, fld .ro 12 8 0, fld .ro 2 0 0]
    , reg .chip 0x014 [fld .w1c 31 31 0, fld .ro 27 24 0, fld .ro 23 16 0, fld .ro 12 8 0, fld .ro 2 0 0] ]
  | .pwrErg =>
    [ reg .chip 0x000 [fld .rwl 5 0 0x3F]
    , reg .chip 0x004 [fld .wo 5 0 0]
    , reg .chip 0x008 [fld .ro 31 31 0, fld .ro 26 24 0, fld .ro 19 17 7, fld .ro 5 0 0]
    , reg .chip 0x00C [fld .ro 31 31 0, fld .ro 30 30 0]
    , reg .chip 0x010 (all32 .ro 0)
    , reg .chip 0x014 (all32 .ro 0) ]
  | .cusLc =>
    [ reg .chip 0x000 [fld .ro 2 0 0]
    , reg .chip 0x004 [fld .wo 2 0 0]
    , reg .chip 0x008 (all32 .rw 0)
    , reg .chip 0x00C [fld .ro 31 31 0, fld .ro 2 0 0]
    , regs .chip 0x010 4 4 (all32 .ro 0)
    , regs .chip 0x020 4 8 (all32 .ro 0) ]
  | .cusAuth =>
    [ reg .chip 0x000 [fld .wo 1 0 0]
    , reg .chip 0x004 [fld .ro 31 31 0, fld .ro 2 0 0]
    , reg .chip 0x008 [fld .ro 6 0 0]
    , reg .chip 0x00C (all32 .ro 0) ]
  | .cusVlt =>
    [ reg .chip 0x000 (all32 .wo 0)
    , reg .chip 0x004 [fld .ro 31 31 0, fld .ro 10 8 0, fld .ro 7 0 0]
    , reg .chip 0x008 [fldL .rwl 4 0 16 (within 8 16)]
    , reg .chip 0x00C (all32 .ro 0)
    , reg .chip 0x010 (all32 .rwl 0)
    , reg .chip 0x014 (all32 .rwl 2000)
    , reg .chip 0x018 [fld .rwl 15 0 400]
    , reg .chip 0x01C [fld .ro 31 16 0, fld .ro 15 0 0]
    , regs .chip 0x100 8 64 [fld .ro 31 31 0, fld .ro 12 0 0]
    , regs .chip 0x104 8 64 (all32 .ro 0) ]
  | .timTb =>
    [ regs .subsys 0x000 4 3 (all32 .ro 0)
    , regs .subsys 0x010 4 3 (all32 .rw 0)
    , reg64 .subsys 0x020 (all64 .rw 0)
    , reg64 .subsys 0x028 [fld .rw 39 0 0]
    , reg64 .subsys 0x030 (all64 .rw 0)
    , reg .subsys 0x040 [fld .rw 17 14 4, fldL .rw 13 9 10 (within 4 20), fld .wo 3 2 0, fldL .rwl 1 0 0 (· ≠ 3)]
    , reg .subsys 0x044 [fld .ro 31 16 0, fld .ro 2 2 0, fld .ro 1 1 0, fld .ro 0 0 0]
    , reg .subsys 0x048 [fld .rw 19 0 1000]
    , reg64 .subsys 0x050 (all64 .ro 0) ]
  | .timPf =>
    [ reg .subsys 0x000 [fldL .rw 7 0 100 (within 10 255)]
    , reg .subsys 0x004 (all32 .ro 0)
    , regs .subsys 0x100 16 32 [fld .rw 31 31 0, fld .rw 30 30 0, fld .rw 29 16 0, fld .rw 6 2 0, fld .rw 1 0 0]
    , regs .subsys 0x104 16 32 (all32 .rw 0)
    , regs .subsys 0x108 16 32 (all32 .ro 0)
    , regs .subsys 0x10C 16 32 (all32 .ro 0) ]
  | .timTrip =>
    [ regs .subsys 0x00 32 16 [fld .ro 7 7 0, fld .rwl 6 6 0, fld .rwl 5 5 0, fldL .rwl 2 0 5 (· ≤ 5)]
    , regs .subsys 0x04 32 16 [fld .ro 31 16 0, fld .ro 15 0 0]
    , regs .subsys 0x08 32 16 (all32 .rw 0)
    , regs .subsys 0x0C 32 16 (all32 .rw 0)
    , regs .subsys 0x10 32 16 (all32 .rw 0)
    , regs .subsys 0x14 32 16 [fld .ro 7 0 0]
    , regs .subsys 0x18 32 16 [fld .wo 2 2 0, fld .wo 1 0 0] ]
  | .timReg =>
    [ reg .subsys 0x000 [fld .rw 13 0 0]
    , reg .subsys 0x004 [fld .ro 3 2 0, fld .wo 1 0 0]
    , reg .subsys 0x008 (all32 .ro 0)
    , regs .subsys 0x040 4 16 (all32 .rw 0)
    , regs .subsys 0x100 4 256 (all32 .rw 0)
    , regs .subsys 0x800 4 4 [fld .ro 31 31 0, fld .w1cAll 23 16 0, fld .ro 13 0 0] ]
  | .xbrCtl =>
    (List.range 16).map (fun m =>
      reg .subsys (4 * m) [fldL .rw 3 0 (if m = 9 then 15 else 4) (fun v => v ≠ 15 || m = 9)])
    ++ [ reg .subsys 0x040 [fld .rwl 15 0 0xFFFF]
       , reg64 .subsys 0x048 [fld .ro 43 0 0]
       , reg .subsys 0x050 [fld .w1c 31 31 0, fld .ro 15 8 0, fld .ro 4 4 0, fld .ro 3 0 0] ]
  | .cox _ =>
    [ reg .subsys 0x100 [fldL .rw 9 8 3 (· ≠ 0), fld .rw 1 1 1, fld .rwl 0 0 0]
    , reg64 .block 0x108 [fld .ro 43 0 0]
    , reg .block 0x110 [fld .w1c 31 31 0, fld .ro 23 16 0, fld .ro 15 8 0, fld .ro 6 4 0, fld .ro 3 0 0]
    , reg .block 0x118 [fld .w1c 31 31 0, fld .w1c 30 30 0, fld .w1c 29 29 0, fld .w1c 28 28 0, fld .w1c 27 27 0, fld .ro 15 0 0]
    , reg64 .block 0x120 (all64 .rw 0)
    , reg64 .block 0x128 (all64 .rw 0)
    , reg .block 0x200 [fld .ro 15 12 0, fld .ro 11 8 0, fld .ro 7 7 0, fld .ro 6 6 0, fld .ro 2 0 0]
    , reg .block 0x204 [fldL .rwl 2 0 4 (within 3 4)]
    , reg .block 0x208 [fld .ro 16 16 0, fld .w1c 15 8 0, fld .w1c 7 7 0, fld .ro 6 0 0]
    , reg .block 0x20C [fld .rw 21 6 0, fld .rw 5 4 0, fld .rw 3 2 0, fld .rw 1 0 0]
    , reg .block 0x210 [fld .rw 15 8 0, fld .rw 7 0 0]
    , reg .block 0x300 [fld .rwl 2 2 1, fld .rwl 1 1 1, fld .rwl 0 0 1]
    , reg .block 0x304 [fld .ro 15 8 0, fld .ro 5 4 0, fld .ro 3 3 0, fld .ro 2 0 0]
    , reg64 .block 0x308 [fld .ro 43 0 0]
    , reg .block 0x310 [fld .ro 25 25 0, fld .ro 24 16 0, fld .ro 4 0 0]
    , reg64 .block 0x318 (all64 .rw 0) ]
  | .vecSched =>
    [ regs .subsys 0x000 4 16 (all32 .rw 0)
    , regs .subsys 0x040 4 16 [fld .rw 1 1 0, fld .rw 0 0 0]
    , reg .subsys 0x080 (all32 .wo 0)
    , reg .subsys 0x084 [fld .ro 22 16 0, fld .ro 6 0 0]
    , regs .subsys 0x0C0 4 16 (all32 .rw 0)
    , regs .subsys 0x100 4 16 (all32 .ro 0) ]
  | .vecShell _ =>
    [ reg .block 0x000 [fld .ro 14 11 8, fld .ro 10 10 0, fld .ro 9 9 0, fld .ro 8 6 0, fld .ro 5 3 0, fld .ro 2 0 0]
    , reg .block 0x004 (all32 .ro 0)
    , reg .block 0x008 [fld .wo 1 1 0, fld .wo 0 0 0]
    , reg .block 0x00C (all32 .ro 0)
    , reg64 .block 0x010 (all64 .ro 0)
    , reg .block 0x018 [fld .w1c 31 31 0, fld .ro 6 0 0] ]
  | .crsCtl =>
    [ reg64 .subsys 0x000 (all64 .rwl 0)
    , reg64 .subsys 0x008 (all64 .w1c 0)
    , reg64 .subsys 0x010 (all64 .rw 0)
    , reg .subsys 0x018 (all32 .rw 0)
    , regs64 .subsys 0x100 8 16 (all64 .rw 0) ] ++ memCtlRows ++ memTestRows
  | .crsScrub => scrubRows 16384 1048576
  | .crsArr _ => arrRows
  | .crwCtl =>
    [ regs .subsys 0x000 4 64 [fld .ro 5 5 0, fld .rw 4 4 0, fldL .rw 3 0 0 (· ≤ 8)]
    , reg .subsys 0x100 [fld .rwl 15 0 0]
    , reg .subsys 0x104 [fld .rw 1 0 0]
    , reg .subsys 0x108 (all32 .rw 0)
    , reg .subsys 0x10C [fld .w1c 15 0 0]
    , reg64 .chip 0x110 (all64 .w1c 0)
    , reg64 .subsys 0x280 (all64 .ro 0)
    , reg .subsys 0x288 [fld .w1c 31 31 0, fld .ro 23 16 0, fld .ro 15 12 0, fld .ro 6 6 0, fld .ro 5 0 0]
    , regs .subsys 0x400 4 256 (all32 .rw 0) ] ++ memCtlRows ++ memTestRows
  | .crwScrub => scrubRows 4096 262144
  | .crwMarch =>
    [ reg64 .block 0x000 (all64 .rw 0)
    , reg .block 0x008 [fld .ro 31 31 0, fld .w1c 30 30 0, fld .ro 29 29 0, fld .rw 1 1 0, fld .wo 0 0 0]
    , reg64 .block 0x010 (all64 .ro 0)
    , reg .block 0x018 [fld .ro 25 20 0, fld .ro 19 9 0, fld .ro 8 7 0, fld .ro 6 0 0] ]
  | .crwArr => arrRows
  | .movStk =>
    [ reg .subsys 0x000 [fld .wo 31 28 0, fld .wo 27 27 0, fld .wo 14 0 0]
    , reg .subsys 0x004 (all32 .rw 0)
    , reg .subsys 0x008 (all32 .ro 0)
    , reg .subsys 0x00C [fld .ro 31 31 0, fld .ro 3 0 0]
    , reg .subsys 0x010 [fld .ro 29 16 8192, fld .ro 15 0 32768]
    , regs .subsys 0x020 4 8 (all32 .rw 0)
    , regs .subsys 0x040 4 4 [fld .ro 31 31 0, fld .ro 12 0 0]
    , regs .subsys 0x1000 4 1024 (all32 .w1c 0) ]
  | .movRing _ =>
    [ regs64 .subsys 0x00 32 2048 [fld .ro 43 6 0]
    , regs .subsys 0x08 32 2048 [fld .rw 31 22 0, fld .rw 21 12 0, fldL .rw 11 8 0 (· ≤ 7), fld .ro 7 6 0, fld .ro 5 5 0, fld .ro 4 0 0]
    , regs .subsys 0x0C 32 2048 [fldL .rw 31 30 0 (· ≤ 1), fldL .rw 3 2 0 (· ≠ 0), fld .rw 1 0 0]
    , regs .subsys 0x10 32 2048 (all32 .rw 0)
    , regs .subsys 0x14 32 2048 (all32 .rw 0)
    , regs .subsys 0x18 32 2048 (all32 .ro 0)
    , regs .subsys 0x1C 32 2048 [fld .ro 31 16 0, fld .w1c 4 4 0, fld .ro 3 3 0, fld .w1c 2 2 0, fld .w1c 1 1 0, fld .w1c 0 0 0] ]
  | .movMvr =>
    [ reg .subsys 0x000 (all32 .rw 0)
    , reg .subsys 0x004 [fld .wo 3 0 0]
    , regs .subsys 0x100 4 16 [fld .ro 31 31 0, fld .ro 30 30 0, fld .ro 14 0 0] ]
  | .ingCtl => [ reg .subsys 0x000 [fld .rwl 15 0 0] ]
  | .ingLink _ =>
    [ reg .subsys 0x000 [fld .rw 31 31 0, fld .rwl 30 30 0, fld .rwl 29 29 0, fld .rwl 28 24 0, fld .rwl 23 21 0, fld .rwl 20 19 0,
        fldL .rwl 18 17 0 (· ≠ 3), fld .rwl 16 15 0, fld .rwl 14 7 0]
    , reg .subsys 0x004 (all32 .rwl 0)
    , reg .subsys 0x008 [fldL .rwl 15 5 1 (· ≠ 0), fld .rwl 4 4 0, fld .rwl 3 3 0, fld .rwl 2 2 0, fld .rwl 1 1 0]
    , reg .subsys 0x00C (all32 .rw 0)
    , reg64 .subsys 0x010 (all64 .rwl 0)
    , reg64 .subsys 0x018 (all64 .rwl 0)
    , reg64 .subsys 0x020 (all64 .ro 0)
    , reg .subsys 0x028 (all32 .rw 65536)
    , reg .subsys 0x02C [fld .ro 2 0 0]
    , reg .subsys 0x030 (all32 .ro 0)
    , reg .subsys 0x034 (all32 .ro 0)
    , reg .subsys 0x038 (all32 .ro 0) ]
  | .netPort _ =>
    [ reg .subsys 0x000 [fld .rw 31 31 0, fld .rw 30 30 0, fldL .rw 29 16 1518 (within 1518 9216), fldL .rwl 1 0 0 (· ≠ 3)]
    , reg .subsys 0x004 (all32 .rw 0)
    , reg .subsys 0x008 (all32 .rw 0)
    , reg .subsys 0x00C (all32 .rw 0)
    , reg .subsys 0x010 (all32 .rw 0)
    , reg64 .subsys 0x018 (all64 .rw 0)
    , reg64 .subsys 0x020 (all64 .rw 0)
    , reg .subsys 0x028 [fld .ro 2 1 0, fld .ro 0 0 0]
    , regs .subsys 0x040 4 14 (all32 .ro 0) ]
  | .netPair _ =>
    [ reg .subsys 0x000 [fldL .rwl 1 0 0 (· ≠ 3)]
    , reg64 .subsys 0x008 (all64 .rw 0)
    , reg64 .subsys 0x010 (all64 .rw 0)
    , reg .subsys 0x018 (all32 .ro 0)
    , reg .subsys 0x01C (all32 .ro 0) ]
  | .hstPcie =>
    [ reg .subsys 0x000 [fldL .rw 19 12 50 (· ≠ 0), fldL .rwl 7 4 0 (· ≤ 6), fldL .rwl 3 0 4 (within 1 4)]
    , reg .subsys 0x004 [fld .ro 7 4 0, fld .ro 3 1 0, fld .ro 0 0 0]
    , reg64 .subsys 0x008 (all64 .rw 0)
    , reg .subsys 0x010 (all32 .rw 0)
    , reg .subsys 0x014 (all32 .rw 0)
    , reg .subsys 0x018 (all32 .wo 0)
    , regs .subsys 0x4000 16 2048 (all32 .rw 0)
    , regs .subsys 0x4004 16 2048 (all32 .rw 0)
    , regs .subsys 0x4008 16 2048 (all32 .rw 0)
    , regs .subsys 0x400C 16 2048 [fld .rw 0 0 1]
    , regs .subsys 0xC000 4 64 (all32 .ro 0) ]
  | .hstDdr =>
    [ reg .subsys 0x000 [fldL .rwl 11 8 0 (· ≤ 6), fld .rwl 7 7 0, fld .rwl 6 6 0, fldL .rwl 5 3 0 (fun v => v ≠ 1 && v ≠ 7)]
    , reg .subsys 0x004 [fld .ro 2 2 0, fld .ro 1 1 0, fld .ro 0 0 0] ]
    ++ ((memCtlRows.filter (·.off ≠ 0x208)) ++
       [ reg .subsys 0x208 [fld .w1c 31 31 0, fld .ro 30 24 0, fld .ro 23 16 0, fld .ro 15 12 0, fld .ro 11 8 0, fld .ro 7 0 0] ])
  | .hstXspi =>
    [ reg .subsys 0x000 [fld .rwl 15 8 20, fldL .rwl 7 0 2 (2 ≤ ·)]
    , reg .subsys 0x004 [fld .ro 31 31 0, fld .wo 15 8 0, fld .wo 0 0 0]
    , reg .subsys 0x008 (all32 .rw 0)
    , regs .subsys 0x010 4 64 (all32 .rw 0) ]

/-- The registers at 0xF000 and above in a window: its fault register set and, in MOV_STK, those of RING0 to RING3 (R477); the
ring registers fill the windows of RING0 to RING3 (05, Registers). -/
def faultRowsIn : Blk → List RegRow
  | .movStk => faultRows .movStk ++ faultRows (.movRing 0) ++ faultRows (.movRing 1) ++ faultRows (.movRing 2) ++ faultRows (.movRing 3)
  | .movRing k => blockRows (.movRing k)
  | b => faultRows b

/-- The row of a register, the offset of its first byte, and its number among its repeats. -/
def rowAt (rows : List RegRow) (off : Nat) : Option (RegRow × Nat × Nat) :=
  rows.findSome? fun r =>
    let i := (off - r.off) / r.stride
    let len := if r.wide then 8 else 4
    if r.off ≤ off ∧ i < r.count ∧ off < r.off + i * r.stride + len then some (r, r.off + i * r.stride, i) else none

/-- The block and the register an address of the register space lies in: block, row, register address, number. -/
def regAt (addr : Nat) : Option (Blk × RegRow × Nat × Nat) :=
  (blkAt (addr / 0x1000000 % 256 - 16) (addr / 0x10000 % 256)).bind fun b =>
    let off := addr % 0x10000
    (rowAt (if off ≥ 0xF000 then faultRowsIn b else blockRows b) off).map fun (r, o, i) =>
      (b, r, b.base + o, i)

/-- The reset value of a register from its row (R6). -/
def rowReset (r : RegRow) (i : Nat) : Nat := r.fields.foldl (fun a f => a + f.reset i * 2 ^ f.lo) 0

/-- The reset value of the register at an address; 0 where no register is defined. -/
def regReset (addr : Nat) : Nat :=
  match regAt addr with
  | some (_, r, _, i) => rowReset r i
  | none => 0

end Sys2Proof.Machine
end

