-- ==== Sys2Proof/Machine/Fp.lean ====
section
/-!
DEFINITION. Binary floating point, exact and then rounded once (03, R82 to R99 and R110; 10, R325 to R331):
formats, exact values, sums and products, division, square root, comparison and conversion.
-/
namespace Sys2Proof.Machine

/-- A binary format: precision with the hidden bit, exponent bits. -/
structure Fmt where
  p : Nat
  eb : Nat
deriving DecidableEq, Repr

def f16 : Fmt := ⟨11, 5⟩
def f32 : Fmt := ⟨24, 8⟩
def f64 : Fmt := ⟨53, 11⟩

/-- Width of an encoding. -/
def Fmt.w (f : Fmt) : Nat := f.p + f.eb
/-- Weight of the least significant bit of a subnormal. -/
def Fmt.qmin (f : Fmt) : Int := 3 - (2 ^ (f.eb - 1) : Nat) - f.p
/-- Encoding of +∞. -/
def Fmt.inf (f : Fmt) : Nat := (2 ^ f.eb - 1) * 2 ^ (f.p - 1)
/-- The positive default quiet NaN (R89). -/
def Fmt.nan (f : Fmt) : Nat := f.inf + 2 ^ (f.p - 2)
/-- The sign bit's weight. -/
def Fmt.sbit (f : Fmt) : Nat := 2 ^ (f.w - 1)

/-- Flags (R94): SAT 64, DI 32, IV 16, DZ 8, OF 4, UF 2, NX 1. -/
def flIV : Nat := 16
def flDZ : Nat := 8
def flOF : Nat := 4
def flUF : Nat := 2
def flNX : Nat := 1
def flDI : Nat := 32
def flSAT : Nat := 64

/-- Rounding direction: 0 to nearest even, 1 toward zero, 2 toward +∞, 3 toward −∞ (R32); 4 to nearest away (R92). -/
abbrev RMode := Nat

/-- An exact value: a NaN, quiet or signalling, an infinity, or (−1)^neg · m · 2^e. -/
inductive FV where
  | nan (signalling : Bool)
  | inf (neg : Bool)
  | fin (neg : Bool) (m : Nat) (e : Int)
deriving DecidableEq, Repr

/-- The exact value of an encoding. -/
def unpack (f : Fmt) (x : Nat) : FV :=
  let neg := x.testBit (f.w - 1)
  let ex := bits x (f.w - 2) (f.p - 1)
  let fr := x % 2 ^ (f.p - 1)
  if ex = 2 ^ f.eb - 1 then (if fr = 0 then .inf neg else .nan (!x.testBit (f.p - 2)))
  else if ex = 0 then .fin neg fr f.qmin
  else .fin neg (fr + 2 ^ (f.p - 1)) (f.qmin + (ex : Int) - 1)

/-- Whether an encoding is a non-zero subnormal. -/
def isSubnormal (f : Fmt) (x : Nat) : Bool := bits x (f.w - 2) (f.p - 1) == 0 && x % 2 ^ (f.p - 1) != 0

/-- The exact value of an operand, read as a zero of its sign when flush mode flushes it, with its DI flag (R97). -/
def operand (f : Fmt) (flush : Bool) (x : Nat) : FV × Nat :=
  if flush && isSubnormal f x then (.fin (x.testBit (f.w - 1)) 0 f.qmin, flDI) else (unpack f x, 0)

/-- Whether a truncated magnitude is rounded up: sign, last kept bit, the discarded part against a half. -/
def roundUp? (rm : RMode) (neg odd : Bool) (rest half : Nat) : Bool :=
  match rm with
  | 0 => half < rest || (rest == half && odd && rest != 0)
  | 1 => false
  | 2 => !neg && rest != 0
  | 3 => neg && rest != 0
  | _ => half ≤ rest && rest != 0

/-- A magnitude m · 2^e brought to weight q: kept part, rounded, and whether anything was discarded. -/
def roundAt (rm : RMode) (neg : Bool) (m : Nat) (e q : Int) : Nat × Bool :=
  if q ≤ e then (m * 2 ^ (e - q).toNat, false)
  else
    let sh := (q - e).toNat
    let kept := m / 2 ^ sh
    let rest := m % 2 ^ sh
    (kept + bnat (roundUp? rm neg (kept % 2 == 1) (2 * rest) (2 ^ sh)), rest != 0)

/-- Overflow: infinity or the largest finite value, as the direction gives. -/
def overflowTo (f : Fmt) (rm : RMode) (neg : Bool) : Nat :=
  let toInf := match rm with
    | 1 => false
    | 2 => !neg
    | 3 => neg
    | _ => true
  (if toInf then f.inf else f.inf - 1) + bnat neg * f.sbit

/-- Round an exact value to a format: encoding and flags. Tininess is detected after rounding; flush mode
returns a zero for a result that would be subnormal (R96, R97). -/
def roundTo (f : Fmt) (rm : RMode) (flush : Bool) (v : FV) : Nat × Nat :=
  match v with
  | .nan sig => (f.nan, if sig then flIV else 0)
  | .inf neg => (f.inf + bnat neg * f.sbit, 0)
  | .fin neg m e =>
    let s := bnat neg * f.sbit
    if m = 0 then (s, 0)
    else
      let top : Int := (Nat.log2 m : Int) + e
      let q0 : Int := top - ((f.p : Int) - 1)
      let q : Int := if q0 < f.qmin then f.qmin else q0
      let (k, nx) := roundAt rm neg m e q
      let (ku, _) := roundAt rm neg m e q0
      let topU : Int := if ku = 2 ^ f.p then top + 1 else top
      let tiny := decide (topU < f.qmin + ((f.p : Int) - 1))
      if k < 2 ^ (f.p - 1) then
        if flush then (s, flUF + flNX)
        else (s + k, if nx then flNX + flUF else 0)
      else
        let (k, q) := if k = 2 ^ f.p then (2 ^ (f.p - 1), q + 1) else (k, q)
        let ex := (q - f.qmin + 1).toNat
        if ex ≥ 2 ^ f.eb - 1 then (overflowTo f rm neg, flOF + flNX)
        else (s + ex * 2 ^ (f.p - 1) + (k - 2 ^ (f.p - 1)), (if nx then flNX else 0) + (if tiny && nx then flUF else 0))

/-- Sign of an exact value. -/
def FV.sgn : FV → Bool
  | .nan _ => false
  | .inf n => n
  | .fin n _ _ => n

/-- The value with its sign inverted. -/
def FV.neg : FV → FV
  | .nan s => .nan s
  | .inf n => .inf (!n)
  | .fin n m e => .fin (!n) m e

/-- An exact result and whether it is an invalid operation. -/
structure EV where
  v : FV
  iv : Bool
deriving DecidableEq, Repr

/-- The exact product of two values; ∞ × 0 is invalid, whatever follows it (R89). -/
def mulV (a b : FV) : EV :=
  match a, b with
  | .nan s, .nan t => ⟨.nan false, s || t⟩
  | .nan s, _ => ⟨.nan false, s⟩
  | _, .nan t => ⟨.nan false, t⟩
  | .inf n, .inf k => ⟨.inf (n != k), false⟩
  | .inf n, .fin k m _ => if m = 0 then ⟨.nan false, true⟩ else ⟨.inf (n != k), false⟩
  | .fin k m _, .inf n => if m = 0 then ⟨.nan false, true⟩ else ⟨.inf (n != k), false⟩
  | .fin n m e, .fin k l g => ⟨.fin (n != k) (m * l) (e + g), false⟩

/-- The exact sum of two values; a zero sum of unlike signs takes the sign of the rounding direction. -/
def addV (rm : RMode) (a b : FV) : EV :=
  match a, b with
  | .nan s, .nan t => ⟨.nan false, s || t⟩
  | .nan s, _ => ⟨.nan false, s⟩
  | _, .nan t => ⟨.nan false, t⟩
  | .inf n, .inf k => if n = k then ⟨.inf n, false⟩ else ⟨.nan false, true⟩
  | .inf n, _ => ⟨.inf n, false⟩
  | _, .inf n => ⟨.inf n, false⟩
  | .fin n m e, .fin k l g =>
    let q : Int := if e ≤ g then e else g
    let x : Int := (m * 2 ^ (e - q).toNat : Nat) * (if n then -1 else 1) + (l * 2 ^ (g - q).toNat : Nat) * (if k then -1 else 1)
    if x = 0 then ⟨.fin (if n = k then n else rm == 3) 0 q, false⟩ else ⟨.fin (decide (x < 0)) x.natAbs q, false⟩

/-- Round an exact result, with the invalid flag. -/
def finish (f : Fmt) (rm : RMode) (flush : Bool) (x : EV) : Nat × Nat :=
  let (r, fl) := roundTo f rm flush x.v
  (r, fl ||| (if x.iv then flIV else 0))

/-- Sum or difference of two encodings. -/
def fpAdd (f : Fmt) (rm : RMode) (flush sub : Bool) (x y : Nat) : Nat × Nat :=
  let (a, d1) := operand f flush x
  let (b, d2) := operand f flush y
  let (r, fl) := finish f rm flush (addV rm a (if sub then b.neg else b))
  (r, fl ||| d1 ||| d2)

/-- Product of two encodings. -/
def fpMul (f : Fmt) (rm : RMode) (flush : Bool) (x y : Nat) : Nat × Nat :=
  let (a, d1) := operand f flush x
  let (b, d2) := operand f flush y
  let (r, fl) := finish f rm flush (mulV a b)
  (r, fl ||| d1 ||| d2)

/-- z + x·y, or z − x·y, rounded once. -/
def fpFma (f : Fmt) (rm : RMode) (flush negProd : Bool) (x y z : Nat) : Nat × Nat :=
  let (a, d1) := operand f flush x
  let (b, d2) := operand f flush y
  let (c, d3) := operand f flush z
  let p := mulV a b
  let t := addV rm (if negProd then p.v.neg else p.v) c
  let (r, fl) := finish f rm flush ⟨t.v, t.iv || p.iv⟩
  (r, fl ||| d1 ||| d2 ||| d3)

/-- Sum or difference of two products of encodings, formed exactly and rounded once (R90). -/
def fpDot (f : Fmt) (rm : RMode) (flush sub : Bool) (x y u v : Nat) : Nat × Nat :=
  let (a, d1) := operand f flush x
  let (b, d2) := operand f flush y
  let (c, d3) := operand f flush u
  let (d, d4) := operand f flush v
  let p := mulV a b
  let q := mulV c d
  let t := addV rm p.v (if sub then q.v.neg else q.v)
  let (r, fl) := finish f rm flush ⟨t.v, t.iv || p.iv || q.iv⟩
  (r, fl ||| d1 ||| d2 ||| d3 ||| d4)

/-- Quotient of two encodings. -/
def fpDiv (f : Fmt) (rm : RMode) (flush : Bool) (x y : Nat) : Nat × Nat :=
  let (a, d1) := operand f flush x
  let (b, d2) := operand f flush y
  let (r, fl) := match a, b with
    | .nan s, .nan t => (f.nan, if s || t then flIV else 0)
    | .nan s, _ => (f.nan, if s then flIV else 0)
    | _, .nan t => (f.nan, if t then flIV else 0)
    | .inf _, .inf _ => (f.nan, flIV)
    | .inf n, .fin k _ _ => roundTo f rm flush (.inf (n != k))
    | .fin n _ _, .inf k => roundTo f rm flush (.fin (n != k) 0 0)
    | .fin n m e, .fin k l g =>
      if l = 0 then (if m = 0 then (f.nan, flIV) else (f.inf + bnat (n != k) * f.sbit, flDZ))
      else
        let sh := f.p + 4 + Nat.log2 l
        let qn := m * 2 ^ sh / l
        let rem := m * 2 ^ sh % l
        roundTo f rm flush (.fin (n != k) (2 * qn + bnat (rem != 0)) (e - g - sh - 1))
  (r, fl ||| d1 ||| d2)

/-- The integer square root of m, from bit i − 1 down, above r. -/
def isqrtFrom : Nat → Nat → Nat → Nat
  | 0, _, r => r
  | i + 1, m, r => isqrtFrom i m (if (r + 2 ^ i) ^ 2 ≤ m then r + 2 ^ i else r)

/-- The integer square root. -/
def isqrt (m : Nat) : Nat := isqrtFrom (Nat.log2 m / 2 + 1) m 0

/-- Square root of an encoding. -/
def fpSqrt (f : Fmt) (rm : RMode) (flush : Bool) (x : Nat) : Nat × Nat :=
  let (a, d1) := operand f flush x
  let (r, fl) := match a with
    | .nan s => (f.nan, if s then flIV else 0)
    | .inf n => if n then (f.nan, flIV) else (f.inf, 0)
    | .fin n m e =>
      if m = 0 then (bnat n * f.sbit, 0)
      else if n then (f.nan, flIV)
      else
        let odd := decide (e % 2 ≠ 0)
        let m1 := (if odd then 2 * m else m) * 2 ^ (2 * (f.p + 3))
        let e1 : Int := (if odd then e - 1 else e) / 2 - (f.p + 3)
        let r := isqrt m1
        roundTo f rm flush (.fin false (2 * r + bnat (r * r != m1)) (e1 - 1))
  (r, fl ||| d1)

/-- Order of two exact values: less, equal, greater; none when either is a NaN. −0 equals +0. -/
def cmpV (a b : FV) : Option Ordering :=
  match a, b with
  | .nan _, _ => none
  | _, .nan _ => none
  | .inf n, .inf k => some (if n = k then .eq else if n then .lt else .gt)
  | .inf n, _ => some (if n then .lt else .gt)
  | _, .inf k => some (if k then .gt else .lt)
  | .fin n m e, .fin k l g =>
    let q : Int := if e ≤ g then e else g
    let x : Int := (m * 2 ^ (e - q).toNat : Nat) * (if n then -1 else 1)
    let y : Int := (l * 2 ^ (g - q).toNat : Nat) * (if k then -1 else 1)
    some (compare x y)

/-- Whether an encoding is a NaN, and whether it is a signalling one. -/
def isNan (f : Fmt) (x : Nat) : Bool := match unpack f x with | .nan _ => true | _ => false
def isSnan (f : Fmt) (x : Nat) : Bool := match unpack f x with | .nan s => s | _ => false

/-- minimumNumber or maximumNumber: −0 below +0; a single quiet NaN gives the other operand (R89). -/
def fpMinMax (f : Fmt) (flush max : Bool) (x y : Nat) : Nat × Nat :=
  let (a, d1) := operand f flush x
  let (b, d2) := operand f flush y
  let x := if d1 = 0 then x else bnat a.sgn * f.sbit
  let y := if d2 = 0 then y else bnat b.sgn * f.sbit
  let fl := (if isSnan f x || isSnan f y then flIV else 0) ||| d1 ||| d2
  if isNan f x && isNan f y then (f.nan, fl)
  else if isNan f x then (y, fl)
  else if isNan f y then (x, fl)
  else
    let less := match cmpV a b with
      | some .lt => true
      | some .gt => false
      | _ => a.sgn
    (if less != max then x else y, fl)

/-- An encoding of one format in another, rounded. -/
def fpConvert (f g : Fmt) (rm : RMode) (flushIn flushOut : Bool) (x : Nat) : Nat × Nat :=
  let (a, d) := operand f flushIn x
  let (r, fl) := roundTo g rm flushOut a
  (r, fl ||| d)

/-- An integer i · 2^e in a format. -/
def fpOfInt (f : Fmt) (rm : RMode) (i : Int) (e : Int) : Nat × Nat :=
  roundTo f rm false (.fin (decide (i < 0)) i.natAbs e)

/-- A finite value rounded to a multiple of 2^q: the multiple and whether it is inexact. -/
def roundInt (rm : RMode) (neg : Bool) (m : Nat) (e q : Int) : Int × Bool :=
  let (k, nx) := roundAt rm neg m e q
  (if neg then -(k : Int) else k, nx)

/-- A floating-point value to an integer grid 2^q between lo and hi: value, flags (R92): a NaN gives nanTo. -/
def fpToInt (f : Fmt) (rm : RMode) (flush : Bool) (x : Nat) (q lo hi nanTo : Int) : Int × Nat :=
  let (a, d) := operand f flush x
  match a with
  | .nan _ => (nanTo, flIV ||| d)
  | .inf n => (if n then lo else hi, flIV ||| d)
  | .fin n m e =>
    let (v, nx) := roundInt rm n m e q
    if v < lo then (lo, flIV ||| d) else if hi < v then (hi, flIV ||| d) else (v, (if nx then flNX else 0) ||| d)

/-- An encoding rounded to an integral value in the same format. -/
def fpRoundInt (f : Fmt) (rm : RMode) (x : Nat) : Nat × Nat :=
  match unpack f x with
  | .nan s => (f.nan, if s then flIV else 0)
  | .inf _ => (x, 0)
  | .fin n m e =>
    let (v, nx) := roundInt rm n m e 0
    if v = 0 then (bnat n * f.sbit, if nx then flNX else 0)
    else ((roundTo f 0 false (.fin n v.natAbs 0)).1, if nx then flNX else 0)

end Sys2Proof.Machine
end

