-- ==== Sys2Proof/Machine/VecOps.lean ====
section
/-!
DEFINITION. Element operations of a seat, exact accumulators, permute and order stage (03, R79 to R117), as
functions of values; and the static checks that admission makes of them.
-/
namespace Sys2Proof.Machine

/-! ### Element types (R33) -/

def tNone : Nat := 0
def tB16 : Nat := 0xB
def tB32 : Nat := 0xC
def tB64 : Nat := 0xD
def tC32 : Nat := 0xE

/-- Width of an element in bits. -/
def tw (t : Nat) : Nat := [0, 8, 16, 32, 64, 8, 16, 32, 64, 16, 32, 16, 32, 64, 64, 0].getD t 0
/-- Lanes per cycle (R33). Those of NONE and of the reserved code 0xF, which step 3 of R44 may meet before step 4 rejects them, are a
DESIGN CHOICE (notes/assumptions/66.md). -/
def tLanes (t : Nat) : Nat := [1024, 128, 64, 32, 16, 128, 64, 32, 16, 64, 32, 32, 32, 16, 16, 1].getD t 1
def isI (t : Nat) : Bool := within 1 8 t
def isQ (t : Nat) : Bool := t == 9 || t == 0xA
def isF (t : Nat) : Bool := t == tB32 || t == tB64
def isC (t : Nat) : Bool := t == tC32
/-- Whether a type is handled as a signed integer pattern (R85). -/
def isSigned (t : Nat) : Bool := within 1 4 t || isQ t
/-- The unsigned type of a width (R91). -/
def uType (w : Nat) : Nat := if w = 8 then 5 else if w = 16 then 6 else if w = 32 then 7 else 8
/-- The type presented to the seats (R80). -/
def seatType (t : Nat) : Nat := if t = tB16 then tB32 else t
def fmtOf (t : Nat) : Fmt := if t = tB64 then f64 else if t = tB16 then f16 else f32

/-- Least and greatest values of a type as integer patterns. -/
def tMin (t : Nat) : Int := if isSigned t then -(2 ^ (tw t - 1) : Nat) else 0
def tMax (t : Nat) : Int := if isSigned t then (2 ^ (tw t - 1) : Nat) - 1 else (2 ^ tw t : Nat) - 1
/-- The integer a pattern denotes. -/
def tInt (t x : Nat) : Int := if isSigned t then sgn (tw t) x else (x % 2 ^ tw t : Nat)
/-- Saturate an integer to a type: pattern and SAT. -/
def satTo (t : Nat) (v : Int) : Nat × Nat :=
  let c := min (max v (tMin t)) (tMax t)
  (wrap (tw t) c, if c = v then 0 else flSAT)
/-- Fraction bits of a Q type. -/
def qFrac (t : Nat) : Nat := if t = 9 then 15 else if t = 0xA then 31 else 0

/-! ### Seats -/

/-- An element at a seat: bit pattern and tag. -/
structure El where
  v : Nat
  tag : Nat
deriving DecidableEq, Repr

/-- What the floating-point environment of a job gives a seat (R32, R97, R98). -/
structure FEnv where
  rm : Nat
  flush : Bool
deriving DecidableEq, Repr

/-- Fields of a seat word (R36, R79). -/
def sOp (w : Nat) : Nat := bits w 31 24
def sSrc (w j : Nat) : Nat := if j = 0 then bits w 23 21 else if j = 1 then bits w 20 18 else bits w 17 15
def sMod (w : Nat) : Nat := bits w 14 0
def sWt (w : Nat) : Nat := bits w 14 11

/-- Number of operands that an operation takes; 0 for a reserved code (R83 to R93). -/
def opArity (op : Nat) : Nat :=
  if op = 0x01 then 1
  else if within 0x10 0x16 op then 2 else if op = 0x17 then 3 else if within 0x18 0x19 op then 1 else if within 0x1A 0x1B op then 2
  else if within 0x20 0x23 op then 2 else if within 0x24 0x28 op then 1
  else if within 0x30 0x32 op then 2 else if within 0x33 0x34 op then 3 else if within 0x35 0x36 op then 2
  else if within 0x37 0x38 op then 1 else if op = 0x39 then 2 else if op = 0x3A then 1
  else if within 0x40 0x43 op then 2 else if within 0x44 0x47 op then 1 else if within 0x48 0x49 op then 2
  else if within 0x50 0x54 op then 2 else if within 0x55 0x56 op then 3
  else if op = 0x60 then 1
  else if within 0x70 0x71 op then 1 else if op = 0x72 then 2 else if op = 0x73 then 1
  else 0

/-- Whether WTYPE is allowed for an operation (R79, and the tables). -/
def wtOk (op t : Nat) : Bool :=
  let known := t != 0 && t != tB16 && t != 0xF
  known && (
    if op = 0x01 ∨ within 0x70 0x73 op ∨ op = 0x55 then true
    else if within 0x10 0x13 op ∨ within 0x1A 0x1B op then isI t || isQ t
    else if within 0x14 0x15 op then isI t
    else if within 0x16 0x17 op then isQ t
    else if within 0x18 0x19 op then isSigned t
    else if within 0x20 0x24 op then isI t || isQ t || isF t
    else if op = 0x25 ∨ op = 0x26 ∨ op = 0x28 then isI t || isQ t
    else if op = 0x27 then isSigned t
    else if within 0x30 0x3A op then isF t
    else if within 0x40 0x49 op then isC t
    else if op = 0x54 then isF t
    else if within 0x50 0x56 op then isI t || isQ t || isF t
    else if op = 0x60 then isI t || isQ t || isF t
    else false)

/-- Whether MOD[10:0] is legal for an operation (R79, R86, R87, R92, R93). -/
def modOk (op t m : Nat) : Bool :=
  let lo := bits m 10 0
  if within 0x16 0x17 op then bits lo 9 0 == 0
  else if within 0x25 0x28 op then bits lo 4 0 == 0 && bits lo 10 5 < tw t && (op != 0x28 || bits lo 10 5 != 0)
  else if op = 0x60 then
    let st := bits lo 10 7
    bits lo 4 0 == 0 && (isI st || isQ st || isF st) && st != t
  else if within 0x70 0x73 op then bits lo 10 4 == 0 && bits lo 3 0 != 0
  else lo == 0

/-- The type that operand j of an operation must have; none: any class-I type of the same width (SEL, R91). -/
def operandType (op t m j : Nat) : Option Nat :=
  if op = 0x60 then some (bits m 10 7)
  else if op = 0x48 then some tB32
  else if op = 0x49 ∧ j = 1 then some tB32
  else if op = 0x55 ∧ j = 0 then none
  else some t

/-- Result type (R84, R90, R91, R93). -/
def resultType (op t : Nat) : Nat :=
  if within 0x45 0x47 op then tB32
  else if within 0x50 0x54 op ∨ op = 0x73 then uType (tw t)
  else t

/-- Latency of an operation (R85 to R93). -/
def opLatency (op t : Nat) : Nat :=
  if op = 0x01 then 1 else if within 0x14 0x15 op then (if tw t = 64 then 5 else 4) else if within 0x16 0x17 op then 4
  else if within 0x10 0x1B op then 2 else if op = 0x28 then 2 else if within 0x20 0x27 op then 1
  else if within 0x30 0x32 op then 6 else if within 0x33 0x34 op then 8 else if within 0x35 0x36 op then 4
  else if within 0x37 0x38 op then 1 else if within 0x39 0x3A op then (if t = tB64 then 32 else 24)
  else if within 0x40 0x41 op ∨ op = 0x49 then 6 else if op = 0x42 ∨ op = 0x43 ∨ op = 0x45 then 8 else if within 0x44 0x48 op then 1
  else if op = 0x55 then 1 else if within 0x50 0x56 op then (if isF t then 4 else 2)
  else if op = 0x60 then 4 else 1

/-- Elements per cycle of an operation (R84, R92). -/
def opLanes (op t m : Nat) : Nat :=
  if within 0x39 0x3A op then tLanes t / 4
  else if op = 0x60 then min (tLanes t) (tLanes (bits m 10 7))
  else tLanes t

/-- Conversion of R92. -/
def cvt (st t m : Nat) (env : FEnv) (x : Nat) : Nat × Nat :=
  let rm := match bits m 6 5 with | 0 => env.rm | 1 => 1 | 2 => 0 | _ => 4
  let q (u : Nat) : Int := -(qFrac u : Int)
  if isF st ∧ isF t then fpConvert (fmtOf st) (fmtOf t) rm env.flush env.flush x
  else if isF t then fpOfInt (fmtOf t) rm (tInt st x) (q st)
  else if isF st then
    let (v, fl) := fpToInt (fmtOf st) rm env.flush x (q t) (tMin t) (tMax t) 0
    (wrap (tw t) v, fl)
  else
    let i := tInt st x
    let (v, _) := roundInt rm (decide (i < 0)) i.natAbs (q st) (q t)
    satTo t v

/-- Parts of a CBINARY32 pattern. -/
def cRe (x : Nat) : Nat := x % 2 ^ 32
def cIm (x : Nat) : Nat := x / 2 ^ 32 % 2 ^ 32
def cPack (r i : Nat) : Nat := r + i * 2 ^ 32

/-- The comparison of R91 on a type: condition and flags. -/
def seatCmp (op t : Nat) (env : FEnv) (x y : Nat) : Bool × Nat :=
  if isF t then
    let f := fmtOf t
    let (a, d1) := if op = 0x54 then (unpack f x, 0) else operand f env.flush x
    let (b, d2) := if op = 0x54 then (unpack f y, 0) else operand f env.flush y
    let sn := isSnan f x || isSnan f y
    let nan := isNan f x || isNan f y
    let fl := (if sn || (nan && (op = 0x52 ∨ op = 0x53)) then flIV else 0) ||| d1 ||| d2
    let o := cmpV a b
    (match op with
     | 0x50 => o == some .eq
     | 0x51 => o != some .eq
     | 0x52 => o == some .lt
     | 0x53 => o == some .lt || o == some .eq
     | _ => nan, fl)
  else
    let a := tInt t x
    let b := tInt t y
    (match op with
     | 0x50 => decide (a = b)
     | 0x51 => decide (a ≠ b)
     | 0x52 => decide (a < b)
     | _ => decide (a ≤ b), 0)

/-- Smaller or larger of two patterns of a type: pattern and flags. -/
def seatMinMax (mx : Bool) (t : Nat) (env : FEnv) (x y : Nat) : Nat × Nat :=
  if isF t then fpMinMax (fmtOf t) env.flush mx x y
  else (if decide (tInt t x < tInt t y) != mx then x else y, 0)

/-- The value and flags of a seat operation of MOD m on patterns x, y, z (R85 to R93, tags apart). -/
def seatValue (op t m : Nat) (env : FEnv) (x y z : Nat) : Nat × Nat :=
  let w := tw t
  let i := tInt t
  let f := fmtOf t
  let n := bits m 10 5
  let fq := qFrac t
  let round : Int := if bit m 10 then 0 else (2 ^ (fq - 1) : Nat)
  match op with
  | 0x10 => (wrap w (i x + i y), 0)
  | 0x11 => (wrap w (i x - i y), 0)
  | 0x12 => satTo t (i x + i y)
  | 0x13 => satTo t (i x - i y)
  | 0x14 => (wrap w (i x * i y), 0)
  | 0x15 => (wrap w (i x * i y / (2 ^ w : Nat)), 0)
  | 0x16 => satTo t ((i x * i y + round) / (2 ^ fq : Nat))
  | 0x17 => satTo t ((i x * (2 ^ fq : Nat) + i y * i z + round) / (2 ^ fq : Nat))
  | 0x18 => satTo t (i x).natAbs
  | 0x19 => satTo t (-(i x))
  | 0x1A => seatMinMax false t env x y
  | 0x1B => seatMinMax true t env x y
  | 0x20 => (x &&& y, 0)
  | 0x21 => (x ||| y, 0)
  | 0x22 => (x ^^^ y, 0)
  | 0x23 => (x &&& (y ^^^ (2 ^ w - 1)), 0)
  | 0x24 => (x ^^^ (2 ^ w - 1), 0)
  | 0x25 => (x * 2 ^ n % 2 ^ w, 0)
  | 0x26 => (x / 2 ^ n, 0)
  | 0x27 => (wrap w (i x / (2 ^ n : Nat)), 0)
  | 0x28 => (wrap w ((i x + (2 ^ (n - 1) : Nat)) / (2 ^ n : Nat)), 0)
  | 0x30 => fpAdd f env.rm env.flush false x y
  | 0x31 => fpAdd f env.rm env.flush true x y
  | 0x32 => fpMul f env.rm env.flush x y
  | 0x33 => fpFma f env.rm env.flush false x y z
  | 0x34 => fpFma f env.rm env.flush true x y z
  | 0x35 => fpMinMax f env.flush false x y
  | 0x36 => fpMinMax f env.flush true x y
  | 0x37 => (x % f.sbit, 0)
  | 0x38 => (x ^^^ f.sbit, 0)
  | 0x39 => fpDiv f env.rm env.flush x y
  | 0x3A => fpSqrt f env.rm env.flush x
  | 0x40 =>
    let (r, a) := fpAdd f32 env.rm env.flush false (cRe x) (cRe y)
    let (j, b) := fpAdd f32 env.rm env.flush false (cIm x) (cIm y)
    (cPack r j, a ||| b)
  | 0x41 =>
    let (r, a) := fpAdd f32 env.rm env.flush true (cRe x) (cRe y)
    let (j, b) := fpAdd f32 env.rm env.flush true (cIm x) (cIm y)
    (cPack r j, a ||| b)
  | 0x42 =>
    let (r, a) := fpDot f32 env.rm env.flush true (cRe x) (cRe y) (cIm x) (cIm y)
    let (j, b) := fpDot f32 env.rm env.flush false (cRe x) (cIm y) (cIm x) (cRe y)
    (cPack r j, a ||| b)
  | 0x43 =>
    let (r, a) := fpDot f32 env.rm env.flush false (cRe x) (cRe y) (cIm x) (cIm y)
    let (j, b) := fpDot f32 env.rm env.flush true (cIm x) (cRe y) (cRe x) (cIm y)
    (cPack r j, a ||| b)
  | 0x44 => (x ^^^ 2 ^ 63, 0)
  | 0x45 => fpDot f32 env.rm env.flush false (cRe x) (cRe x) (cIm x) (cIm x)
  | 0x46 => (cRe x, 0)
  | 0x47 => (cIm x, 0)
  | 0x48 => (cPack x y, 0)
  | 0x49 =>
    let (r, a) := fpMul f32 env.rm env.flush (cRe x) y
    let (j, b) := fpMul f32 env.rm env.flush (cIm x) y
    (cPack r j, a ||| b)
  | 0x50 | 0x51 | 0x52 | 0x53 | 0x54 =>
    let (c, fl) := seatCmp op t env x y
    (if c then 2 ^ w - 1 else 0, fl)
  | 0x55 => (if x ≠ 0 then y else z, 0)
  | 0x56 =>
    let (u, a) := seatMinMax true t env x y
    let (v, b) := seatMinMax false t env u z
    (v, a ||| b)
  | 0x60 => cvt (bits m 10 7) t m env x
  | _ => (x, 0)

/-- The result of a seat on its operands: value, tag and flags (R101, R93). -/
def seatEval (word : Nat) (env : FEnv) (a b c : El) : El × Nat :=
  let op := sOp word
  let t := sWt word
  let m := sMod word
  let mask := bits m 3 0
  match op with
  | 0x70 => (⟨a.v, a.tag ||| mask⟩, 0)
  | 0x71 => (⟨a.v, a.tag &&& (15 - mask)⟩, 0)
  | 0x72 => (if a.tag &&& mask ≠ 0 then ⟨b.v, b.tag ||| 4⟩ else a, 0)
  | 0x73 => (⟨if a.tag &&& mask ≠ 0 then 2 ^ tw t - 1 else 0, a.tag⟩, 0)
  | _ =>
    let (v, fl) := seatValue op t m env a.v b.v c.v
    let tag := if op = 0x55 then (if a.v ≠ 0 then b.tag else c.tag)
      else if opArity op = 1 then a.tag else if opArity op = 2 then a.tag ||| b.tag else a.tag ||| b.tag ||| c.tag
    (⟨v, tag⟩, fl)

/-! ### Accumulators (R103 to R111) -/

/-- An exact accumulator block (R60): VALUE, COUNT, special flags ([3] invalid, [2] −∞, [1] +∞, [0] NaN), tag. -/
structure Accum where
  value : BitVec 4352
  count : Nat
  special : Nat
  tag : Nat
deriving DecidableEq, Repr

def Accum.zero : Accum := ⟨0, 0, 0, 0⟩

/-- Whether an exact value is a signalling NaN. -/
def sigNan (v : FV) : Bool := match v with | .nan s => s | _ => false
/-- Whether an exact value is a NaN. -/
def FV.isNan (v : FV) : Bool := match v with | .nan _ => true | _ => false

/-- A special contribution's flags, from its value and the operands or the result it is made of (R106). Every row of the table
that applies is applied. A complex product whose two products are infinities that cancel has no row: it sets "invalid operation
seen" (DESIGN CHOICE, notes/assumptions/60.md). -/
def noteSpecial (a : Accum) (x : EV) (from_ : List FV) : Accum :=
  let set (s : Nat) : Accum := { a with special := a.special ||| s }
  match x.v with
  | .inf false => set (2 + (if a.special.testBit 2 then 8 else 0))
  | .inf true => set (4 + (if a.special.testBit 1 then 8 else 0))
  | _ => set (bnat (from_.any FV.isNan) + (if x.iv || from_.any sigNan then 8 else 0))

/-- Add an exact contribution (R103, R105, R106): counted always. -/
def contribute (a : Accum) (x : EV) (from_ : List FV) (tag : Nat) : Accum :=
  let a := { a with count := min (a.count + 1) (2 ^ 64 - 1), tag := a.tag ||| tag }
  match x.v with
  | .fin n m e =>
    let v : Int := (m * 2 ^ (e + 2200).toNat : Nat)
    { a with value := a.value + BitVec.ofInt 4352 (if n then -v else v) }
  | _ => noteSpecial a x from_

/-- The exact value that a pattern of a type denotes (R103). -/
def exactOf (t x : Nat) : FV :=
  if isF t then unpack (fmtOf t) x
  else
    let i := tInt t x
    .fin (decide (i < 0)) i.natAbs (-(qFrac t : Int))

/-- The magnitude of a value. -/
def FV.abs : FV → FV
  | .nan s => .nan s
  | .inf _ => .inf false
  | .fin _ m e => .fin false m e

/-- One element's contribution to an accumulator: operation, source seat's word, its operands, its result (R104). -/
def accumulate (op word : Nat) (a b : El) (r : El) (acc : Accum) : Accum :=
  let rt := resultType (sOp word) (sWt word)
  let x := exactOf rt r.v
  let prod (u v : FV) : EV := let p := mulV u v; ⟨p.v, p.iv⟩
  let tags := a.tag ||| b.tag
  match op with
  | 1 => contribute acc ⟨x, false⟩ [x] r.tag
  | 2 => contribute acc (prod x x) [x] r.tag
  | 3 =>
    let t := sWt word
    let u := exactOf t a.v
    let v := exactOf t b.v
    contribute acc (prod u v) [u, v] tags
  | 4 | 5 =>
    let re (e : El) : FV := unpack f32 (cRe e.v)
    let im (e : El) : FV := unpack f32 (cIm e.v)
    let conj := sOp word = 0x43
    let p := if op = 4 then prod (re a) (re b) else if conj then prod (im a) (re b) else prod (re a) (im b)
    let q := if op = 4 then prod (im a) (im b) else if conj then prod (re a) (im b) else prod (im a) (re b)
    let sub := (op = 4) != conj
    let s := addV 0 p.v (if sub then q.v.neg else q.v)
    contribute acc ⟨s.v, s.iv || p.iv || q.iv⟩ [re a, im a, re b, im b] tags
  | 6 => contribute acc ⟨x.abs, false⟩ [x] r.tag
  | _ => acc

/-- Merge a stroke's partial into an accumulator (R50). -/
def mergeAccum (a p : Accum) : Accum :=
  let s := a.special ||| p.special
  { value := a.value + p.value, count := min (a.count + p.count) (2 ^ 64 - 1), tag := a.tag ||| p.tag,
    special := if s.testBit 1 && s.testBit 2 then s ||| 8 else s }

/-- Readout of an accumulator: the 64-bit form of the record and its flags (R109, R110, R111). -/
def readout (rt rm : Nat) (flush : Bool) (a : Accum) : Nat × Nat :=
  let f := if rt = 1 then f32 else f64
  let fp := rt ≤ 1
  let s := a.special
  let mn : Int := -(2 ^ 63 : Nat)
  let mx : Int := (2 ^ 63 : Nat) - 1
  if s.testBit 3 then (if fp then f.nan else 2 ^ 63, flIV)
  else if s.testBit 0 then (if fp then (f.nan, 0) else (2 ^ 63, flIV))
  else if s.testBit 1 then (if fp then (f.inf, 0) else (mx.toNat, flIV))
  else if s.testBit 2 then (if fp then (f.inf + f.sbit, 0) else (2 ^ 63, flIV))
  else
    let v := a.value.toInt
    if v = 0 then (0, 0)
    else if fp then roundTo f rm flush (.fin (decide (v < 0)) v.natAbs (-2200))
    else
      let (k, nx) := roundInt rm (decide (v < 0)) v.natAbs (-2200) (if rt = 2 then 0 else -31)
      let c := min (max k mn) mx
      (wrap 64 c, (if nx then flNX else 0) ||| (if c = k then 0 else flSAT))

/-! ### Permute and order stage (R113 to R117) -/

/-- An entry of the order state. -/
structure OrdEl where
  v : Nat
  idx : Nat
  tag : Nat
deriving DecidableEq, Repr

/-- The order state: entries best first, ENTERED, EXCLUDED. -/
structure OrdState where
  entries : List OrdEl
  entered : Nat
  excluded : Nat
deriving DecidableEq, Repr

/-- Source position in a block of size b for output position j (R114). -/
def permFrom (op b j : Nat) : Nat :=
  match op with
  | 1 => b - 1 - j
  | 2 => if j < b / 2 then 2 * j else 2 * (j - b / 2) + 1
  | 3 => if j % 2 = 0 then j / 2 else b / 2 + (j - 1) / 2
  | _ => j

/-- The elements of a stroke as port Y receives them (R114). -/
def permute (perm : Nat) (els : List El) : List El :=
  let op := bits perm 3 0
  if within 1 3 op then
    let b := 2 ^ bits perm 7 4
    (List.range els.length).map (fun i => els.getD (i / b * b + permFrom op b (i % b)) ⟨0, 0⟩)
  else els

/-- Whether the first value ranks before the second: larger for TOPK, smaller for BOTK (R115). -/
def ranksBefore (op t : Nat) (x y : Nat) : Bool :=
  let o := if isF t then (cmpV (unpack (fmtOf t) x) (unpack (fmtOf t) y)).getD .eq else compare (tInt t x) (tInt t y)
  if op = 8 then o == .gt else o == .lt

/-- Insert an element after every entry it does not rank before (R115). -/
def rankIn (op t : Nat) (e : OrdEl) : List OrdEl → List OrdEl
  | [] => [e]
  | x :: xs => if ranksBefore op t e.v x.v then e :: x :: xs else x :: rankIn op t e xs

/-- The order stage sees one element (R115). -/
def orderStep (perm t i : Nat) (e : El) (o : OrdState) : OrdState :=
  let op := bits perm 3 0
  if op = 8 ∨ op = 9 then
    let k := bits perm 9 4 + 1
    let excl := bits perm 13 10
    if e.tag &&& excl ≠ 0 ∨ (isF t ∧ isNan (fmtOf t) e.v) then { o with excluded := o.excluded + 1 }
    else { o with entered := o.entered + 1, entries := (rankIn op t ⟨e.v, i, e.tag⟩ o.entries).take k }
  else o

/-- Whether PERM is legal for a length and a result type (R113 to R115). -/
def permOk (perm len rt : Nat) : Bool :=
  let op := bits perm 3 0
  let par := bits perm 15 4
  if op = 0 then par == 0
  else if within 1 3 op then par < 16 && within 1 9 par && len % 2 ^ par == 0
  else if op = 8 ∨ op = 9 then par < 1024 && bits par 5 0 + 1 ≤ 62 && (isI rt || isQ rt || isF rt)
  else false

end Sys2Proof.Machine
end

