-- ==== Sys2Proof/Machine/Parts.lean ====
section
/-!
DEFINITION. The pieces of state that lie beside the registers: requests and replies, faults and resets.
-/
namespace Sys2Proof.Machine

/-- What a bus transaction does at its target (13, R394; 04, R141). -/
inductive BusOp where
  | read (n : Nat)
  | write (data : List Byte)
  | add (n v : Nat)
  | swap (n v : Nat)
deriving DecidableEq, Repr

/-- A bus transaction: master, its 6-bit ID (R394), address, action. -/
structure Req where
  master : Master
  tag : BitVec 6
  addr : BitVec 44
  op : BusOp
deriving DecidableEq, Repr

/-- Why a request waits (R125, R138, R156, R402, R404, R411, R481): for 64 outbound reads already outstanding (R397), or
behind an earlier request of its ID to its target (R394). -/
inductive HoldWhy where
  | domain (d : Nat)
  | handover (bank : Nat)
  | block (b : Blk)
  | ddr
  | flash (cs : Nat)
  | host
  | hostFull
  | order
deriving DecidableEq, Repr

/-- A request at its target: whether it is a DET write-out (R129), what the host completes it with (R397), why it waits, its
effective QoS (R392), and whether it has been counted in WAKEWAIT (R125). -/
structure Held where
  req : Req
  det : Bool
  host : Config.HostAnswer
  why : HoldWhy
  qos : Nat
  counted : Bool
deriving DecidableEq, Repr

/-- A response: code of R396 and the data of a read, least significant byte first. -/
structure Reply where
  code : Nat
  data : List Byte
deriving DecidableEq, Repr

/-- A fault source: block and bit. -/
structure Src where
  blk : Blk
  bit : Nat
deriving DecidableEq, Repr

/-- A reaction reported and not yet taken (R478). -/
inductive Reaction where
  | blockReset (src : Src)
  /-- With its CAUSE and the cycle of its event (R478, R485). -/
  | chipReset (src : Src) (kind at_ : Nat)
  | holdWater (src : Src) (kind : Nat)
deriving DecidableEq, Repr

/-- A FAULT_NMI event that waits for a core to accept it (R486, KIND 2): source and time of the event. -/
structure NmiWait where
  src : Src
  since : Nat
deriving DecidableEq, Repr

/-- Faults and resets beside the registers. -/
structure FaultState where
  /-- Reactions reported and not yet taken. -/
  reactions : List Reaction
  /-- Blocks whose block reset is in progress (R481). -/
  resets : List Blk
  /-- Blocks in their reset shadow (R482). -/
  shadows : List Blk
  /-- When the last block reset of a block ended, in elapsed time-unit cycles (R486). -/
  ends : List (Blk × Nat)
  /-- FAULT_NMI events not yet accepted. -/
  nmi : List NmiWait
  /-- Blocks under an erg run (R483, R494). -/
  underTest : List Blk
  /-- Hold-water escalations held while Launch lasts (R484). -/
  heldEsc : List (Src × Nat)
  /-- The umpire pair shows fault (R488). -/
  pairFault : Bool
  /-- Phase of the toggling healthy pair (R489): false is (1, 0). -/
  phase : Bool
  /-- A readback mismatch is present, and its length in always-on cycles (R490). -/
  mismatch : Bool
  mismatchFor : Nat
deriving DecidableEq, Repr

/-- How an inbound read completes at the host (R398). -/
inductive Completion where
  | success | unsupported | abort | poisoned
deriving DecidableEq, Repr

/-- What the manager sends to a regulator (14, R432): AVSBus commands for VDD_CORE, and the PMBus readings of telemetry, by address. -/
inductive RegulatorCmd where
  | writeVoltage (mv : Nat)
  | readVoltage
  | readCurrent
  | pmReadVout (addr : Nat)
  | pmReadIout (addr : Nat)
  | pmReadTemperature (addr : Nat)
  | pmStatusWord (addr : Nat)
deriving DecidableEq, Repr

/-- What leaves the device (13, R399; 12, R388; 11, R351; 13, R404): the model's record of outputs, newest first. -/
inductive Out where
  | msix (vector : Nat)
  | hostWrite (addr : Nat) (data : List Byte)
  | completion (status : Completion) (data : List Byte)
  | frame (port : Nat) (data : List Byte)
  | flash (cs opcode addr : Nat) (data : List Byte)
  | regulator (c : RegulatorCmd)
deriving DecidableEq, Repr

/-- A march test in progress (R155). -/
structure March where
  banks : W64
  preserving : Bool
deriving DecidableEq, Repr

/-- The two on-chip memories beside their cells (04). -/
structure MemState where
  /-- DET write queue of each Course bank: word address and data, oldest first (R129). -/
  detQ : NMap (List (Nat × Nat))
  /-- Demand queues of the scrubbers, word addresses (R145): Course, Crew. -/
  demand0 : List Nat
  demand1 : List Nat
  /-- Stuck rows waiting to be remapped: word address (R150, R151). -/
  remaps : List Nat
  /-- Repair entries that the vault has not taken: crew, bank, row, spare (R150). -/
  unsaved : List (Bool × Nat × Nat × Nat)
  /-- Owner that a handover will give a bank (R138). -/
  ownNext : NMap Nat
  /-- Retention CRC of each retained Crew bank (R158). -/
  retCrc : NMap Nat
  march : Option March
deriving DecidableEq, Repr

/-- An entry of the handle table (R164, R165): words are words 1 to 7. -/
structure Entry where
  kind : Nat
  gen : Nat
  st : Nat
  binds : Nat
  words : List Nat
deriving DecidableEq, Repr

/-- A Stakeboat command as sampled at its CMD write or trigger (R173). -/
structure StkCmd where
  op : Nat
  atIdx : Bool
  index : Nat
  arg : Nat
  words : List Nat
deriving DecidableEq, Repr

/-- A record allocated in a ring: index of its first byte, its bytes padded to the footprint, the producer that writes it,
whether it has been written (R177). -/
structure RingRec where
  start : Nat
  bytes : List Byte
  producer : Producer
  written : Bool
deriving DecidableEq, Repr

/-- What a ring holds beside its registers: its entry's index, the end of its allocations, its unpublished records,
the records lost since the last delivered one (R181), TARGET before a queue bind (R187). -/
structure Ring where
  entry : Nat
  allocEnd : Nat
  recs : List RingRec
  lost : Nat
  prevTarget : Option Nat
deriving DecidableEq, Repr

/-- Who stands still while a record waits on a full BLOCK ring (R25, R77, R196); a shell with the flag set of its job (R95);
a job that holds no shell keeps only the flag set for the shell that ran it. -/
inductive Waiter where
  | other
  | ran (n : Fin 4) (flags : Nat)
  | engine (e : Fin 16)
  | shell (n : Fin 4) (flags : Nat)
  | queue (q : Fin 16)
deriving DecidableEq, Repr

/-- A producer that waits on a full BLOCK ring with its record (R182). -/
structure RingWait where
  offer : RecordOffer
  stamp : Nat
  who : Waiter
deriving DecidableEq, Repr

/-- A memory region as its entry gives it (R165). -/
structure Region where
  base : Nat
  len : Nat
  rd : Bool
  wr : Bool
deriving DecidableEq, Repr

/-- Why a Mover descriptor stops at an element (R192, R193): status, response code, side, physical address. -/
structure MovFail where
  status : Nat
  resp : Nat
  side : Nat
  addr : Nat
deriving DecidableEq, Repr

/-- A halted channel that RESUME has continued (R195): the element and running CRC to go on from, its descriptor, and the
regions of the handles as RESUME checked them. -/
structure Resumed where
  ch : Nat
  pos : Nat
  crc : Nat
  desc : List Nat
  regions : List (Nat × Region)
deriving DecidableEq, Repr

/-- A Mover engine (R188 to R196). -/
structure Engine where
  /-- Enabled channels served by the engine, next first. -/
  chans : List Nat
  /-- Channels to be released after their current descriptor (DISABLE). -/
  leaving : List Nat
  /-- Channel whose descriptor runs. -/
  cur : Option Nat
  desc : List Nat
  pos : Nat
  crc : Nat
  /-- Status with which the descriptor has ended and awaits its record. -/
  ended : Option MovFail
  /-- The regions of its handles when they were last checked (R163, R193). -/
  regions : List (Nat × Region)
  /-- Failure at element pos that halts the channel. -/
  failing : Option MovFail
  /-- CANCEL has been given. -/
  cancel : Bool
  /-- Halted channels to be continued (R195). -/
  resumes : List Resumed
  /-- The completion record waits on a full BLOCK ring. -/
  waiting : Bool
deriving DecidableEq, Repr

/-- The Stakeboat and the Mover. -/
structure StkState where
  table : NMap Entry
  rings : NMap Ring
  /-- Command in progress on MOV_STK_CMD. -/
  regCmd : Option StkCmd
  /-- Commands of each core's handle unit that have not ended, oldest first. -/
  coxCmd : NMap (List StkCmd)
  waits : List RingWait
  engines : Vector Engine 16
deriving DecidableEq, Repr

/-- A vector job from its admission to its record (02). -/
structure Job where
  /-- Admission order. -/
  id : Nat
  /-- Where it came from, for FENCE: a queue, or 16 and the number of a core (R26). -/
  origin : Nat
  /-- Lead descriptor, then continuations, 32 words each. -/
  descs : List (List Nat)
  /-- Shells chosen for it, lead first; none until the choice of R31. -/
  shells : List Nat
  /-- Completion ring of its class, found at admission. -/
  ring : Nat
  /-- Slot whose catch it is armed for (R66). -/
  slot : Option Nat
  /-- Its catch has passed without a start (R68). -/
  late : Bool
  /-- Its catch has come on reserved, powered, idle shells: only the governor holds it (R68, R436). -/
  caught : Bool
  /-- The regions its handles named when they were last checked (R51, R54). -/
  regions : List (Nat × Region)
  /-- The duration rule holds of it so far (R72). -/
  exact : Bool
  /-- First element of the next stroke, and of the last committed one. -/
  next : Nat
  prev : Nat
  strokes : Nat
  cycles : Nat
  acc0 : Accum
  acc1 : Accum
  flags : Nat
  ord : OrdState
  /-- OR of the Y tags written. -/
  tags : Nat
  started : Bool
  /-- Continued from a save area by a FORM RESUME descriptor. -/
  resumed : Bool
  preempted : Bool
  rated : Bool
deriving DecidableEq, Repr

/-- Why a stroke was discarded (R53): status, element, FAULT_INFO, flags of the element. -/
structure Halt where
  status : Nat
  elem : Nat
  info : Nat
  flags : Nat
deriving DecidableEq, Repr

/-- One write of a stroke's write-out: bytes at an address, or tags from a nibble of a tag region (R35, R48). -/
inductive DrainWrite where
  | data (addr : Nat) (bytes : List Byte)
  | tags (base nib : Nat) (tags : List Nat)
deriving DecidableEq, Repr

/-- Why a job stops at a commit (R56, R58, R67). -/
inductive StopWhy where
  | cancel | preempt | yield
deriving DecidableEq, Repr

/-- What a shell holds beside its registers. -/
structure ShellRun where
  /-- The job that runs, on its lead shell. -/
  job : Option Job
  /-- The lead shell of the raft that this shell runs in. -/
  lead : Option Nat
  /-- Write-out of the committed stroke that has not drained. -/
  drain : Option (List DrainWrite)
  /-- The write-out met an error response that DRAIN_HELD has still to report (R55): address written. -/
  drainErr : Option Nat
  /-- The running register-form job has been computed (R41). -/
  computed : Bool
  halt : Option Halt
  /-- Marked to stop at its next commit (R58). -/
  cancel : Bool
  /-- The stop that the last commit found due. -/
  stop : Option StopWhy
  /-- Suspension stack, last pushed first (R57). -/
  stack : List Job
  /-- Slots that reserve the shell (R67, R70). -/
  reserved : List Nat
  /-- Ballast rating of a reserved shell (R436). -/
  ballast : Nat
  /-- Bytes and tags of the stream registers (R118); unlisted are 0. -/
  vreg : NMap Byte
  vtag : NMap Nat
  /-- Bytes and tags of the stream registers that hold an uncorrectable error (R121). -/
  vbad : List Nat
  tbad : List Nat
deriving DecidableEq, Repr

/-- A START_JOB handed over (R66, R359): slot, catch instant, the oldest job armed then, and the admission number of the next job
at that moment, which a job that starts at the catch lies below. -/
structure Due where
  slot : Nat
  instant : Nat
  job : Option Nat
  upto : Nat
deriving DecidableEq, Repr

/-- The vector engine (02, 03). -/
structure VecState where
  /-- Admitted jobs that have not started, in admission order. -/
  pool : List Job
  nextId : Nat
  shells : Vector ShellRun 4
  due : List Due
  /-- Queues held by a rejection record on a full BLOCK ring (R25). -/
  qhold : List Nat
  /-- Admission status of each core's last SUBMIT. -/
  status : Vector Nat 4
  /-- Changes of the issue sum in the last 256 ns, newest first: elapsed time, sum (R436). -/
  sums : List (Nat × Nat)
deriving DecidableEq, Repr

/-- An instance of a window (R356, R360): its catch and finish instants, the finish action, wake set and number it has
from its catch, whether its finish has been handed over, whether it is that of a one-shot window still in its slot. -/
structure OpenInst where
  start : Nat
  finish : Nat
  act : Nat
  wake : Nat
  num : Nat
  handed : Bool
  oneShot : Bool
deriving DecidableEq, Repr

/-- What the edge engine holds of a regatta slot beside its words (R356, R359, R360, R362). -/
structure SlotRun where
  /-- Instances whose finish is pending. -/
  opens : List OpenInst
  /-- The instance that closed last. -/
  closed : Option OpenInst
  /-- Number of the next instance. -/
  next : Nat
  /-- The next catch has been handed over to its agent. -/
  handed : Bool
  /-- The pre-wake of the next catch has fired. -/
  woke : Bool
  /-- A one-shot catch has passed (R66). -/
  passed : Bool
  /-- The pre-wake's instant had passed when the catch was scheduled, or a jump passed it (R341, R362). -/
  soon : Bool
deriving DecidableEq, Repr

/-- An edge of a trip output: instant, level, and of a window's edge its place among those of one instant (R358). -/
structure TripAt where
  at_ : Nat
  level : Bool
  rank : Nat
deriving DecidableEq, Repr

/-- A trip output (R349 to R352). -/
structure Trip where
  armed : Option TripAt
  committed : Bool
  /-- Edges handed over by the regatta table, in order. -/
  due : List TripAt
  /-- Grid point of the last edge driven, and of its nominal place. -/
  last : Option Nat
  grid : Option Nat
  /-- Level of the ball (R426). -/
  pin : Bool
deriving DecidableEq, Repr

/-- The table of 64 equal taps over one 2/3 ns, in fraction units of 2^-16 ns: what a line holds before its first calibration
(R345; notes/assumptions/63.md). -/
def nominalTab : List Int := (List.range 64).map (fun i => ((i * 0xAAAAAAAAAAAA / 64 / 2 ^ 32 : Nat) : Int))

/-- An event input (R344, R345): the ball's level, the edge in the filter, dead time, delay lines. -/
structure PfIn where
  level : Bool
  /-- Edge in the filter: new level, stamp, elapsed time at the crossing. -/
  cand : Option (Bool × Nat × Nat)
  /-- Elapsed time of the last accepted edge. -/
  lastAt : Option Nat
  /-- Level last accepted. -/
  acc : Bool
  lost : Nat
  /-- Line in service, which lines have failed calibration, and their tables of 64 offsets in fraction units. -/
  line : Bool
  bad0 : Bool
  bad1 : Bool
  tab0 : List Int
  tab1 : List Int
deriving DecidableEq, Repr

/-- The time unit (11). -/
structure TimState where
  slots : NMap (List Nat)
  runs : NMap SlotRun
  trips : Vector Trip 16
  /-- Event inputs 0 to 31, and SYSREF. -/
  pf : Vector PfIn 33
  /-- 96-bit capture of each master (R338). -/
  now : Vector Nat 16
  /-- Time-PLL cycle within its group of three (R337). -/
  phase : Nat
  /-- The pending slew, in 2^-48 ns (R340). -/
  slew : Int
  /-- Part of a unit that the slew rate has not yet worked off (R340). -/
  slewRem : Nat
  /-- PPS edges in a row below 100 ns, and elapsed time of the last edge (R342). -/
  ppsRun : Nat
  ppsAt : Option Nat
  irqq : Vector (List Nat) 4
  /-- Next expiry number of each timer, by entry index (R366). -/
  expiries : NMap Nat
  freqIn : Bool
deriving DecidableEq, Repr

/-- Power domains beside their registers (14, R420 to R426). -/
structure DomState where
  /-- State that a waking domain wakes from (R424). -/
  from_ : NMap Nat
  /-- Domains in a stage that the idle timer entered (R426). -/
  byIdle : List Nat
  /-- Releases kept for the next run (R426). -/
  rel : List Nat
  /-- Domains held running until a slot's catch: domain, slot (R422). -/
  kept : List (Nat × Nat)
  /-- Waking domains in their second attempt (R424). -/
  tried : List Nat
deriving DecidableEq, Repr

/-- An ingest link beside its registers (12, R369 to R376); times in units of 2^-16 ns. -/
structure IngLink where
  /-- Anchor, and the instant it belongs to, counted from the link's alignment; earlier anchors that instants of the open batch keep,
  newest first (R370). -/
  anchor : Nat
  anchorAt : Nat
  anchors : List (Nat × Nat)
  /-- First instant of the batch that is open. -/
  inst : Nat
  batch : Nat
  /-- The link has reached RUN since its EN. -/
  ran : Bool
  /-- It has been in RUN, and out of it, since the last batch closed. -/
  up : Bool
  down : Bool
  /-- Multiblocks that failed their CRC: lane, number from the alignment (R375). -/
  failed : List (Nat × Nat)
  /-- Gate actions, newest first: instant, open (R376). -/
  gates : List (Nat × Bool)
deriving DecidableEq, Repr

/-- A frame seen by a pair (R385): source address, sequence number, elapsed time. -/
structure Seen where
  src : Nat
  seq : Nat
  at_ : Nat
deriving DecidableEq, Repr

/-- A TRANSMIT announced to ports: slot, ports, instant (R390). -/
structure Announce where
  slot : Nat
  ports : Nat
  instant : Nat
deriving DecidableEq, Repr

/-- A network port beside its registers (12): frames to be forwarded with their receive stamps, instant at which the
line is free, TRANSMIT instants handed over. -/
structure NetPort where
  fwd : List (List Byte × Nat)
  busy : Nat
  due : List Nat
deriving DecidableEq, Repr

/-- Ingest and network (12). -/
structure IoState where
  links : Vector IngLink 4
  ports : Vector NetPort 4
  /-- Duplicate tables, oldest first, and sequence numbers, of both pairs. -/
  seen : Vector (List Seen) 2
  seqs : Vector Nat 2
  announced : List Announce
deriving DecidableEq, Repr

/-- An xSPI command in progress (13, R404). -/
structure XspiCmd where
  opcode : Nat
  cs : Nat
  addr : Nat
  data : List Byte
  /-- It has gone to the flash; until then it waits for CUSTODY. -/
  started : Bool
deriving DecidableEq, Repr

/-- The external interfaces beside their registers (13): the xSPI command in progress, a recalibration of the DDR5
channel in progress (R402), PCIE_PERST_N negated, and the HST profile applied (R527). -/
structure HostState where
  xspi : Option XspiCmd
  recal : Bool
  perst : Bool
  profile : Bool
  /-- The channel retrains after a wake (R411). -/
  retrain : Bool
deriving DecidableEq, Repr

/-- A TLB entry (09, R305): its virtual-side word without LOCK, its physical-side word, and the lock. -/
structure TlbEnt where
  v : Nat
  p : Nat
  lock : Bool
deriving DecidableEq, Repr

/-- A line of a cache (07, R251). -/
structure Line where
  data : List Byte
  dirty : Bool
  /-- Words that hold an uncorrectable error (R253). -/
  bad : List Nat
deriving DecidableEq, Repr

/-- A store-buffer entry (07, R257): 64-byte block of physical memory, its valid bytes by offset, whether it goes to the
data cache, its memory type, the issue cycle of its store; an entry for register space holds one access of its own. -/
structure SbEnt where
  block : Nat
  bytes : NMap Byte
  cached : Bool
  mem : Nat
  at_ : Nat
deriving DecidableEq, Repr

/-- A synchronous exception that waits to be taken (08, R273, R274): cause, FAULT_ADDR and its PHYS, UNIT and WHERE,
whether it is of the completion kind, raised by a re-triggered load, whether others were raised with it (MULTI), the
operands of R280, and what an entry for a walk fault loads into WALK_INFO and WALK_ADDR. -/
structure Exc where
  cause : Nat
  addr : Nat
  phys : Bool
  unit : Nat
  whr : Nat
  completion : Bool
  catchup : Bool
  multi : Bool
  o1 : Nat
  t : Nat
  o2 : Nat
  winfo : Nat
  waddr : Nat
deriving DecidableEq, Repr

/-- A load in flight (07, R254, R262): OP of R285, its parts as virtual address, physical address and length, the data
that it read at its trigger (R230), whether they have arrived, whether the data cache or the store buffer gave them, whether
it reads register space, and whether it is still to read, once the stores that it overlaps have drained (R259). -/
structure LoadOp where
  op : Nat
  parts : List (Nat × Nat × Nat)
  data : List Byte
  arrived : Bool
  hit : Bool
  space : Bool
  late : Bool
deriving DecidableEq, Repr

/-- An operation in flight (06, R205): unit and trigger offset, issue cycle of its trigger and of its readable cycle, the
result ports it writes, the flags it ORs into FPENV, the predicates it writes, an exception it raises on completion with the
physical address of its failure, a load, operands and FPENV as sampled, whether it is slow and still waits, the address of
its bundle, its WHERE, whether catch-up triggered it again, and of a SUBMIT that waits for the store buffer its handle and T. -/
structure Flight where
  unit : Nat
  off : Nat
  start : Nat
  land : Nat
  writes : List (Nat × Nat)
  sticky : Nat
  preds : List (Nat × Bool)
  exc : Option Nat
  eaddr : Nat
  load : Option LoadOp
  o1 : Nat
  t : Nat
  o2 : Nat
  env : Nat
  slow : Bool
  va : Nat
  whr : Nat
  catchup : Bool
  todo : Option (Nat × Nat)
deriving DecidableEq, Repr

/-- A loop level (06, R219; 07, R249): remaining count, body start, the copy of its first bundles. -/
structure LoopLev where
  count : Nat
  start : Nat
  copy : List (Nat × Nat)
deriving DecidableEq, Repr

/-- A transfer that waits for its delay bundle (08, R291): XFER code, target, address of the transfer bundle where the
branch target buffer is to learn it; of a call the parts of its shadow-stack word as virtual address, physical address and length;
of an ERET the words that it restores; and the WHERE of a trap, which no save set records. -/
structure Xfer where
  kind : Nat
  target : Nat
  from_ : Option Nat
  push : List (Nat × Nat × Nat)
  words : List Nat
  whr : Option Nat
deriving DecidableEq, Repr

/-- A walk that waits for WALK_COMPLETE (09, R309 to R313): 0 fetch, 1 data, 2 prefetch; from the root that was in force. -/
structure Walk where
  va : Nat
  kind : Nat
  root : Nat
deriving DecidableEq, Repr

/-- What fetch has of a bundle: its 128 bits, or an exception held with it (R242, R312). -/
inductive Fetched where
  | got (w : Nat)
  | bad (e : Exc)
deriving DecidableEq, Repr

/-- A data access of a deterministic core at its bank-access point (R265): bank, issue cycle, less the frozen cycles since, whether it is
a store that leaves part of an 8-byte word. -/
structure BankAcc where
  bank : Nat
  at_ : Nat
  narrow : Bool
deriving DecidableEq, Repr

/-- A walk that ended with no translation or a fault, held for the group that needs it (R311, R312): the walk, its cause,
and WALK_INFO and WALK_ADDR of a walk fault. -/
structure WalkEnd where
  walk : Walk
  cause : Nat
  info : Nat
  addr : Nat
deriving DecidableEq, Repr

/-- A bundle that fetch waits for (R241): virtual and physical address, and whether its line goes into the instruction
cache. -/
structure Miss where
  va : Nat
  pa : Nat
  cached : Bool
deriving DecidableEq, Repr

/-- An error response to a drained store or write-back (07, R260): address, response, log2 of the size, kind. -/
structure SbErr where
  addr : Nat
  resp : Nat
  size : Nat
  kind : Nat
deriving DecidableEq, Repr

/-- A trigger: unit, offset, T, address of its bundle, its WHERE (06, R209; 08, R284). -/
structure Trig where
  unit : Nat
  off : Nat
  t : Nat
  va : Nat
  whr : Nat
deriving DecidableEq, Repr

/-- A recorded operation with its e (08, R284, R285): its trigger, O1, the environment of FPU1, the parts of a load. -/
structure Again where
  e : Nat
  g : Trig
  o1 : Nat
  env : Nat
  parts : List (Nat × Nat × Nat)
deriving DecidableEq, Repr

/-- A return's fetch and hold (08, R288): the issue cycle before which its fetch does not end, the issue cycle of the resumed group
once the hold has begun, and the recorded operations. -/
structure CatchUp where
  fetch : Nat
  hold : Option Nat
  ops : List Again
deriving DecidableEq, Repr

/-- A Cox beside its registers (06 to 10). -/
structure Core where
  /-- Released and running (15, R454). -/
  on : Bool
  pc : Nat
  g : Vector W64 64
  /-- Predicates p1 to p15 as bits. -/
  preds : Nat
  /-- Operand and configuration ports of each level, by unit * 8 + offset (R272). -/
  banks : Vector (NMap Nat) 5
  /-- Read ports of the units that operations write, by port number. -/
  res : NMap Nat
  maskLev : Nat
  /-- STATUS.U (R295). -/
  user : Bool
  sua : Bool
  /-- STATUS.DET, as it took effect at the release (R267). -/
  det : Bool
  vbase : Nat
  xlate : Nat
  fpenv : Nat
  ssp : Nat
  link : Nat
  mailLev : Nat
  /-- CAUSE and FAULT_ADDR of the entry into each level. -/
  causes : Vector (Nat × Nat) 5
  /-- Dedicated save sets of levels 1 to 4 (R284). -/
  saves : Vector (List Nat) 4
  loops : List LoopLev
  /-- Issue cycles since the release (R237), and quarter core cycles (R208). -/
  cyc : Nat
  quarters : Nat
  /-- Quarter core cycles that the core's own cycles stand ahead of the time that has passed (notes/assumptions/31.md). -/
  ahead : Nat
  /-- The core is frozen (R236): the cause bit of COX_COREn_DETSTAT, and the store-buffer entries with which its group could enter. -/
  frozen : Option (Nat × Nat)
  /-- Empty cycles that follow the next bundle: a transfer predicted taken was not (R246). -/
  owe : Nat
  /-- Empty cycles of a transfer's cost that are still to pass (R246). -/
  gap : Nat
  /-- Data accesses of a deterministic core at their bank-access points, and the Crew banks it has fetched from (R265). -/
  accs : List BankAcc
  codeBanks : Nat
  flight : List Flight
  xfer : Option Xfer
  /-- The next bundle is a shadow bundle: XLATE and privilege it was fetched under (R248). -/
  shadow : Option (Nat × Bool)
  exc : Option Exc
  catchup : Option CatchUp
  /-- The state words restored by a return whose fetch or hold is in progress, kept for an abandoned return (R290). -/
  resumed : Option (List Nat)
  tlb : NMap TlbEnt
  /-- Walks that wait, the first in progress (R309). -/
  walks : List Walk
  /-- A broadcast has arrived since the walk in progress began (R316). -/
  staleWalk : Bool
  /-- Walks of the group about to issue that ended badly (R311). -/
  faulted : List WalkEnd
  /-- Lines of the instruction cache as numbers of 64 bytes, and of the data cache, by physical line address. -/
  icache : NMap Line
  dcache : NMap Line
  miss : Option Miss
  /-- Prefetch queue: addresses and bundles, or what fetch of them found (R240, R242). -/
  queue : List (Nat × Fetched)
  /-- Branch target buffer: index, address of the transfer bundle, target (R247). -/
  btb : NMap (Nat × Nat)
  sb : List SbEnt
  sbErr : List SbErr
  /-- Cache operations in progress: operation, virtual address's physical line (R216). -/
  cacheOps : List (Nat × Nat)
  inbox : List (Nat × Nat)
  /-- The bundle before was the first of a pair, in deterministic mode (R235, R244). -/
  paired : Bool
  /-- A synchronous exception at the NMI level has stopped the core (R270). -/
  stuck : Bool
deriving DecidableEq, Repr

/-- A TLB broadcast in progress (09, R316): sender, T, cores that have not completed. -/
structure Bcast where
  from_ : Nat
  t : Nat
  left : List Nat
deriving DecidableEq, Repr

/-- What the image's start block gives a core (15, R450). -/
structure StartBlk where
  entry : Nat
  vbase : Nat
  stack : Nat
  ssp : Nat
  fpenv : Nat
deriving DecidableEq, Repr

/-- The four Cox cores and what they share. -/
structure CoxState where
  cores : Vector Core 4
  /-- Start blocks of the cores that the image releases (R454). -/
  starts : Vector (Option StartBlk) 4
  bcasts : List Bcast
  /-- Levels of the balls IRQ_IN0 to IRQ_IN7. -/
  irqIn : Nat
deriving DecidableEq, Repr

/-- A commit accepted and queued: transaction handle, key, payload as read (R470, R471). -/
structure Commit where
  handle : Nat
  key : Nat
  payload : List Byte
deriving DecidableEq, Repr

/-- A system record to be written: a new preference, a repair entry, the life-cycle mark of R460 (R465). -/
inductive SysWrite where
  | prefer (b : Bool)
  | repair (entry : Nat)
  | mark
deriving DecidableEq, Repr

/-- The winning journal record of a class and key: SEQ, absolute position, length (R468). -/
structure Winner where
  cls : Nat
  key : Nat
  seq : Nat
  pos : Nat
  len : Nat
deriving DecidableEq, Repr

/-- A record of custody that is being programmed (16, R471, R474): a system record or a commit, its flash offset, the bytes erased there
first, the bytes programmed. -/
structure Flying where
  sys : Bool
  at_ : Nat
  erased : Nat
  data : List Byte
deriving DecidableEq, Repr

/-- Custody (16). -/
structure CusState where
  /-- Fuse pairs programmed: bit 0 DEVELOP, 1 FIELD, 2 RETURN, 3 END (R456). -/
  fuses : Nat
  /-- Image key hash, 48 bytes (R462). -/
  keyHash : List Byte
  /-- Rollback fuses programmed (R463). -/
  rollback : Nat
  /-- OTP words that OTPPROG has programmed. -/
  otp : NMap W32
  queue : List Commit
  /-- System records to be written, the first in flight. -/
  sys : List SysWrite
  /-- Journal write point and oldest block, counted without wrapping (R466, R476). -/
  wp : Nat
  oldBlk : Nat
  /-- Highest SEQ found or written. -/
  seq : Nat
  wins : List Winner
  /-- Hold-up times of the newest HOLDUP record, newest first (R467). -/
  holdups : List Nat
  /-- SETTINGS payloads (R469). -/
  mirror : NMap (List Byte)
  /-- 8-byte words of the mirror that hold an uncorrectable error. -/
  mirrorBad : List Nat
  /-- PFAIL_N is asserted, since when, and the number of the next cut marker (R474). -/
  pfail : Bool
  pfailAt : Nat
  cutN : Nat
  /-- The moment t0 from which the cut markers count (R474). -/
  cutFrom : Nat
  /-- Seeds of a full training wait to be committed (R455). -/
  seedDue : Bool
  /-- The record that is being programmed (R404, R474). -/
  flying : Option Flying
  /-- Records that the device writes for itself and that wait for the flash: class, key, payload (R404, R471). -/
  own : List (Nat × Nat × List Byte)
deriving DecidableEq, Repr

/-- A wake in progress (14, R411, R413): SOURCE, INPUT, what the wake found, and the components not yet ready, with whether
each has been restarted. -/
structure WakeRun where
  source : Nat
  input : Nat
  found : WakeIn
  waits : List (WakeComp × Bool)
deriving DecidableEq, Repr

/-- An erg run (17, R493 to R496): groups not yet ended, those of them that run, whether it was requested, TICKS at the
start of the group that runs. -/
structure ErgRun where
  left : List Nat
  runs : List Nat
  onReq : Bool
  ticks : Nat
deriving DecidableEq, Repr

/-- The power manager beside its registers (14, 15, 18). -/
structure PowState where
  /-- Mode request in progress, as REQ codes it (R407). -/
  req : Option Nat
  /-- Work is being shut down: no new work is taken (R409, R419). -/
  quiet : Bool
  /-- The reference is the RC oscillator (R413, R441). -/
  rc : Bool
  /-- Point that the DVFS step in progress heads for, and point whose voltage has been requested (R430). -/
  step : Option Nat
  volt : Option Nat
  /-- The DVFS step of a Hold-water entry is still to come, once these jobs have stopped (R416). -/
  hwEntry : Bool
  hwJobs : List Nat
  /-- The last junction sample was at 125 °C or above (R435). -/
  hot : Bool
  /-- PFAIL_N is acted on as asserted; HUP_SENSE is below its threshold, and the supervisor pulls the ball (R515). -/
  pfail : Bool
  hup : Bool
  pulled : Bool
  /-- Boathouse was entered while PFAIL_N was asserted (R414). -/
  pfailSleep : Bool
  /-- Tick of the WINDOW wake (R415). -/
  windowTick : Option Nat
  /-- Timebase and TICKS at Boathouse entry (R343). -/
  tbAt : Nat
  ticksAt : Nat
  wake : Option WakeRun
  /-- A source that asserted while the device was entering Boathouse: source, input, what the wake finds (R408). -/
  latched : Option (Nat × Nat × WakeIn)
  erg : Option ErgRun
  /-- The erg runs of Easy-all have ended (R406). -/
  ergDone : Bool
  /-- Rail enables and rails good, bit i for RAIL_ENi (R511). -/
  railEn : Nat
  railGood : Nat
  /-- Step 1 has been run again; Launch has stopped (R512, R443). -/
  railRetry : Bool
  stopped : Bool
  /-- PORST_N is asserted (R514). -/
  porst : Bool
  /-- The always-on domain runs from the crystal (R511). -/
  crystal : Bool
  /-- A Launch that is still to run, with its CAUSE (R439). -/
  launch : Option Nat
  /-- Ageing has capped DVFS, as the vault keeps it (R437). -/
  aged : Bool
  /-- The level of TESTMODE, which the board ties (R508). -/
  testmode : Bool
  /-- Time of the last PMBus telemetry (R432). -/
  telemetryAt : Nat
  /-- PROFERR holds an entry of this Launch (R449). -/
  profErr : Bool
deriving DecidableEq, Repr

/-- The debug port (17, R491, R492): instruction register, ADDR, and the response of the last command. -/
structure DbgState where
  ir : Nat
  addr : Nat
  status : Nat
  data : Nat
  /-- What the data register last shifted out. -/
  dr : Nat
deriving DecidableEq, Repr

end Sys2Proof.Machine
end

