-- ==== Sys2Proof/Machine/State.lean ====
section
/-!
DEFINITION. The state of the device as plain data, its stops, and the state after reset.
-/
namespace Sys2Proof.Machine

/-- The ways a run can stop with a fault. The spec gives every command an effect, so no meaning raises one;
the constructor stands for an access outside the 44-bit space, which an operand type already excludes (safe). -/
inductive Fault where
  /-- Raised by nothing: no address of the machine lies outside the physical address space. Safe. -/
  | outsideAddressSpace
deriving DecidableEq, Repr

/-- The ways a command is refused. -/
inductive Refusal where
  /-- Raised by an arm of exec whose command has no meaning yet. Safe: the run stops. -/
  | notModelled (mnemonic : String)
deriving DecidableEq, Repr

/-- The whole state. -/
structure State where
  /-- Commands that wait, first in first out. -/
  pending : List Instr
  /-- Registers: a listed register holds its value, any other its reset value (notes/assumptions/8.md). -/
  regs : NMap W64
  /-- Bytes of Course, Crew and DDR5 memory, in canonical form. -/
  mem : List Host.Cell
  /-- Error pattern of a stored word against its code word: data bits, then check bits (R143). -/
  ecc : NMap (BitVec 72)
  /-- Symbols in error of a DDR5 line (R400). -/
  ddrErr : NMap (List Nat)
  /-- Last response of each master (R394). -/
  replies : Vector Reply 16
  /-- Held low halves of 64-bit registers, by master and address (R11). -/
  halfWrite : List (Nat × Nat × Nat)
  /-- Captured high halves of 64-bit registers, by master and address (R11). -/
  halfRead : List (Nat × Nat × Nat)
  /-- Requests that wait (R125, R138, R156, R402, R481). -/
  held : List Held
  /-- What has left the device, newest first (notes/assumptions/9.md). -/
  out : List Out
  /-- RWL fields are locked (R5, R453). -/
  locked : Bool
  /-- Time-unit cycles since power-on; the model's clock (notes/assumptions/2.md). -/
  elapsed : Nat
  /-- Index of the next free value (notes/assumptions/1.md). -/
  freeCtr : Nat
  /-- Number of Launches of the DDR5 contents (R528). -/
  ddrEpoch : Nat
  /-- Bytes of the flash devices on CS0 and CS1; unlisted bytes are erased, 0xFF (notes/assumptions/5.md). -/
  flash0 : NMap Byte
  flash1 : NMap Byte
  flashSize0 : Nat
  flashSize1 : Nat
  /-- The timebase in units of 2^-48 ns (R337). -/
  tb : Nat
  stk : StkState
  flt : FaultState
  memx : MemState
  vec : VecState
  tim : TimState
  dom : DomState
  io : IoState
  host : HostState
  cox : CoxState
  cus : CusState
  pow : PowState
  dbg : DbgState
deriving DecidableEq, Repr

/-- A Cox before its release. -/
def Core.idle : Core where
  on := false
  pc := 0
  g := Vector.replicate 64 0
  preds := 0
  banks := Vector.replicate 5 []
  res := []
  maskLev := 0
  user := false
  sua := false
  det := false
  vbase := 0
  xlate := 0
  fpenv := 0
  ssp := 0
  link := 0
  mailLev := 0
  causes := Vector.replicate 5 (0, 0)
  saves := Vector.replicate 4 (List.replicate 32 0)
  loops := []
  cyc := 0
  quarters := 0
  ahead := 0
  frozen := none
  owe := 0
  gap := 0
  accs := []
  codeBanks := 0
  flight := []
  xfer := none
  shadow := none
  exc := none
  catchup := none
  resumed := none
  tlb := []
  walks := []
  staleWalk := false
  faulted := []
  icache := []
  dcache := []
  miss := none
  queue := []
  btb := []
  sb := []
  sbErr := []
  cacheOps := []
  inbox := []
  paired := false
  stuck := false

/-- The machine right after power-on reset (notes/assumptions/7.md names the values the spec does not give). -/
def State.reset : State where
  pending := []
  regs := []
  mem := []
  ecc := []
  ddrErr := []
  replies := Vector.replicate 16 ⟨0, []⟩
  halfWrite := []
  halfRead := []
  held := []
  out := []
  locked := false
  elapsed := 0
  freeCtr := 0
  ddrEpoch := 0
  flash0 := []
  flash1 := []
  flashSize0 := 0x8000000
  flashSize1 := 0x4000000
  tb := 0
  stk := ⟨[], [], none, [], [], Vector.replicate 16 ⟨[], [], none, [], 0, 0, none, [], none, false, [], false⟩⟩
  flt := ⟨[], [], [], [], [], [], [], true, false, false, 0⟩
  memx := ⟨[], [], [], [], [], [], [], none⟩
  vec := ⟨[], 0, Vector.replicate 4 ⟨none, none, none, none, false, none, false, none, [], [], 0, [], [], [], []⟩, [], [],
    Vector.replicate 4 0, []⟩
  tim := ⟨[], [], Vector.replicate 16 ⟨none, false, [], none, none, false⟩,
    Vector.replicate 33 ⟨false, none, none, false, 0, false, false, false, nominalTab, nominalTab⟩, Vector.replicate 16 0, 0, 0, 0, 0, none,
    Vector.replicate 4 [], [], false⟩
  dom := ⟨[], [], [], [], []⟩
  io := ⟨Vector.replicate 4 ⟨0, 0, [], 0, 0, false, false, false, [], []⟩, Vector.replicate 4 ⟨[], 0, []⟩,
    Vector.replicate 2 [], Vector.replicate 2 0, []⟩
  host := ⟨none, false, true, false, false⟩
  cox := ⟨Vector.replicate 4 Core.idle, Vector.replicate 4 none, [], 0⟩
  cus := ⟨0, List.replicate 48 0, 0, [], [], [], 0, 0, 0, [], [], [], [], false, 0, 0, 0, false, none, []⟩
  pow := ⟨none, false, false, none, none, false, [], false, false, false, false, false, none, 0, 0, none, none, none, false, 1, 0, false,
    false, false, false, some 0, false, false, 0, false⟩
  dbg := ⟨0x02, 0, 0, 0, 0⟩

end Sys2Proof.Machine
end

