-- ==== Sys2Proof/Machine/Ops.lean ====
section
/-!
DEFINITION. The named operations over registers and memory that every meaning uses: register fields, fault
reports (17, R478 to R486), memory words with their check bits (04, R143 to R154), memory groups asleep (R125),
ownership (R136), and access of a master to a physical address of a memory.
-/
namespace Sys2Proof.Machine

/-- What a meaning answers. -/
abbrev Answer := Host.Outcome State Fault Refusal

/-! ### Registers -/

/-- A field of a register: address of the register and bit range. -/
structure Fld where
  addr : Nat
  hi : Nat
  lo : Nat

/-- A field by block, offset and bits. -/
def F (b : Blk) (off hi lo : Nat) : Fld := ⟨b.base + off, hi, lo⟩

/-- A whole 32-bit register. -/
def F32 (b : Blk) (off : Nat) : Fld := F b off 31 0
/-- A whole 64-bit register. -/
def F64 (b : Blk) (off : Nat) : Fld := F b off 63 0

/-- The value a register holds: what is listed, else its reset value. -/
def State.reg (s : State) (addr : Nat) : Nat :=
  match nget addr s.regs with
  | some v => v.toNat
  | none => regReset addr

/-- Make a register hold a value. -/
def State.setReg (s : State) (addr v : Nat) : State := { s with regs := nput addr (BitVec.ofNat 64 v) s.regs }

/-- The value of a field. -/
def State.rd (s : State) (f : Fld) : Nat := bits (s.reg f.addr) f.hi f.lo

/-- Make a field hold a value; the register's other bits stay. -/
def State.wr (s : State) (f : Fld) (v : Nat) : State := s.setReg f.addr (putBits (s.reg f.addr) f.hi f.lo v)

/-- Whether bit i of a field is set. -/
def State.rdBit (s : State) (f : Fld) (i : Nat) : Bool := (s.rd f).testBit i

/-- Set bit i of a field. -/
def State.orBit (s : State) (f : Fld) (i : Nat) : State := s.wr f (setBit (s.rd f) i true)

/-- Clear bit i of a field. -/
def State.clrBit (s : State) (f : Fld) (i : Nat) : State := s.wr f (setBit (s.rd f) i false)

/-- Count in a field that wraps. -/
def State.count (s : State) (f : Fld) (d : Nat) : State := s.wr f (s.rd f + d)

/-- Count in a field that stops at its greatest value. -/
def State.countSat (s : State) (f : Fld) (d : Nat) : State := s.wr f (satAdd (s.rd f) d (2 ^ (f.hi + 1 - f.lo) - 1))

/-- Do a list of things in order. -/
def forAll {α : Type} (l : List α) (g : α → State → State) (s : State) : State := l.foldl (fun s a => g a s) s

/-- Do something if a condition holds. -/
def doIf (b : Bool) (g : State → State) (s : State) : State := if b then g s else s

/-- The next free value's index, and the state past it. -/
def State.fresh (s : State) : Nat × State := (s.freeCtr, { s with freeCtr := s.freeCtr + 1 })

/-! ### Modes and life cycle read by every block -/

/-- The operating modes as PWR_CTL_MODE encodes them (R405). -/
def modeBoathouse : Nat := 0
def modeLaunch : Nat := 1
def modePaddle : Nat := 2
def modeRace : Nat := 3
def modeHoldWater : Nat := 4
def modeEasyAll : Nat := 5

/-- The present mode (R405). -/
def State.mode (s : State) : Nat := s.rd (F .pwrCtl 0 2 0)

/-- Life-cycle states (R456). -/
def lcTest : Nat := 0
def lcDevelop : Nat := 1
def lcField : Nat := 2
def lcReturn : Nat := 3
def lcEnd : Nat := 4

/-- The present life-cycle state, CUS_LC_STATE (R456). -/
def State.lc (s : State) : Nat := s.rd (F .cusLc 0 2 0)

/-! ### CONFIG_ERR and fault reports -/

/-- Register of a block's fault set (R477). -/
def faultReg (b : Blk) (o : Nat) : Nat := (faultHome b).base + faultOff b + o

/-- Set CONFIG_ERR of a block; OFFSET holds the first write since it was cleared (R8; 17, Registers). -/
def configErr (b : Blk) (off : Nat) (s : State) : State :=
  let a := faultReg b 0x18
  if (s.reg a).testBit 31 then s else s.setReg a (2 ^ 31 + off % 0x10000)

/-- FAULT_STATUS, FAULT_LIVE, SHADOWED of a source's block. -/
def fStatus (b : Blk) : Fld := ⟨faultReg b 0, 31, 0⟩
def fLive (b : Blk) : Fld := ⟨faultReg b 4, 31, 0⟩
def fShadowed (b : Blk) : Fld := ⟨faultReg b 8, 31, 0⟩

/-- The reaction that a source's REACT field, or NMI_FAULT_REACT for NMI_FAULT, selects (R479). -/
def reactOf (s : State) (src : Src) : Nat :=
  match src.blk, src.bit with
  | .cox n, 1 => s.rd (F (.cox n) 0x204 2 0)
  | b, j => bits (s.reg (faultReg b (0x20 + 4 * (j / 8)))) (4 * (j % 8) + 2) (4 * (j % 8))

/-- Subsystem, block window, bit and kind as LASTRESET and HWSRC hold them (17, Registers). -/
def srcWord (src : Src) (kind : Nat) : Nat :=
  2 ^ 31 + src.blk.place.1 * 2 ^ 24 + src.blk.place.2 * 2 ^ 16 + src.bit * 2 ^ 8 + kind

/-- Drive the umpire pair to fault (R488). -/
def driveFault (s : State) : State := { s with flt := { s.flt with pairFault := true } }

/-- An escalation into Hold-water (R486): HWSRC records the first; Launch holds it (R484); Easy-all only records it. -/
def escalate (src : Src) (kind : Nat) (s : State) : State :=
  let w : Fld := F32 .pwrFlt 0x014
  let s := if (s.rd w).testBit 31 then s else s.wr w (srcWord src kind)
  if s.mode = modeEasyAll then s.orBit (F32 .pwrCtl 8) 2
  else if s.mode = modeLaunch then { s with flt := { s.flt with heldEsc := s.flt.heldEsc ++ [(src, kind)] } }
  else { s with flt := { s.flt with reactions := s.flt.reactions ++ [.holdWater src kind] } }

/-- Whether events that a block is the other party of are shadowed (R482, R483). -/
def blkShadowed (s : State) (b : Blk) : Bool := s.flt.shadows.contains b || s.flt.underTest.contains b

/-- Whether an event falls in a reset shadow or an erg suppression (R482, R483). -/
def isShadowed (s : State) (src : Src) (other : Option Blk) : Bool :=
  let w := (((sources src.blk)[src.bit]?).map Source.w).getD false
  s.flt.underTest.contains src.blk
  || (w && match other with
           | some o => blkShadowed s o
           | none => false)

/-- RST_WIN in time-unit cycles (17, R486): milliseconds of a 1.5 GHz clock. -/
def rstWin (s : State) : Nat := s.rd (F .pwrFlt 0x00C 15 0) * 1500000

/-- The reaction of R478 step 5. -/
def react (src : Src) (s : State) : State :=
  let push (r : Reaction) (s : State) : State := { s with flt := { s.flt with reactions := s.flt.reactions ++ [r] } }
  match reactOf s src with
  | 2 => { s with flt := { s.flt with nmi := s.flt.nmi ++ [⟨src, s.elapsed⟩] } }
  | 3 =>
    if s.mode = modeLaunch then s
    else if s.flt.resets.contains src.blk then s
    else match s.flt.ends.find? (fun e => e.1 = src.blk) with
      | some (_, t) => if s.elapsed - t < rstWin s then escalate src 3 s else push (.blockReset src) s
      | none => push (.blockReset src) s
  | 4 =>
    if s.mode = modeLaunch then s
    else push (.chipReset src (match src.blk, src.bit with | .cox _, 1 => 2 | _, _ => 1) s.elapsed) s
  | _ => s

/-- A fault source reports an event whose other party is a block, or none (R478). -/
def reportFrom (other : Option Blk) (b : Blk) (bit : Nat) (s : State) : State :=
  let src : Src := ⟨b, bit⟩
  if isShadowed s src other then s.orBit (fShadowed b) bit
  else
    let s := s.orBit (fStatus b) bit
    let s := if (s.reg (faultReg b 0xC)).testBit bit then driveFault s else s
    let s := if (s.reg (faultReg b 0x10)).testBit bit then escalate src 1 s else s
    react src s

/-- A fault source reports an event (R478). -/
def report (b : Blk) (bit : Nat) (s : State) : State := reportFrom none b bit s

/-- The condition of a source becomes true or false; its onset reports an event whose other party is a block, or none
(R480, R482). -/
def conditionFrom (other : Option Blk) (b : Blk) (bit : Nat) (on : Bool) (s : State) : State :=
  if on then
    if s.rdBit (fLive b) bit then s else reportFrom other b bit (s.orBit (fLive b) bit)
  else s.clrBit (fLive b) bit

/-- The condition of a source becomes true or false (R480). -/
def condition (b : Blk) (bit : Nat) (on : Bool) (s : State) : State := conditionFrom none b bit on s

/-! ### Power domains, as far as an access needs them -/

/-- STATE of a domain: 0 RUNNING, 1 GATED, 2 RETENTION, 3 OFF, 4 WAKING, 5 FAILED (14, Registers). -/
def domState (s : State) (d : Nat) : Nat := s.rd (F .pwrDom (16 * d + 0xC) 2 0)

/-- FORCE of a domain (R423). -/
def domForce (s : State) (d : Nat) : Nat := s.rd (F .pwrDom (16 * d) 1 0)

/-- Give a domain's STATE a value. -/
def setDom (d v : Nat) (s : State) : State := s.wr (F .pwrDom (16 * d + 0xC) 2 0) v

/-! ### Physical memories -/

def courseBase : Nat := 0
def courseSize : Nat := 0x4000000
def crewBase : Nat := 0x4000000
def crewSize : Nat := 0x400000
def ddrBase : Nat := 0x400000000

/-- The whole DDR5 target and the whole xSPI read window of R4. -/
def ddrMax : Nat := 64 * 2 ^ 30
def xspiSize : Nat := 256 * 2 ^ 20

def inCourse (a : Nat) : Bool := a < courseSize
def inCrew (a : Nat) : Bool := crewBase ≤ a && a < crewBase + crewSize

/-- Installed DDR5 in bytes: 2^SIZE GiB, none for 0 (R4; 13, Registers). -/
def ddrSize (s : State) : Nat :=
  let z := s.rd (F .hstDdr 0 5 3)
  if z = 0 then 0 else 2 ^ z * 2 ^ 30

def inDdr (s : State) (a : Nat) : Bool := ddrBase ≤ a && a < ddrBase + ddrSize s

def romBase : Nat := 0x8000000
def romSize : Nat := 0x10000
def pcieBase : Nat := 0x10000000000
def pcieSize : Nat := 0x10000000000

/-- Whether a range lies in one memory. An access whose bytes leave its target is one decode error for the whole of it:
the spec does not speak of such accesses, so this is a DESIGN CHOICE (notes/assumptions/57.md). -/
def rangeIn (base size a n : Nat) : Bool := base ≤ a && a + n ≤ base + size

/-- What an unlisted byte reads as: Course and Crew 0; DDR5 has no value (notes/assumptions/3.md). -/
def unlisted (a : Nat) : Option Byte := if a < crewBase + crewSize then some 0 else none

/-- One byte of a memory as it was last written: the model's read of one byte. -/
def memByte (s : State) (a : Nat) : Byte :=
  match nget a s.mem with
  | some b => b
  | none => (unlisted a).getD (Config.ddrByte s.ddrEpoch a)

/-- Write one byte of a list of cells, in canonical form. -/
def cellPut (a : Nat) (b : Byte) (m : List Host.Cell) : List Host.Cell :=
  if unlisted a = some b then ndel a m else nput a b m

/-- Write one byte of a memory. -/
def putByte (a : Nat) (b : Byte) (s : State) : State := { s with mem := cellPut a b s.mem }

/-- The canonical form of memory: addresses strictly rising, no entry equal to what an unlisted address reads as. -/
def Memory.wf (m : List Host.Cell) : Bool := rising m && m.all (fun c => decide (unlisted c.1 ≠ some c.2))

/-- n bytes from an address, errors apart. -/
def memBytes (s : State) (a n : Nat) : List Byte := (List.range n).map (fun i => memByte s (a + i))

/-- Write bytes from an address, errors apart. -/
def putBytes (a : Nat) : List Byte → State → State
  | [], s => s
  | b :: bs, s => putBytes (a + 1) bs (putByte a b s)

/-- Fill a range with zeros and valid check bits (R125). -/
def fillZero (a n : Nat) (s : State) : State :=
  { s with mem := ndelRange a n s.mem, ecc := ndelRange a n s.ecc }

/-- Bank and word index within the bank of a Course address (R123). -/
def courseBank (s : State) (a : Nat) : Nat × Nat :=
  let word := a / 8 % 2 ^ 23
  let idx := word / 1024
  let bank := word % 1024
  (if (s.reg (Blk.base .crsCtl)).testBit (a / 2 ^ 20) then bank ^^^ (idx % 1024) else bank, idx)

/-- Bank and word index within the bank of a Crew address (R134). -/
def crewBank (a : Nat) : Nat × Nat := (a / 2 ^ 16 % 64, a / 8 % 8192)

/-- Bank and word index within it, of either memory. -/
def bankOf (s : State) (a : Nat) : Nat × Nat := if inCrew a then crewBank a else courseBank s a

/-- The array block that holds a bank, and the bank's local number (04, Registers). -/
def arrOf (crew : Bool) (bank : Nat) : Blk × Nat :=
  if crew then (.crwArr, bank % 64) else (.crsArr (Fin.ofNat 16 (bank / 64)), bank % 64)

def ctlOf (crew : Bool) : Blk := if crew then .crwCtl else .crsCtl
def scrubOf (crew : Bool) : Blk := if crew then .crwScrub else .crsScrub

/-- Power domain of a memory address (R420). -/
def memDom (a : Nat) : Nat := if inCrew a then 84 + a / 2 ^ 16 % 64 / 4 else 20 + a / 2 ^ 20

/-- ACCESS codes of ERR_CE_INFO and ERR_UE_INFO (04, Registers). -/
def accRead : Nat := 0
def accPartial : Nat := 1
def accAtomic : Nat := 2
def accScrub : Nat := 3
def accRetention : Nat := 4

/-- The check bits of data (R143: all-zero data has all-zero check bits). -/
def checkBits (d : Nat) : BitVec 8 := if d = 0 then 0 else Config.eccCheck (BitVec.ofNat 64 d)

/-- Ones in a word. -/
def popCount (w : Nat) : Nat := ((List.range 72).filter (fun i => w.testBit i)).length

/-- The pattern of a poisoned word: its syndrome is 0xFF (R143). -/
def poison : BitVec 72 := BitVec.ofNat 72 (0xFF * 2 ^ 64)

/-- The bits in error of an error pattern. -/
def flipped (e : BitVec 72) : List Nat := (List.range 72).filter (fun i => e.toNat.testBit i)

/-- The syndrome of an error pattern: 0 for none, 0xFF for poison; one or two flipped bits give neither (R143). -/
def syndrome (e : BitVec 72) : Nat :=
  if e = 0 then 0
  else if e = poison then 0xFF
  else match flipped e with
    | [_] | [_, _] => (Config.eccLight e).val + 1
    | _ => (Config.eccSyndrome e).toNat

/-- A word whose syndrome is the poison code (R143). -/
def poisoned (e : BitVec 72) : Bool := syndrome e == 0xFF

/-- What reading a word with an error pattern gives (R143). -/
def eccOutcome (e : BitVec 72) : Config.EccOutcome :=
  if e = 0 then .clean
  else match flipped e with
    | [i] => .corrected i
    | [_, _] => .uncorrectable
    | _ => if poisoned e then .uncorrectable else Config.eccHeavy e


/-- The stored 64-bit word at a word address, errors apart. -/
def memWord (s : State) (wa : Nat) : Nat := leNat (memBytes s wa 8)

/-- The error pattern of a word. -/
def patternOf (s : State) (wa : Nat) : BitVec 72 := ngetD s.ecc wa 0

/-- Give a word an error pattern. -/
def setPattern (wa : Nat) (e : BitVec 72) (s : State) : State :=
  { s with ecc := if e = 0 then ndel wa s.ecc else nput wa e s.ecc }

/-- The data that a read of a word returns when it is not uncorrectable. -/
def readValue (s : State) (wa : Nat) : Nat :=
  let d := memWord s wa
  let e := patternOf s wa
  match eccOutcome e with
  | .clean => d ^^^ (e.toNat % 2 ^ 64)
  | .corrected i => d ^^^ ((e.toNat ^^^ 2 ^ i) % 2 ^ 64)
  | .uncorrectable => 0

/-- Put an address in a scrubber's demand queue of 8; one that finds it full is dropped and counted (R145). -/
def demandPut (crew : Bool) (wa : Nat) (s : State) : State :=
  let q := if crew then s.memx.demand1 else s.memx.demand0
  if q.length < 8 then
    let s := { s with memx := if crew then { s.memx with demand1 := q ++ [wa] } else { s.memx with demand0 := q ++ [wa] } }
    s.wr (F (scrubOf crew) 0x010 3 0) (q.length + 1)
  else s.countSat (F (scrubOf crew) 0x010 15 8) 1

/-- A bank's record of a correction: LAST, RUN, TOTAL and STUCK_SUSPECT (R150 items 1 and 2). -/
def trackCorrection (crew : Bool) (wa : Nat) (s : State) : State :=
  let (bank, idx) := bankOf s wa
  let (b, j) := arrOf crew bank
  let o := 0x100 + 8 * j
  let s := s.count (F b o 63 32) 1
  let run := if s.rd (F b o 12 0) = idx ∧ s.rd (F b o 23 16) ≠ 0 then satAdd (s.rd (F b o 23 16)) 1 255 else 1
  let s := (s.wr (F b o 12 0) idx).wr (F b o 23 16) run
  if run ≥ s.rd (F (scrubOf crew) 0x004 7 0) then s.wr (F b o 31 31) 1 else s

/-- ERR_CE_ADDR and ERR_CE_INFO take a correctable event (R154). -/
def recordCe (m access i : Nat) (wa : Nat) (s : State) : State :=
  let c := ctlOf (inCrew wa)
  let s := s.wr (F64 c 0x200) wa
  s.wr (F32 c 0x208) (2 ^ 31 + i * 2 ^ 24 + syndrome (patternOf s wa) * 2 ^ 16 + m * 2 ^ 12 + access * 2 ^ 8)

/-- A correctable event: logged, counted, tracked, and queued for the scrubber (R145, R154). -/
def logCe (m access i : Nat) (wa : Nat) (s : State) : State :=
  let crew := inCrew wa
  let c := ctlOf crew
  let s := recordCe m access i wa s
  let s := s.countSat (F32 c 0x20C) 1
  let s := trackCorrection crew wa s
  if access = accScrub then s else demandPut crew wa s

/-- An uncorrectable event: the first is recorded, later ones counted; UE is raised (R146, R154). -/
def logUe (m access : Nat) (wa : Nat) (s : State) : State :=
  let c := ctlOf (inCrew wa)
  let e := patternOf s wa
  let s := s.countSat (F32 c 0x21C) 1
  let s :=
    if s.rd (F c 0x218 31 31) = 1 then s.countSat (F c 0x218 7 0) 1
    else (s.wr (F64 c 0x210) wa).wr (F32 c 0x218)
      (2 ^ 31 + bnat (poisoned e) * 2 ^ 30 + syndrome e * 2 ^ 16 + m * 2 ^ 12 + access * 2 ^ 8)
  report c 0 s

/-- The data of a word in a bank's DET write queue, the newest if several are there (R129). -/
def queuedWord (s : State) (wa : Nat) : Option Nat :=
  if s.memx.detQ.isEmpty ∨ !inCourse wa then none
  else ((ngetD s.memx.detQ (courseBank s wa).1 []).reverse.find? (fun p => p.1 = wa)).map Prod.snd

/-- Read one word with its check: the data and whether it is uncorrectable, with the log of R145 and R146;
a word in a DET write queue is served from it (R129). -/
def readWord (m access : Nat) (wa : Nat) (s : State) : State × Nat × Bool :=
  match queuedWord s wa with
  | some v => (s, v, false)
  | none =>
    match eccOutcome (patternOf s wa) with
    | .clean => (s, readValue s wa, false)
    | .corrected i => (logCe m access i wa s, readValue s wa, false)
    | .uncorrectable => (logUe m access wa s, 0, true)

/-- The word addresses that a range of bytes touches. -/
def wordsOf (a n : Nat) : List Nat :=
  if n = 0 then [] else (List.range ((a + n - 1) / 8 - a / 8 + 1)).map (fun i => (a / 8 + i) * 8)

/-- The flip mask of an array block, taken by the next write (R152). -/
def flipMask (s : State) (wa : Nat) : Option (Blk × BitVec 72) :=
  let crew := inCrew wa
  let b := (arrOf crew (bankOf s wa).1).1
  if s.rd (F b 0x008 31 31) = 1 then
    some (b, BitVec.ofNat 72 (s.rd (F b 0x008 7 0) * 2 ^ 64 + s.rd (F64 b 0x000)))
  else none

/-- A word has just been written: an armed flip mask corrupts it, and ARM clears (R152). -/
def flipInto (wa : Nat) (s : State) : State :=
  match flipMask s wa with
  | some (b, k) => setPattern wa (patternOf s wa ^^^ k) (s.wr (F b 0x008 31 31) 0)
  | none => s

/-- A word has just been written whole with valid check bits: apply an armed flip mask (R152). -/
def sealWord (wa : Nat) (s : State) : State := flipInto wa (setPattern wa 0 s)

/-- Of a range that is filled, the first word in each array block whose mask is armed. -/
def armedWords (a : Nat) (s : State) : List Nat :=
  if inCrew a then [a]
  else (List.finRange 16).filterMap fun k =>
    if s.rd (F (.crsArr k) 0x008 31 31) = 1 then
      ((List.range 1024).map (fun i => a + 8 * i)).find? (fun wa => (courseBank s wa).1 / 64 = k.val)
    else none

/-- Fill a range with zeros and valid check bits; these are writes of MAINT, which an armed mask meets (R125, R152). -/
def fillWrite (a n : Nat) (s : State) : State := forAll (armedWords a s) flipInto (fillZero a n s)

/-- The word as corrected, so that new bytes can be merged into it (R147). -/
def settleWord (wa : Nat) (s : State) : State :=
  let v := readValue s wa
  setPattern wa 0 (putBytes wa (leBytes 8 v) s)

/-- Insert a word of an access by the number of its bank, behind those of the same bank. -/
def byBank (s : State) (wa : Nat) : List Nat → List Nat
  | [] => [wa]
  | x :: l => if (bankOf s wa).1 < (bankOf s x).1 then wa :: x :: l else x :: byBank s wa l

/-- The words of one access whose events are logged: those with an error, the lower bank first (R154). -/
def badWords (s : State) (ws : List Nat) : List Nat :=
  (ws.filter (fun wa => patternOf s wa ≠ 0 && (queuedWord s wa).isNone)).foldl (fun l wa => byBank s wa l) []

/-- Of the correctable events of one access the record keeps that of the lowest bank (R154). -/
def keepLowest (m access : Nat) (ws : List Nat) (s : State) : State :=
  match ws.filterMap (fun wa => match eccOutcome (patternOf s wa) with | .corrected i => some (wa, i) | _ => none) with
  | [] | [_] => s
  | (wa, i) :: l =>
    let low := (bankOf s wa).1
    match (l.filter (fun p => (bankOf s p.1).1 = low)).getLast? with
    | some p => recordCe m access p.2 p.1 s
    | none => recordCe m access i wa s

/-- Read n bytes of Course or Crew memory: state, data, word address of the first uncorrectable word. -/
def readOnChip (m access : Nat) (a n : Nat) (s : State) : State × List Byte × Option Nat :=
  let ws := wordsOf a n
  let bad := badWords s ws
  let t := forAll bad (fun wa s => (readWord m access wa s).1) s
  (keepLowest m access bad t, ((ws.flatMap (fun wa => leBytes 8 (readWord m access wa s).2.1)).drop (a % 8)).take n,
    ws.find? (fun wa => (readWord m access wa s).2.2))

/-- Whether a write of n bytes covers the word whole. -/
def covers (a n wa : Nat) : Bool := a ≤ wa && wa + 8 ≤ a + n

/-- A queued DET write retires into its bank (R129); that the bank accepts it then, so that a mask armed while it was queued
meets it, is a DESIGN CHOICE (notes/assumptions/67.md). -/
def retireWord (wa v : Nat) (s : State) : State := sealWord wa (putBytes wa (leBytes 8 v) s)

/-- Replace a bank's DET write queue. -/
def setDetQ (bank : Nat) (q : List (Nat × Nat)) (s : State) : State :=
  { s with memx := { s.memx with detQ := if q.isEmpty then ndel bank s.memx.detQ else nput bank q s.memx.detQ } }

/-- Every queued DET write of a word retires, so that a later write to it follows in order (R129). -/
def retireFor (wa : Nat) (s : State) : State :=
  if (queuedWord s wa).isNone then s
  else
    let bank := (courseBank s wa).1
    let q := ngetD s.memx.detQ bank []
    forAll (q.filter (fun p => p.1 = wa)) (fun p s => retireWord p.1 p.2 s) (setDetQ bank (q.filter (fun p => p.1 ≠ wa)) s)

/-- A DET write of a word enters its bank's queue of 4; a full queue retires its oldest write first (R129). -/
def queueDet (wa v : Nat) (s : State) : State :=
  let bank := (courseBank s wa).1
  match ngetD s.memx.detQ bank [] with
  | p :: a :: b :: c :: rest => retireWord p.1 p.2 (setDetQ bank ([a, b, c] ++ rest ++ [(wa, v)]) s)
  | q => setDetQ bank (q ++ [(wa, v)]) s

/-- Write bytes to Course or Crew memory: partial words are merged, or refuse the write (R147). -/
def writeOnChip (m access : Nat) (a : Nat) (bs : List Byte) (s : State) : State × Nat :=
  let ws := wordsOf a bs.length
  let s := forAll ws retireFor s
  let part := ws.filter (fun wa => !covers a bs.length wa)
  match (badWords s part).find? (fun wa => eccOutcome (patternOf s wa) = .uncorrectable) with
  | some wa => (logUe m access wa s, 6)
  | none =>
    let s := keepLowest m access (badWords s part) (forAll (badWords s part) (fun wa s =>
      match eccOutcome (patternOf s wa) with
      | .corrected i => logCe m access i wa s
      | _ => s) s)
    let s := forAll part settleWord s
    let s := putBytes a bs s
    (ws.foldl (fun s wa => sealWord wa s) s, 0)

/-! ### Memory groups asleep (R125, R134) -/

/-- Fill a memory group that lost power without retention, and set its LOST bit (R125, R134). -/
def fillGroup (d : Nat) (s : State) : State :=
  if 20 ≤ d ∧ d < 84 then
    (fillWrite ((d - 20) * 2 ^ 20) (2 ^ 20) s).orBit (F64 .crsCtl 0x008) (d - 20)
  else if 84 ≤ d ∧ d < 100 then
    (fillWrite (crewBase + (d - 84) * 2 ^ 18) (2 ^ 18) s).orBit (F .crwCtl 0x10C 15 0) (d - 84)
  else s

/-- Request-cycles in which a request was ready at a bank and not served, and a DET read that missed its slack. -/
def countWaits (m : Nat) (a waits : Nat) (det : Bool) (s : State) : State :=
  if inCourse a then
    let s := s.count (F64 .crsCtl (0x100 + 8 * m)) waits
    if det ∧ waits > 3 then report .crsCtl 1 (s.count (F64 .crsCtl 0x010) 1) else s
  else if inCrew a then s.count (F32 .crwCtl (0x400 + 4 * (16 * m + (crewBank a).1 / 4))) waits
  else s

/-- Count one request held for a group wake (R125, R134). -/
def countWakeWait (a : Nat) (s : State) : State :=
  if inCrew a then s.count (F32 .crwCtl 0x108) 1 else s.count (F32 .crsCtl 0x018) 1

/-- A shell's stream registers lose their contents (R120). -/
def loseRegs (n : Fin 4) (s : State) : State :=
  { s with vec := { s.vec with shells := s.vec.shells.set n { s.vec.shells[n] with vreg := [], vtag := [], vbad := [], tbad := [] } } }

/-- Pads that are held when their domain leaves RUNNING (R420). -/
def hasPads (d : Nat) : Bool := (103 ≤ d && d ≤ 111) || d == 113 || d == 114 || d == 116 || d == 117

/-- HOLD of a domain, and opening it (R426). -/
def padHeld (s : State) (d : Nat) : Bool := s.rd (F .pwrDom (16 * d) 7 7) = 1
def openPad (d : Nat) (s : State) : State :=
  let s := { s.wr (F .pwrDom (16 * d) 7 7) 0 with dom := { s.dom with rel := s.dom.rel.filter (· ≠ d) } }
  if d = 114 then
    { s with tim := { s.tim with trips := Vector.ofFn fun n => { s.tim.trips[n] with
                                   pin := s.rd (F .timTrip (32 * n.val) 7 7) = 1 } } }
  else s

/-- A domain leaves RUNNING: its pad hold closes (R426). -/
def closePad (d : Nat) (s : State) : State := if hasPads d then s.wr (F .pwrDom (16 * d) 7 7) 1 else s

/-- A domain that runs again opens its hold for a pending release, or after a stage of the idle timer with AUTOREL (R426). -/
def runPads (d : Nat) (s : State) : State :=
  let auto_ := s.dom.byIdle.contains d && s.rd (F .pwrDom (16 * d) 5 5) == 1 && (s.mode == modePaddle || s.mode == modeRace || s.mode == modeHoldWater)
  let s := if s.dom.rel.contains d || auto_ then openPad d s else s
  { s with dom := { s.dom with byIdle := s.dom.byIdle.filter (· ≠ d), tried := s.dom.tried.filter (· ≠ d),
                               from_ := ndel d s.dom.from_ } }

/-- A shell that read OFF reads IDLE: its stream buffers' domain runs (02, Registers). -/
def shellOn (n : Nat) (s : State) : State :=
  let f := F (.vecShell (Fin.ofNat 4 n)) 0 2 0
  if s.rd f = 0 then s.wr f 1 else s

/-- A domain reaches RUNNING; one that woke from OFF has lost what it held (R120, R125). -/
def groupRun (d : Nat) (s : State) : State :=
  let from_ := if domState s d = 4 then ngetD s.dom.from_ d 3 else domState s d
  let s := if from_ = 3 then
      if 16 ≤ d ∧ d < 20 then
        shellOn (d - 16) ((loseRegs (Fin.ofNat 4 (d - 16)) s).wr (F (.vecShell (Fin.ofNat 4 (d - 16))) 0x18 31 31) 1)
      else fillGroup d s
    else s
  runPads d (setDom d 0 s)

/-- A domain that an agent needs inside its own step wakes and is found ready, or fails (R423, R424). -/
def wakeDom (d : Nat) (s : State) : State × Bool :=
  let st := domState s d
  if st = 0 then (s, true)
  else if domForce s d = 2 ∨ st = 5 then (s, false)
  else (groupRun d s, true)

/-- A domain begins to wake (R424). -/
def startWake (d : Nat) (s : State) : State :=
  let st := domState s d
  if st = 0 ∨ st = 4 ∨ st = 5 ∨ domForce s d = 2 then s
  else
    let s := setDom d 4 s
    { s with dom := { s.dom with from_ := nput d st s.dom.from_, tried := s.dom.tried.filter (· ≠ d) } }

/-- Activity of a block makes its domain run again (R421): one that is gated or in retention runs, one that is off begins to wake. -/
def activity (d : Nat) (s : State) : State :=
  match domState s d with
  | 1 | 2 => (wakeDom d s).1
  | 3 => startWake d s
  | _ => s

/-- A core waits in WAIT, or has not been released (R407, R420). -/
def coreWaits (s : State) (c : Fin 4) : Bool := !(s.cox.cores[c]).on || s.rd (F (.cox c) 0x200 6 6) == 1
def allWait (s : State) : Bool := (List.finRange 4).all (coreWaits s)

/-- The entry into Boathouse has begun: the last core is in WAIT (R409). -/
def entering (s : State) : Bool := s.pow.req == some 1 && (s.mode == modePaddle || s.mode == modeRace) && allWait s

/-- The Mover and the network take no new work (R409, R419). -/
def quietNow (s : State) : Bool := s.pow.quiet || entering s

/-- Whether a domain has its supply, retention included (R420, R424). -/
def powered (s : State) (d : Nat) : Bool :=
  match domState s d with
  | 0 | 1 | 2 => true
  | 4 => ngetD s.dom.from_ d 3 != 3
  | _ => false

/-- A sleeping group that an agent needs inside its own step wakes and is found ready, or fails (R125, R423, R424). -/
def wakeGroup (a : Nat) (s : State) : State × Bool :=
  let d := memDom a
  let st := domState s d
  if st = 0 then (s, true)
  else if domForce s d = 2 ∨ st = 5 then (s, false)
  else (groupRun d (countWakeWait a s), true)

/-! ### Crew ownership (R135 to R140) -/

/-- Field of CRW_CTL_OWNn. -/
def ownFld (bank hi lo : Nat) : Fld := F .crwCtl (4 * bank) hi lo

/-- Owner code that a master counts as (R135); HOST is 8. -/
def ownerCode (m : Nat) : Nat :=
  if m ≤ 3 then m else if m ≤ 7 then 4 else if m = 8 then 5 else if m = 9 then 6 else if m = 10 then 7
  else if m = 11 then 8 else 16

/-- Complete a handover: OWNER takes its new value, PENDING clears (R138). -/
def handoverDone (bank : Nat) (s : State) : State :=
  match nget bank s.memx.ownNext with
  | some o =>
    let s := { s with memx := { s.memx with ownNext := ndel bank s.memx.ownNext } }
    (s.wr (ownFld bank 3 0) o).wr (ownFld bank 5 5) 0
  | none => s

/-- What ownership says of an access: allowed, refused, or waiting for a handover (R136 to R138). -/
inductive OwnCheck where
  | allowed | refused | waits
deriving DecidableEq, Repr

/-- The ownership check of a Crew bank (R136, R137, R138). -/
def ownCheck (s : State) (m bank : Nat) : OwnCheck :=
  let quiet := s.rd (ownFld bank 4 4) = 1
  if m = 12 ∨ m = 13 then .allowed
  else if (m = 14 ∨ m = 15) ∧ quiet then .refused
  else if m = 14 then .allowed
  else if m = 15 ∧ (s.lc = lcTest ∨ s.lc = lcDevelop ∨ s.lc = lcReturn) then .allowed
  else match nget bank s.memx.ownNext with
    | some o => if ownerCode m = o then .waits else .refused
    | none => if ownerCode m = s.rd (ownFld bank 3 0) then .allowed else .refused

/-- Log an OWNERSHIP error (R136; 04, Registers) and raise OWN_ERR, whose other party is the given block. -/
def logOwn (m : Nat) (write : Bool) (a : Nat) (other : Option Blk) (s : State) : State :=
  let i := F .crwCtl 0x288 31 31
  let s :=
    if s.rd i = 1 then s.countSat (F .crwCtl 0x288 23 16) 1
    else (s.wr (F64 .crwCtl 0x280) a).wr (F32 .crwCtl 0x288)
      (2 ^ 31 + m * 2 ^ 12 + bnat write * 2 ^ 6 + (crewBank a).1)
  reportFrom other .crwCtl 1 s

/-- The block that a master's transaction comes from, as the other party of R482. Which link or port a transaction of INGEST or NETWORK
comes from its ID does not tell: one in its shadow, if there is such, a DESIGN CHOICE (notes/assumptions/69.md). -/
def masterBlk (s : State) (m : Nat) : Option Blk :=
  if m ≤ 3 then some (.cox (Fin.ofNat 4 m)) else if m ≤ 7 then some (.vecShell (Fin.ofNat 4 (m - 4)))
  else if m = 8 then some .movMvr
  else if m = 9 then ((List.finRange 4).map Blk.ingLink).find? (blkShadowed s)
  else if m = 10 then ((List.finRange 4).map Blk.netPort).find? (blkShadowed s)
  else if m = 11 then some .hstPcie else none

/-- The block that an access to a memory address meets, as the other party of R482. -/
def targetBlk (s : State) (a : Nat) : Option Blk :=
  if inCourse a || inCrew a then some (arrOf (inCrew a) (bankOf s a).1).1
  else if inDdr s a then some .hstDdr else if rangeIn pcieBase pcieSize a 1 then some .hstPcie
  else if 0x20000000 ≤ a ∧ a < 0x30000000 then some .hstXspi else none

/-! ### DDR5 (R400) -/

/-- Lines of 64 bytes that a range touches. -/
def linesOf (a n : Nat) : List Nat :=
  if n = 0 then [] else (List.range ((a + n - 1) / 64 - a / 64 + 1)).map (fun i => (a / 64 + i) * 64)

/-- Whether a line's symbol errors leave it uncorrectable: one symbol is corrected, two are detected (R400). -/
def ddrBad (s : State) (line : Nat) : Bool :=
  match ngetD s.ddrErr line [] with
  | [] | [_] => false
  | [_, _] => true
  | syms => Config.ddrHeavy syms

/-- The bytes of a line as a read returns them: those of a line whose error goes undetected are open (R400). -/
def ddrLine (s : State) (l : Nat) : List Byte :=
  match ngetD s.ddrErr l [] with
  | [] | [_] => memBytes s l 64
  | syms => (List.range 64).map (fun i => Config.ddrGarbled syms (l + i) (memByte s (l + i)))

/-- Log of a line read with one symbol in error (R400). -/
def ddrCe (m access l : Nat) (s : State) : State :=
  match ngetD s.ddrErr l [] with
  | [sym] =>
    let s := (s.wr (F64 .hstDdr 0x200) l).wr (F32 .hstDdr 0x208) (2 ^ 31 + m * 2 ^ 12 + access * 2 ^ 8 + sym)
    s.countSat (F32 .hstDdr 0x20C) 1
  | _ => s

/-- Log of a line read with an uncorrectable error (R400). -/
def ddrUe (m access l : Nat) (s : State) : State :=
  let s := s.countSat (F32 .hstDdr 0x21C) 1
  let s := if s.rd (F .hstDdr 0x218 31 31) = 1 then s.countSat (F .hstDdr 0x218 7 0) 1
    else (s.wr (F64 .hstDdr 0x210) l).wr (F32 .hstDdr 0x218) (2 ^ 31 + m * 2 ^ 12 + access * 2 ^ 8)
  report .hstDdr 0 s

/-- Read of DDR5 with its log (R400): state, data, the first line with an uncorrectable error. -/
def readDdr (m access : Nat) (a n : Nat) (s : State) : State × List Byte × Option Nat :=
  let ls := linesOf a n
  let t := forAll ls (fun l s => if ddrBad s l then ddrUe m access l s else ddrCe m access l s) s
  match ls.find? (ddrBad s) with
  | some l => (t, List.replicate n 0, some l)
  | none => (t, ((ls.flatMap (ddrLine s)).drop (a % 64)).take n, none)

/-- Write of DDR5: part of a line is a read-modify-write, logged as one; one with an uncorrectable error is REFUSED, and
a line written is without error (R400, R147). -/
def writeDdr (m a : Nat) (bs : List Byte) (s : State) : State × Nat :=
  let part := (linesOf a bs.length).filter (fun l => !(a ≤ l && l + 64 ≤ a + bs.length))
  match part.find? (ddrBad s) with
  | some l => (ddrUe m accPartial l s, 6)
  | none =>
    let s := forAll part (fun l s => putBytes l (ddrLine s l) (ddrCe m accPartial l s)) s
    let s := putBytes a bs s
    ({ s with ddrErr := (linesOf a bs.length).foldl (fun e l => ndel l e) s.ddrErr }, 0)

/-! ### Accesses of an agent to a memory -/

/-- Response codes of R396. -/
def rOkay : Nat := 0
def rDecode : Nat := 1
def rTarget : Nat := 2
def rUe : Nat := 3
def rOwnership : Nat := 4
def rInTest : Nat := 5
def rRefused : Nat := 6
def rWakeFail : Nat := 7
def rUnsupported : Nat := 8
def rPcieUr : Nat := 9
def rPcieCa : Nat := 0xA
def rPcieTimeout : Nat := 0xB
def rPcieDown : Nat := 12

/-- Record a decode error and give its response (R395). -/
def decodeError (m : Nat) (write : Bool) (a : Nat) (s : State) : State × Nat :=
  let i := F .xbrCtl 0x050 31 31
  let s := if s.rd i = 1 then s else (s.wr (F .xbrCtl 0x048 43 0) a).wr (F32 .xbrCtl 0x050)
    (2 ^ 31 + (s.rd (F .xbrCtl 0x050 15 8)) * 2 ^ 8 + bnat write * 2 ^ 4 + m)
  let s := s.countSat (F .xbrCtl 0x050 15 8) 1
  let s := report .xbrCtl 0 s
  (s, if s.rdBit (F .xbrCtl 0x040 15 0) m then rDecode else rOkay)

/-- Whether a Crew bank or Course array block answers IN_TEST: a destructive march, or an erg run (R156, R494). -/
def inTest (s : State) (a : Nat) : Bool :=
  let crew := inCrew a
  let bank := (bankOf s a).1
  s.flt.underTest.contains (arrOf crew bank).1
  || (crew && match s.memx.march with
      | some t => !t.preserving && t.banks.getLsbD bank
      | none => false)

/-- CUSTODY or DEBUG at a Crew bank with QUIET set: refused before anything else is looked at (R137). -/
def quietRefused (m a : Nat) (s : State) : Bool :=
  inCrew a && (m == 14 || m == 15) && s.rd (ownFld (crewBank a).1 4 4) == 1

/-- An IN_TEST response is counted when the block is under an erg run (R494). -/
def countTest (a : Nat) (s : State) : State :=
  s.count (F32 .pwrErg 0x014) (bnat (s.flt.underTest.contains (arrOf (inCrew a) (bankOf s a).1).1))

/-- How an access gets at its memory: the way a sleeping group is woken, and the way a handover in progress ends. -/
structure Way where
  wake : Nat → State → State × Bool
  hand : Nat → State → State

/-- Ownership, test and wake of an on-chip access: state and response code, 0 to go on (R125, R136, R137, R156). -/
def admitBy (w : Way) (m : Nat) (write : Bool) (a : Nat) (s : State) : State × Nat :=
  if quietRefused m a s then (logOwn m write a (masterBlk s m) s, rOwnership)
  else if inTest s a then (countTest a s, rInTest)
  else
    let (s, ok) := w.wake a s
    if !ok then (s, rWakeFail)
    else if inCrew a then
      match ownCheck s m (crewBank a).1 with
      | .allowed => (s, rOkay)
      | .waits => (w.hand (crewBank a).1 s, rOkay)
      | .refused => (logOwn m write a (masterBlk s m) s, rOwnership)
    else (s, rOkay)

/-- The addresses of a range at which admission can differ: its first, every Crew bank or group boundary in it, and,
while an array block is under test, every row of its banks. -/
def probes (s : State) (a n : Nat) : List Nat :=
  let g := if s.flt.underTest.isEmpty then 0x10000 else 0x200
  a :: (List.range ((a + n - 1) / g - a / g)).map (fun i => (a / g + i + 1) * g)

/-- Ownership, test and wake of every part of an on-chip range: the first response that is not OKAY. -/
def admitRangeBy (w : Way) (m : Nat) (write : Bool) (a n : Nat) (s : State) : State × Nat :=
  (probes s a n).foldl (fun (acc : State × Nat) x => if acc.2 ≠ 0 then acc else admitBy w m write x acc.1) (s, 0)

/-- The response of a read, as an agent sees it. -/
structure Got where
  st : State
  code : Nat
  data : List Byte
  /-- Address of the first uncorrectable word, when code is UE. -/
  at_ : Nat

/-- A read of Course or Crew memory. -/
def chipRead (w : Way) (m access a n : Nat) (s : State) : Got :=
  let (s, c) := admitRangeBy w m false a n s
  if c ≠ 0 then ⟨s, c, List.replicate n 0, a⟩ else
  let (s, d, u) := readOnChip m access a n s
  match u with
  | none => ⟨s, 0, d, a⟩
  | some w => ⟨s, rUe, List.replicate n 0, w⟩

/-- A write of Course or Crew memory: state and response code. -/
def chipWrite (w : Way) (m a : Nat) (bs : List Byte) (s : State) : State × Nat :=
  let (s, c) := admitRangeBy w m true a bs.length s
  if c ≠ 0 then (s, c) else writeOnChip m accPartial a bs s

/-- A DET write of whole words to Course memory enters the banks' queues (R129). -/
def detWrite (w : Way) (m a : Nat) (d : List Byte) (s : State) : State × Nat :=
  let (s, c) := admitRangeBy w m true a d.length s
  if c ≠ 0 then (s, c)
  else (forAll (wordsOf a d.length) (fun wa s => queueDet wa (leNat ((d.drop (wa - a)).take 8)) s) s, rOkay)

/-- Size and alignment that register space and atomic operations may have (R10, R141). -/
def sizeOk (a n : Nat) : Bool := (n == 4 || n == 8) && a % n == 0

/-- An atomic operation of Course or Crew memory, which only an aligned one of a Crew word is: state, response, old value
(R141, R147). -/
def chipAtomic (w : Way) (m a n : Nat) (f : Nat → Nat) (s : State) : State × Nat × Nat :=
  if !inCrew a || !sizeOk a n then (s, rUnsupported, 0) else
  let (s, c) := admitBy w m true a s
  if c ≠ 0 then (s, c, 0)
  else
    let wa := a / 8 * 8
    match eccOutcome (patternOf s wa) with
    | .uncorrectable => (logUe m accAtomic wa s, rRefused, 0)
    | e =>
      let s := match e with
        | .corrected i => logCe m accAtomic i wa s
        | _ => s
      let s := settleWord wa s
      let old := leNat (memBytes s a n)
      (sealWord wa (putBytes a (leBytes n (f old)) s), rOkay, old)

/-! ### Requests of the bus, as far as a memory group serves those that waited for it (R125) -/

/-- Number of bytes that a request touches. -/
def Req.size (q : Req) : Nat :=
  match q.op with
  | .read n => n
  | .write d => d.length
  | .add n _ | .swap n _ => n

def Req.isRead (q : Req) : Bool :=
  match q.op with
  | .read _ => true
  | _ => false

/-- The function that an atomic operation of n bytes applies (R141). -/
def BusOp.atomic : BusOp → Nat → Nat
  | .add n v, x => (x + v) % 2 ^ (8 * n)
  | .swap n v, _ => v % 2 ^ (8 * n)
  | _, x => x

/-- A response with no data beyond zeros for a read. -/
def emptyReply (q : Req) (c : Nat) : Reply := ⟨c, if q.isRead then List.replicate q.size 0 else []⟩

/-- Record something that leaves the device. -/
def emit (o : Out) (s : State) : State := { s with out := o :: s.out }

/-- How an inbound read completes at the host (R398). -/
def completion (c : Nat) : Completion :=
  if c = rOkay then .success else if c = rUe then .poisoned else if c = rDecode then .unsupported else .abort

/-- The response of a request: kept for the master; an inbound read completes at the host, a posted write does not (R398). -/
def respond (q : Req) (r : Reply) (s : State) : State :=
  let s := { s with replies := s.replies.set q.master r }
  if q.master.val = 11 ∧ q.isRead then emit (.completion (completion r.code) r.data) s else s

/-- Target block of an address, as the other party of a shadowed event (R482). -/
def addrBlk (s : State) (a : Nat) : Option Blk :=
  if 0x10000000 ≤ a ∧ a < 0x1C000000 then blkAt (a / 0x1000000 % 256 - 16) (a / 0x10000 % 256) else targetBlk s a

/-- A write of the host that got an error response is reported through AER (R398). -/
def hostWriteError (q : Req) (c : Nat) (s : State) : State :=
  if q.master.val = 11 ∧ !q.isRead ∧ c ≠ 0 then reportFrom (addrBlk s q.addr.toNat) .hstPcie 1 s else s

/-- What stops a request at one on-chip address: a response, a wait, or nothing (R125, R136, R138, R156, R424, R481, R494). -/
def onChipStop (m a : Nat) (s : State) : Option (Except HoldWhy Nat) :=
  let blk := (arrOf (inCrew a) (bankOf s a).1).1
  let d := memDom a
  if quietRefused m a s || inTest s a then none
  else if s.flt.resets.contains blk then some (.error (.block blk))
  else if domState s d ≠ 0 then
    if domForce s d = 2 ∨ domState s d = 5 then some (.ok rWakeFail) else some (.error (.domain d))
  else if inCrew a ∧ ownCheck s m (crewBank a).1 = .waits then some (.error (.handover (crewBank a).1))
  else none

/-- Whether a request is an atomic operation that its memory refuses whatever its state (R141). -/
def badAtomic (q : Req) : Bool :=
  match q.op with
  | .add n _ | .swap n _ => !inCrew q.addr.toNat || !sizeOk q.addr.toNat n
  | _ => false

/-- What stops a request to Course or Crew memory, if anything: the first stop over its parts. -/
def chipStop (h : Held) (s : State) : Option (Except HoldWhy Nat) :=
  if badAtomic h.req then none
  else (probes s h.req.addr.toNat h.req.size).findSome? (fun x => onChipStop h.req.master.val x s)

/-- A request to Course or Crew memory that nothing stops is performed: state and response. -/
def chipPerform (h : Held) (s : State) : State × Reply :=
  let w : Way := ⟨wakeGroup, handoverDone⟩
  let q := h.req
  let m := q.master.val
  let a := q.addr.toNat
  match q.op with
  | .read n => let g := chipRead w m accRead a n s; (g.st, ⟨g.code, g.data⟩)
  | .write d =>
    let det := h.det && rangeIn 0 courseSize a d.length && a % 8 == 0 && d.length % 8 == 0
    let (s, c) := if det then detWrite w m a d s else chipWrite w m a d s
    (s, ⟨c, []⟩)
  | .add n _ | .swap n _ => let (s, c, old) := chipAtomic w m a n q.op.atomic s; (s, ⟨c, leBytes n old⟩)

/-! ### Requests that wait at their targets (R125, R134, R138, R392, R394) -/

/-- The target of an address, by number (R391). -/
def targetOf (s : State) (a : Nat) : Nat :=
  if inCourse a then 0 else if inCrew a then 1 + (crewBank a).1 else if inDdr s a then 65
  else if 0x10000000 ≤ a ∧ a < 0x1C000000 then 66 else if rangeIn romBase romSize a 1 then 67
  else if 0x20000000 ≤ a ∧ a < 0x30000000 then 68 else if rangeIn pcieBase pcieSize a 1 then 69 else 70

/-- Whether one of some waiting requests is of the same master and ID, to the same target (R394). -/
def behind (s : State) (l : List Held) (q : Req) : Bool :=
  l.any (fun h => h.req.master = q.master && h.req.tag = q.tag && targetOf s h.req.addr.toNat = targetOf s q.addr.toNat)

/-- Whether a waiting request has its turn: none that arrived before it is of its ID and target (R394). -/
def hasTurn (s : State) (h : Held) : Bool := !behind s (s.held.takeWhile (· ≠ h)) h.req

/-- A request waits for a domain: it wakes it, and at a memory group it counts once (R125, R134, R424). -/
def waitsFor (h : Held) (why : HoldWhy) (s : State) : State :=
  match why with
  | .domain d =>
    startWake d (if !h.counted && (inCourse h.req.addr.toNat || inCrew h.req.addr.toNat) then countWakeWait h.req.addr.toNat s else s)
  | _ => s

/-- A request that waits for a reason. -/
def Held.for (h : Held) (why : HoldWhy) : Held :=
  { h with why := why, counted := h.counted || match why with | .domain _ => true | _ => false }

/-- A request begins to wait, behind those that wait already. -/
def hold (h : Held) (why : HoldWhy) (s : State) : State := waitsFor h why { s with held := s.held ++ [h.for why] }

/-- A waiting request keeps its place, its QoS and its age, and waits for another reason. -/
def waitOn (h : Held) (why : HoldWhy) (s : State) : State :=
  waitsFor h why { s with held := s.held.modify (s.held.idxOf h) (·.for why) }

/-- A response of IN_TEST to a request that a block under test receives is counted (R494). -/
def countInTest (q : Req) (c : Nat) (s : State) : State :=
  let a := q.addr.toNat
  if c = rInTest ∧ ((0x10000000 ≤ a ∧ a < 0x1C000000) ∨ pcieBase ≤ a) then s.count (F32 .pwrErg 0x014) 1 else s

/-- What the targets do with a request: what stops it, or what it does where nothing does. -/
structure Target where
  stop : Held → State → Option (Except HoldWhy Nat)
  perform : Held → State → State × Reply

/-- A request that has its turn at its target is performed and answered, or waits for what stops it (R394). -/
def turnOf (p : Target) (h : Held) (s : State) : State :=
  match p.stop h s with
  | some (.error why) => hold h why s
  | some (.ok c) => respond h.req (emptyReply h.req c) (hostWriteError h.req c (countInTest h.req c s))
  | none =>
    let (s, r) := p.perform h s
    respond h.req r (hostWriteError h.req r.code s)

/-- A waiting request that has its turn: it goes, or keeps its place. -/
def heldGoes (p : Target) (h : Held) (s : State) : State :=
  match p.stop h s with
  | some (.error why) => waitOn h why s
  | _ => turnOf p h { s with held := s.held.erase h }

/-- Whether a waiting request may go once a reason is over: it has its turn, and nothing stops it as it did (R394). -/
def mayGo (p : Target) (why : HoldWhy) (s : State) (h : Held) : Bool :=
  (h.why = why || h.why = .order) && hasTurn s h
  && match p.stop h s with
    | some (.error w) => w ≠ h.why
    | _ => true

/-- Insert a waiting request by effective QoS, behind those that have waited longer (R392). -/
def byQos (h : Held) : List Held → List Held
  | [] => [h]
  | x :: l => if x.qos < h.qos then h :: x :: l else x :: byQos h l

/-- The next of the requests that may go: the first to arrive at a woken group (R125), that of the highest effective QoS
elsewhere (R392). -/
def nextOf (why : HoldWhy) (l : List Held) : Option Held :=
  match why with
  | .domain _ => l.head?
  | _ => (l.foldl (fun l h => byQos h l) []).head?

/-- The requests that waited for a reason, and those that follow them, are served one after the other. -/
def serveBy (p : Target) (why : HoldWhy) : Nat → State → State
  | 0, s => s
  | n + 1, s =>
    match nextOf why (s.held.filter (mayGo p why s)) with
    | some h => serveBy p why n (heldGoes p h s)
    | none => s

/-- Course and Crew memory as targets. -/
def chipTarget : Target := ⟨chipStop, chipPerform⟩

/-- An access made inside a step of an agent wakes a sleeping group and finds it ready, behind the requests that it
held (R125, R423, R424). -/
def wakeFor (a : Nat) (s : State) : State × Bool :=
  if domState s (memDom a) = 0 then (s, true)
  else
    let (s, ok) := wakeGroup a s
    (if ok then serveBy chipTarget (.domain (memDom a)) s.held.length s else s, ok)

/-- An access of the new owner inside a step of an agent finds the handover complete, behind the requests that it held
(R138). -/
def handoverFor (bank : Nat) (s : State) : State :=
  let s := handoverDone bank s
  serveBy chipTarget (.handover bank) s.held.length s

/-- The way of an access made inside a step of an agent. -/
def inStep : Way := ⟨wakeFor, handoverFor⟩

def admitRange : Nat → Bool → Nat → Nat → State → State × Nat := admitRangeBy inStep

/-! ### The targets off the memories (R4) -/

def flashBase (cs : Nat) : Nat := if cs = 0 then 0x20000000 else 0x28000000
def flashSize (s : State) (cs : Nat) : Nat := if cs = 0 then s.flashSize0 else s.flashSize1

/-- A byte of a flash device; an erased byte is 0xFF. -/
def flashByte (s : State) (cs a : Nat) : Byte := ngetD (if cs = 0 then s.flash0 else s.flash1) a 0xFF

/-- The selected flash device's contents replaced. -/
def setFlash (cs : Nat) (m : NMap Byte) (s : State) : State := if cs = 0 then { s with flash0 := m } else { s with flash1 := m }
def flashMap (s : State) (cs : Nat) : NMap Byte := if cs = 0 then s.flash0 else s.flash1

/-- Program bytes of a flash device: a bit can only go from 1 to 0. -/
def programFlash (cs a : Nat) (bs : List Byte) (s : State) : State :=
  let l := (List.range bs.length).zip bs
  setFlash cs (l.foldl (fun m p =>
    let v := ngetD m (a + p.1) 0xFF &&& p.2
    if v = 0xFF then ndel (a + p.1) m else nput (a + p.1) v m) (flashMap s cs)) s

/-- What a JESD251 command does to a device's contents (notes/assumptions/26.md): program of a page, erase of 4, 32 or
64 KiB, erase of the whole device. -/
def flashEffect (c : XspiCmd) (s : State) : State :=
  let erase (n : Nat) (s : State) : State := setFlash c.cs (ndelRange (c.addr / n * n) n (flashMap s c.cs)) s
  if c.opcode = 0x12 ∨ c.opcode = 0x02 then programFlash c.cs c.addr c.data s
  else if c.opcode = 0x21 ∨ c.opcode = 0x20 then erase 0x1000 s
  else if c.opcode = 0x5C ∨ c.opcode = 0x52 then erase 0x8000 s
  else if c.opcode = 0xDC ∨ c.opcode = 0xD8 then erase 0x10000 s
  else if c.opcode = 0x60 ∨ c.opcode = 0xC7 then setFlash c.cs [] s
  else s

/-- Whether an xSPI command programs or erases (R404, notes/assumptions/26.md). -/
def XspiCmd.writes (c : XspiCmd) : Bool :=
  [0x02, 0x12, 0x20, 0x21, 0x52, 0x5C, 0xD8, 0xDC, 0x60, 0xC7].contains c.opcode

/-- CUSTODY has a record to write at the flash (R404, R471). -/
def custodyReady (s : State) : Bool := !s.cus.queue.isEmpty || !s.cus.sys.isEmpty || !s.cus.own.isEmpty

/-- Whether an xSPI command erases (notes/assumptions/26.md). -/
def XspiCmd.erases (c : XspiCmd) : Bool := [0x20, 0x21, 0x52, 0x5C, 0xD8, 0xDC, 0x60, 0xC7].contains c.opcode

/-- A program or erase that has gone to a chip select and not ended, of a command. -/
def programming (s : State) (cs : Nat) : Option XspiCmd := s.host.xspi.filter (fun c => c.started && c.writes && c.cs == cs)

/-- Chip select and first offset of the vault region (R464). -/
def vaultHome (s : State) : Nat × Nat := if s.flashSize1 ≠ 0 then (1, 0) else (0, 0x8000000)

/-- A byte as the record that custody is programming leaves it. -/
def Flying.byte (f : Flying) (a : Nat) (b : Byte) : Byte :=
  if f.at_ ≤ a ∧ a < f.at_ + max f.erased f.data.length then
    (if a < f.at_ + f.erased then 0xFF else b) &&& f.data.getD (a - f.at_) 0xFF
  else b

/-- A byte of the read window: a read during a program or erase of its chip select waits for the end of it (R404), which in an agent's
own step comes at once, and verifies (notes/assumptions/70.md). -/
def windowByte (s : State) (cs a : Nat) : Byte :=
  let b := match programming s cs with
    | some c => flashByte (flashEffect c s) cs a
    | none => flashByte s cs a
  if (vaultHome s).1 = cs then s.cus.flying.elim b (fun f => f.byte a b) else b

/-- Whether the PCIe link is up (R527). -/
def pcieUp (s : State) : Bool := s.rd (F .hstPcie 4 0 0) = 1

/-- Host bus address of an outbound address (R399). -/
def hostAddr (s : State) (a : Nat) : Nat := (s.rd (F64 .hstPcie 8) + (a - pcieBase)) % 2 ^ 64

/-- An access to DDR5 makes its controller and PHY run (R421). -/
def ddrRuns (s : State) : State := activity 113 (activity 112 s)

/-- The domains that a target off the memories needs, crossbar apart (R420). -/
def portDomains (s : State) (a : Nat) : List Nat :=
  if inDdr s a then [112, 113] else if rangeIn pcieBase pcieSize a 1 then [111]
  else if 0x20000000 ≤ a ∧ a < 0x30000000 then [117] else []

/-- Whether such a domain has failed to wake (R424). -/
def portFailed (s : State) (a : Nat) : Bool := (portDomains s a).any (fun d => domState s d == 5)

/-- A read of a memory, the boot ROM, the xSPI window or the host by an agent inside its own step;
register space is the bus's (Bus.lean). -/
def memRead (m access : Nat) (a n : Nat) (s : State) : Got :=
  let fail (s : State) (c : Nat) : Got := ⟨s, c, List.replicate n 0, a⟩
  if rangeIn 0 courseSize a n || rangeIn crewBase crewSize a n then chipRead inStep m access a n s else
  let s := forAll (portDomains s a) activity s
  if portFailed s a then fail s rWakeFail
  else if rangeIn ddrBase (ddrSize s) a n then
    let (s, d, u) := readDdr m access a n s
    match u with
    | none => ⟨s, 0, d, a⟩
    | some w => ⟨s, rUe, List.replicate n 0, w⟩
  else if rangeIn romBase romSize a n then
    ⟨s, 0, (List.range n).map (fun i => Config.bootRomByte (a - romBase + i)), a⟩
  else if rangeIn (flashBase 0) s.flashSize0 a n then
    ⟨s, 0, (List.range n).map (fun i => windowByte s 0 (a - flashBase 0 + i)), a⟩
  else if rangeIn (flashBase 1) s.flashSize1 a n then
    ⟨s, 0, (List.range n).map (fun i => windowByte s 1 (a - flashBase 1 + i)), a⟩
  else if rangeIn pcieBase pcieSize a n then
    if s.flt.underTest.contains .hstPcie then fail (s.count (F32 .pwrErg 0x014) 1) rInTest
    else if pcieUp s then
      let (k, s) := s.fresh
      match Config.hostAnswer k with
      | .data => ⟨s, 0, (List.range n).map (fun i => Config.hostByte k (hostAddr s a + i)), a⟩
      | .unsupported => fail s rPcieUr
      | .abort => fail s rPcieCa
      | .silent => fail s rPcieTimeout
    else fail s rPcieDown
  else
    let (s, c) := decodeError m false a s
    fail s c

/-- A write of a memory by an agent inside its own step: state and response code. -/
def memWrite (m : Nat) (a : Nat) (bs : List Byte) (s : State) : State × Nat :=
  let n := bs.length
  if rangeIn 0 courseSize a n || rangeIn crewBase crewSize a n then chipWrite inStep m a bs s else
  let s := forAll (portDomains s a) activity s
  if portFailed s a then (s, rWakeFail)
  else if rangeIn ddrBase (ddrSize s) a n then writeDdr m a bs s
  else if rangeIn romBase romSize a n || rangeIn (flashBase 0) s.flashSize0 a n || rangeIn (flashBase 1) s.flashSize1 a n then
    (s, rTarget)
  else if rangeIn pcieBase pcieSize a n then
    if s.flt.underTest.contains .hstPcie then (s.count (F32 .pwrErg 0x014) 1, rInTest)
    else if pcieUp s then (emit (.hostWrite (hostAddr s a) bs) s, rOkay) else (s, rPcieDown)
  else decodeError m true a s

end Sys2Proof.Machine
end

