-- ==== Sys2Proof/Machine/Handles.lean ====
section
/-!
DEFINITION. The handle table of the Stakeboat (05, R160 to R175): checks of a handle, bindings, and the
creation and destruction of entries.
-/
namespace Sys2Proof.Machine

/-- KIND, GEN and INDEX of a handle (R160). -/
def hKind (h : Nat) : Nat := bits h 31 28
def hGen (h : Nat) : Nat := bits h 27 15
def hIndex (h : Nat) : Nat := bits h 14 0

/-- The handle of an entry. -/
def handleOf (kind gen idx : Nat) : Nat := kind * 2 ^ 28 + gen * 2 ^ 15 + idx

/-- Kinds of R161. -/
def kRegion : Nat := 1
def kRing : Nat := 2
def kChannel : Nat := 3
def kClass : Nat := 4
def kWindow : Nat := 5
def kTimer : Nat := 6
def kSettings : Nat := 7
def kFilter : Nat := 8
def kVector : Nat := 9

/-- Codes of R175. -/
def cOk : Nat := 0
def cKindReserved : Nat := 1
def cFieldReserved : Nat := 2
def cTableFull : Nat := 3
def cRingFull : Nat := 4
def cNull : Nat := 5
def cStale : Nat := 6
def cKind : Nat := 7
def cInUse : Nat := 8
def cRegionTarget : Nat := 9
def cPolicy : Nat := 10
def cIndexBusy : Nat := 11

/-- An entry that nothing has used: FREE with GEN 0 (R172). -/
def freshEntry : Entry := ⟨0, 0, 0, 0, []⟩

/-- The entry at an index. -/
def entryAt (s : State) (i : Nat) : Entry := ngetD s.stk.table i freshEntry

/-- Replace the entry at an index. -/
def setEntry (i : Nat) (e : Entry) (s : State) : State := { s with stk := { s.stk with table := nput i e s.stk.table } }

/-- Word j (1 to 7) of an entry. -/
def Entry.word (e : Entry) (j : Nat) : Nat := e.words.getD (j - 1) 0

/-- Replace word j (1 to 7) of an entry. -/
def Entry.withWord (e : Entry) (j v : Nat) : Entry := { e with words := e.words.set (j - 1) v }

/-- The check of a handle against a kind: 0, or the code of its first failure (R162; reserved kinds, R161). -/
def checkHandle (s : State) (kind h : Nat) : Nat :=
  if h = 0 then cNull
  else if hKind h ≠ kind ∨ hKind h = 0 ∨ 10 ≤ hKind h then cKind
  else
    let e := entryAt s (hIndex h)
    if e.st ≠ 1 ∨ e.gen ≠ hGen h ∨ e.kind ≠ hKind h then cStale else cOk

/-- An uncorrectable error in an entry retires it and raises TABLE_UE (R171). -/
def tableUe (i : Nat) (s : State) : State :=
  report .movStk 0 (setEntry i { entryAt s i with st := 2 } s)

/-- A check whose entry is met with an uncorrectable error first (R171). -/
def ueHandle (ue : Bool) (h : Nat) (s : State) : State := if ue ∧ h ≠ 0 then tableUe (hIndex h) s else s

/-- The entry a valid handle names. -/
def entryOf (s : State) (h : Nat) : Entry := entryAt s (hIndex h)

/-- One more binding of a live handle (R168). -/
def bindH (h : Nat) (s : State) : State :=
  if checkHandle s (hKind h) h = 0 then
    let e := entryOf s h
    setEntry (hIndex h) { e with binds := e.binds + 1 } s
  else s

/-- One binding less of a live handle (R168). -/
def unbindH (h : Nat) (s : State) : State :=
  if checkHandle s (hKind h) h = 0 then
    let e := entryOf s h
    setEntry (hIndex h) { e with binds := e.binds - 1 } s
  else s

/-- Whether n more bindings of a handle would pass 4,095 (R168). -/
def bindsFull (s : State) (h n : Nat) : Bool := decide ((entryOf s h).binds + n > 4095)

/-! ### Regions -/

/-- The region of an entry's words. -/
def regionOf (e : Entry) : Region :=
  ⟨e.word 1 + bits (e.word 2) 11 0 * 2 ^ 32, e.word 3 + bits (e.word 4) 7 0 * 2 ^ 32, bit (e.word 5) 0, bit (e.word 5) 1⟩

/-- The region a handle names, or the code of its failed check. -/
def regionAt (s : State) (h : Nat) : Except Nat Region :=
  let c := checkHandle s kRegion h
  if c = 0 then .ok (regionOf (entryOf s h)) else .error c

/-- Whether a range lies wholly in a target a region may cover, the whole of it in the map of R4 (R166). -/
def regionTarget (base len : Nat) (xspi : Bool) : Bool :=
  rangeIn 0 courseSize base len || rangeIn crewBase crewSize base len || rangeIn ddrBase ddrMax base len
  || rangeIn pcieBase pcieSize base len
  || (xspi && rangeIn (flashBase 0) xspiSize base len)

/-! ### Rings, as far as an entry needs them -/

/-- The block and address of a ring's registers (05, Registers). -/
def ringBlk (r : Nat) : Blk := .movRing (Fin.ofNat 4 (r / 2048))
def ringReg (r o : Nat) : Nat := (ringBlk r).base + 32 * (r % 2048) + o
def ringFld (r o hi lo : Nat) : Fld := ⟨ringReg r o, hi, lo⟩

/-- The ring number a ring handle names. -/
def ringNo (s : State) (h : Nat) : Nat := bits ((entryOf s h).word 1) 12 0

/-- POLICY of the ring a ring handle names: 0 BLOCK, 1 DROP_NEW, 2 DROP_OLD (R182). -/
def ringPolicy (s : State) (h : Nat) : Nat := bits ((entryOf s h).word 4) 7 6

/-! ### CREATE (R165 to R169) -/

/-- The lowest key from i that is not in use: not listed, or listed FREE. -/
def lowestFree : Nat → NMap Entry → Nat
  | i, [] => i
  | i, (k, e) :: m => if k < i then lowestFree i m else if i < k then i else if e.st = 0 then i else lowestFree (i + 1) m

/-- The lowest ring number not in use. -/
def lowestRing : Nat → NMap Ring → Nat
  | i, [] => i
  | i, (k, _) :: m => if k < i then lowestRing i m else if i < k then i else lowestRing (i + 1) m

/-- The words of an entry as CREATE makes them from the staging words (R165; 16, R470). -/
def createWords (kind ringNo : Nat) (w : List Nat) : List Nat :=
  let g (j : Nat) : Nat := w.getD (j - 1) 0
  if kind = kRing then [ringNo, g 2, g 3, g 4, g 5, g 6, 0]
  else if kind = kChannel then [bits (g 1) 8 0, g 2, g 3, 0xFFFFFFFF, 0, 0, 0]
  else if kind = kSettings then [g 1, g 2, g 3, g 4, g 5, 0xFF, 0]
  else w

/-- Whether the reserved bits of a kind's words are 0 and its fields legal (R165, R167; 11, R353, R365; 12, R379; 13, R399; 16, R470). -/
def fieldsOk (s : State) (kind : Nat) (w : List Nat) : Bool :=
  let g (j : Nat) : Nat := w.getD (j - 1) 0
  let live (k : Nat) (sel : Entry → Nat) (v : Nat) : Bool :=
    s.stk.table.any (fun p => p.2.st == 1 && p.2.kind == k && sel p.2 == v)
  if kind = kRegion then g 2 < 2 ^ 12 && g 4 < 2 ^ 8 && g 5 < 4 && g 6 == 0 && g 7 == 0
  else if kind = kRing then
    g 1 < 2 ^ 13 && bits (g 2) 5 0 == 0 && g 3 < 2 ^ 12 && bits (g 4) 5 5 == 0 && bits (g 5) 29 4 == 0 && g 7 == 0
    && within 6 24 (bits (g 4) 4 0) && bits (g 4) 7 6 != 3
    && bits (g 4) 11 8 ≤ 7 && bits (g 5) 31 30 ≤ 1
    && (bits (g 4) 11 8 == 0 || bits (g 5) 31 30 == 1 || bits (g 5) 3 2 != 0)
    && (bits (g 5) 31 30 == 1 || g 6 == 0)
  else if kind = kChannel then g 1 < 2 ^ 10 && bits (g 1) 7 4 != 15 && g 6 < 2 ^ 8
  else if kind = kClass then g 1 < 2 ^ 8 && g 3 == 0 && g 4 == 0 && g 5 == 0 && g 6 == 0 && g 7 == 0
  else if kind = kWindow then
    g 1 < 2 ^ 14 && (List.range 6).all (fun j => g (j + 2) == 0) && !live kWindow (fun e => bits (e.word 1) 13 0) (g 1)
  else if kind = kTimer then
    let per := g 4 + g 5 * 2 ^ 32
    g 7 < 2 && (per == 0 || 65536000 ≤ per)
  else if kind = kSettings then g 1 < 64 && g 4 ≤ 4096 && g 6 < 256
  else if kind = kFilter then
    g 1 < 2048 && bits (g 3) 29 16 == 0 && g 5 < 4 && g 6 == 0 && g 7 == 0 && bits (g 3) 15 12 != 0
    && (bit (g 3) 31 || bits (g 2) 31 16 == 0x88B8 || bits (g 2) 31 16 == 0x88B9 || bits (g 2) 31 16 == 0x88BA)
    && !live kFilter (fun e => bits (e.word 1) 10 0) (g 1)
  else g 1 < 2048 && (List.range 5).all (fun j => g (j + 3) == 0)

/-- The handles that an entry names, with the kind each must have, whether 0 is allowed, and whether BLOCK is refused. Word 6 of a
ring whose TARGET is HOST may be 0 where MODE is 0, and answers HANDLE_NULL otherwise: a DESIGN CHOICE, since R167 does not say
(notes/assumptions/67.md). -/
def namedHandles (kind : Nat) (w : List Nat) : List (Nat × Nat × Bool × Bool) :=
  let g (j : Nat) : Nat := w.getD (j - 1) 0
  if kind = kRing then [(kVector, g 6, bits (g 5) 31 30 != 1 || bits (g 4) 11 8 == 0, false)]
  else if kind = kChannel then [(kRing, g 2, false, false), (kRing, g 3, false, false)]
  else if kind = kClass then [(kRing, g 2, false, false)]
  else if kind = kTimer then [(kRing, g 6, false, true)]
  else if kind = kSettings then [(kRing, g 5, true, true)]
  else if kind = kFilter then [(kRing, g 4, bit (g 5) 0, true)]
  else if kind = kVector then [(kRing, g 2, true, true)]
  else []

/-- The first failure among the handles that an entry names (R162, R182). -/
def namedCode (s : State) (l : List (Nat × Nat × Bool × Bool)) : Nat :=
  (l.findSome? fun (k, h, zero, noBlock) =>
    if h = 0 ∧ zero then none
    else
      let c := checkHandle s k h
      if c ≠ 0 then some c else if noBlock ∧ ringPolicy s h = 0 then some cPolicy else none).getD cOk

/-- The handles that a CREATE binds: those its entry names, those of a channel once more for its enablement (R168). -/
def bindsMade (kind : Nat) (w : List Nat) : List (Nat × Nat × Bool × Bool) :=
  namedHandles kind w ++ (if kind = kChannel ∧ bit (w.getD 0 0) 8 then namedHandles kind w else [])

/-- Whether the bindings that an entry makes stay within 4,095 (R168). -/
def namedFits (s : State) (l : List (Nat × Nat × Bool × Bool)) : Bool :=
  l.all fun p => p.2.1 == 0 || !bindsFull s p.2.1 ((l.filter (fun q => q.2.1 == p.2.1)).length)

/-- The target of a region or ring entry, checked (R166, R167). -/
def targetOk (kind : Nat) (w : List Nat) : Bool :=
  let e : Entry := ⟨kind, 0, 1, 0, w⟩
  if kind = kRegion then
    let r := regionOf e
    r.len != 0 && (r.rd || r.wr) && regionTarget r.base r.len (!r.wr)
  else if kind = kRing then
    regionTarget (bits (e.word 2) 31 6 * 64 + bits (e.word 3) 11 0 * 2 ^ 32) (2 ^ bits (e.word 4) 4 0) false
  else true

/-- The code of a CREATE: 0 when it succeeds. The order of the checks is the model's (notes/assumptions/11.md). -/
def createCode (s : State) (c : StkCmd) : Nat :=
  let kind := bits c.arg 31 28
  if kind = 0 ∨ kind ≥ 10 then cKindReserved
  else if bits c.arg 27 0 ≠ 0 ∨ !fieldsOk s kind c.words then cFieldReserved
  else if !targetOk kind c.words then cRegionTarget
  else
    let nc := namedCode s (namedHandles kind c.words)
    if nc ≠ 0 then nc
    else if !namedFits s (bindsMade kind c.words) then cInUse
    else if kind = kRing ∧ lowestRing 0 s.stk.rings ≥ 8192 then cRingFull
    else if c.atIdx then (if (entryAt s c.index).st = 0 then cOk else cIndexBusy)
    else if lowestFree 0 s.stk.table ≥ 32768 then cTableFull
    else cOk

/-- Start a ring's registers and state at its CREATE (R167). -/
def startRing (r idx : Nat) (w : List Nat) (s : State) : State :=
  let g (j : Nat) : Nat := w.getD (j - 1) 0
  let s := s.setReg (ringReg r 0) (bits (g 2) 31 6 * 64 + bits (g 3) 11 0 * 2 ^ 32)
  let s := s.setReg (ringReg r 8) (setBit (g 4) 5 true)
  let s := s.setReg (ringReg r 0xC) (g 5)
  let s := forAll [0x10, 0x14, 0x18, 0x1C] (fun o s => s.setReg (ringReg r o) 0) s
  { s with stk := { s.stk with rings := nput r ⟨idx, 0, [], 0, none⟩ s.stk.rings } }

/-- Serve a channel from its engine (R195). -/
def serveChannel (h : Nat) (s : State) : State :=
  let e := Fin.ofNat 16 (bits ((entryOf s h).word 1) 3 0)
  let g := s.stk.engines[e]
  { s with stk := { s.stk with engines := s.stk.engines.set e { g with chans := g.chans ++ [h] } } }

/-- The bindings that an enabled channel makes: itself and its rings (R168, R195). -/
def channelBinds (s : State) (h : Nat) : List Nat := [h, (entryOf s h).word 2, (entryOf s h).word 3]

/-- CREATE: its code, the new handle and the state (R169). -/
def createEntry (c : StkCmd) (s : State) : State × Nat × Nat :=
  let code := createCode s c
  if code ≠ 0 then (s, 0, code)
  else
    let kind := bits c.arg 31 28
    let idx := if c.atIdx then c.index else lowestFree 0 s.stk.table
    let r := lowestRing 0 s.stk.rings
    let e := entryAt s idx
    let w := createWords kind r c.words
    let s := setEntry idx ⟨kind, e.gen, 1, 0, w⟩ s
    let s := forAll ((namedHandles kind c.words).map (fun p => p.2.1)) bindH s
    let s := if kind = kRing then startRing r idx w s else s
    let h := handleOf kind e.gen idx
    let s := if kind = kChannel ∧ bit (w.getD 0 0) 8 then forAll (channelBinds s h) bindH (serveChannel h s) else s
    (s, h, cOk)

/-! ### DESTROY and RECLAIM (R168, R170) -/

/-- The handles that an entry names, released at its DESTROY. -/
def releaseNamed (e : Entry) (s : State) : State :=
  forAll ((namedHandles e.kind e.words).map (fun p => p.2.1)) unbindH s

/-- A ring ends: its LIVE bit clears and its records are forgotten. -/
def endRing (r : Nat) (s : State) : State :=
  let s := s.wr (ringFld r 8 5 5) 0
  { s with stk := { s.stk with rings := ndel r s.stk.rings } }

/-- The entry after a DESTROY: FREE with the next generation, or RETIRED after the last (R170). -/
def destroyed (e : Entry) : Entry :=
  if e.gen = 8191 then ⟨0, e.gen, 2, 0, []⟩ else ⟨0, e.gen + 1, 0, 0, []⟩

/-- The code of a DESTROY (R162, R168). -/
def destroyCode (s : State) (h : Nat) : Nat :=
  let c := checkHandle s (hKind h) h
  if c ≠ 0 then c else if (entryOf s h).binds ≠ 0 then cInUse else cOk

/-- DESTROY of a valid unbound handle (R170). -/
def destroyEntry (h : Nat) (s : State) : State :=
  let e := entryOf s h
  let s := releaseNamed e s
  let s := if e.kind = kRing then endRing (bits (e.word 1) 12 0) s else s
  setEntry (hIndex h) (destroyed e) s

/-- Words 0 to 7 of an entry, as QUERY returns them (R164, R174). -/
def entryWords (e : Entry) : List Nat :=
  (e.kind * 2 ^ 28 + e.gen * 2 ^ 15 + e.st * 2 ^ 12 + e.binds) :: (List.range 7).map (fun j => e.word (j + 1))

/-- Entries that are FREE, and free rings, as MOV_STK_FREE reads. -/
def freeEntries (s : State) : Nat := 32768 - (s.stk.table.filter (fun p => p.2.st ≠ 0)).length
def freeRings (s : State) : Nat := 8192 - s.stk.rings.length

/-! ### Register accesses that have rows of their own (R392, R481, R494) -/

/-- QOS of the channel that a Mover engine serves (R188, R392); that a transaction of ID i on the bus is of engine
i mod 16 is a DESIGN CHOICE (notes/assumptions/58.md). -/
def engineQos (tag : BitVec 6) (s : State) : Option Nat :=
  match s.stk.engines[Fin.ofNat 16 tag.toNat] with
  | e => e.cur.map (fun c => bits ((entryOf s c).word 1) 7 4)

/-- The effective QoS that a transaction starts with (R392). -/
def startQos (s : State) (q : Req) : Nat :=
  if q.master.val = 9 then 15
  else if q.master.val = 8 then (engineQos q.tag s).getD (s.rd (F .xbrCtl 0x20 3 0))
  else s.rd (F .xbrCtl (4 * q.master.val) 3 0)

/-- A block takes register accesses: it is neither under test nor in block reset. -/
def blkOpen (s : State) (b : Blk) : Bool := !s.flt.underTest.contains b && !s.flt.resets.contains b

/-- A command that is a register access of a master reaches its block, and has its effect there; a block under test answers IN_TEST
(R494), and one in block reset holds the access until the reset ends (R481). -/
def reaches (m : Master) (b : Blk) (off : Nat) (op : BusOp) (f : State → State) (s : State) : State :=
  let q : Req := ⟨m, 0, BitVec.ofNat 44 (b.base + off), op⟩
  if s.flt.underTest.contains b then respond q (emptyReply q rInTest) (countInTest q rInTest s)
  else if s.flt.resets.contains b then hold ⟨q, false, .data, .order, startQos s q, false⟩ (.block b) s
  else f s

/-- A 32-bit write as a bus operation. -/
def write32 (v : Nat) : BusOp := .write (leBytes 4 v)

end Sys2Proof.Machine
end

