-- ==== Sys2Proof/Machine/RegWrite.lean ====
section
/-!
DEFINITION. A write of a register by the access types of its fields (R5, R7, R8), without any action that a
chapter gives the register beside it.
-/
namespace Sys2Proof.Machine

/-- RWL fields take writes: before the lock at the end of Launch, and in DEVELOP (R5). -/
def rwlOpen (s : State) : Bool := !s.locked || s.lc == lcDevelop

/-- A register's value after a write of the bits of a mask, and whether the write sets CONFIG_ERR (R5, R8). -/
def writeField (open_ : Bool) (mask v : Nat) (acc : Nat × Bool) (f : FieldRow) : Nat × Bool :=
  let old := bits acc.1 f.hi f.lo
  let m := bits mask f.hi f.lo
  if m = 0 then acc
  else
    let new := (old &&& (2 ^ (f.hi + 1 - f.lo) - 1 - m)) ||| (bits v f.hi f.lo &&& m)
    let put (x : Nat) : Nat := putBits acc.1 f.hi f.lo x
    match f.acc with
    | .rw => if f.legal new then (put new, acc.2) else (acc.1, true)
    | .rwl =>
      if open_ then (if f.legal new then (put new, acc.2) else (acc.1, true))
      else (acc.1, acc.2 || new ≠ old)
    | .w1c => (put (old - (old &&& (bits v f.hi f.lo &&& m))), acc.2)
    | .w1cAll => (if bits v f.hi f.lo &&& m = 0 then acc.1 else put 0, acc.2)
    | .ro | .wo => acc

/-- The block whose CONFIG_ERR a write of an address concerns (R477). -/
def errBlk (b : Blk) (off : Nat) : Blk :=
  match b with
  | .movStk => if 0xF100 ≤ off ∧ off < 0xF500 then .movRing (Fin.ofNat 4 ((off - 0xF100) / 0x100)) else b
  | _ => b

/-- Write the bits of a mask of the register at an address (R5 to R9). -/
def plainWrite (addr mask v : Nat) (s : State) : State :=
  match regAt addr with
  | none => s
  | some (b, row, a, _) =>
    let r := row.fields.foldl (writeField (rwlOpen s) mask v) (s.reg a, false)
    let s := s.setReg a r.1
    if r.2 then configErr (errBlk b (a % 0x10000)) (a % 0x10000) s else s

/-- A 32-bit write of the register at an offset of a block. -/
def plain32 (b : Blk) (off v : Nat) (s : State) : State := plainWrite (b.base + off) (2 ^ 32 - 1) v s

end Sys2Proof.Machine
end

