-- ==== Sys2Proof/Machine/Rings.lean ====
section
/-!
DEFINITION. Rings (05, R176 to R187, R525, R526): doorbells, records of hardware producers, overflow,
watermarks and notification.
-/
namespace Sys2Proof.Machine

/-! ### Merges -/

/-- A byte as a merge sees it. -/
def peekByte (s : State) (a : Nat) : Nat :=
  if inCourse a || inCrew a then
    let wa := a / 8 * 8
    (queuedWord s wa).getD (readValue s wa) / 256 ^ (a % 8) % 256
  else (memByte s a).toNat

/-! ### Time stamps -/

/-- A timebase value as the 96 bits of seconds, nanoseconds and fraction (R179), from units of 2^-16 ns. -/
def stamp96 (x : Nat) : Nat :=
  x % 65536 + (x / 65536 % 1000000000) * 2 ^ 16 + (x / 65536 / 1000000000 % 2 ^ 48) * 2 ^ 48

/-- The timebase in units of 2^-16 ns. -/
def now16 (s : State) : Nat := s.tb / 2 ^ 32

/-! ### Notification (R185 to R187) -/

/-- Number of occupied bytes (R176). -/
def occupancy (s : State) (r : Nat) : Nat := (s.reg (ringReg r 0x10) + 2 ^ 32 - s.reg (ringReg r 0x14)) % 2 ^ 32

/-- Size of a ring in bytes. -/
def ringSize (s : State) (r : Nat) : Nat := 2 ^ s.rd (ringFld r 8 4 0)

def ringLive (s : State) (r : Nat) : Bool := s.rd (ringFld r 8 5 5) = 1

/-- Address of the byte at an index (R176). -/
def ringAddr (s : State) (r x : Nat) : Nat := s.reg (ringReg r 0) + x % ringSize s r

/-- Thresholds of the watermarks in bytes (R185). -/
def hwmBytes (s : State) (r : Nat) : Nat := s.rd (ringFld r 8 31 22) * ringSize s r / 1024
def lwmBytes (s : State) (r : Nat) : Nat := s.rd (ringFld r 8 21 12) * ringSize s r / 1024

/-- Send the MSI-X message of a vector, or pend it while masked (R399). -/
def msix (v : Nat) (s : State) : State :=
  if (s.reg (Blk.base .hstPcie + 0x4000 + 16 * v + 0xC)).testBit 0 then
    s.orBit (F32 .hstPcie (0xC000 + 4 * (v / 32))) (v % 32)
  else emit (.msix v) s

/-- Deliver one notification to the ring's target (R187). -/
def notify (r : Nat) (s : State) : State :=
  match s.rd (ringFld r 0xC 31 30) with
  | 0 =>
    let c := s.rd (ringFld r 0xC 1 0)
    s.orBit (F32 .movStk (0x1000 + 0x400 * c + 4 * (r / 32))) (r % 32)
  | 1 =>
    let vh := (entryAt s (((nget r s.stk.rings).map Ring.entry).getD 0)).word 6
    if checkHandle s kVector vh = 0 then msix (bits ((entryOf s vh).word 1) 10 0) s else s
  | _ => s

/-- Whether the ring's MODE notifies on an event (R186). -/
def modeIn (s : State) (r : Nat) (l : List Nat) : Bool := l.contains (s.rd (ringFld r 8 11 8))

/-- The crossings of an occupancy that rises (R185). -/
def crossUp (r old : Nat) (s : State) : State :=
  if old < hwmBytes s r ∧ hwmBytes s r ≤ occupancy s r then
    let s := s.wr (ringFld r 0x1C 1 1) 1
    if modeIn s r [2, 3, 5, 6] then notify r s else s
  else s

/-- The crossings of an occupancy that falls (R185). -/
def crossDown (r old : Nat) (s : State) : State :=
  if lwmBytes s r < old ∧ occupancy s r ≤ lwmBytes s r then
    let s := s.wr (ringFld r 0x1C 0 0) 1
    if modeIn s r [4, 5, 6] then notify r s else s
  else s

/-- PROD advances over one record or to a doorbell's value: watermark and record notifications (R185, R186). -/
def advanceProd (r v : Nat) (s : State) : State :=
  let old := occupancy s r
  let s := s.setReg (ringReg r 0x10) (v % 2 ^ 32)
  let s := crossUp r old s
  let s := if modeIn s r [1, 3, 6] then notify r s else s
  if modeIn s r [7] ∧ old = 0 then notify r s else s

/-- CONS advances: the watermark crossing of the fall (R185). -/
def advanceCons (r v : Nat) (s : State) : State :=
  let old := occupancy s r
  crossDown r old (s.setReg (ringReg r 0x14) (v % 2 ^ 32))

/-! ### Software producers and consumers (R178, R184) -/

/-- CONFIG_ERR of the ring's block. -/
def ringConfigErr (r o : Nat) (s : State) : State := configErr (ringBlk r) (32 * (r % 2048) + o) s

/-- The doorbell (R178). A value that takes PROD back lowers the occupancy and is no advance (R185, R186). -/
def prodWrite (r v : Nat) (s : State) : State :=
  if !ringLive s r then ringConfigErr r 0x10 s
  else if (v + 2 ^ 32 - s.reg (ringReg r 0x14)) % 2 ^ 32 > ringSize s r then ringConfigErr r 0x10 s
  else if v = s.reg (ringReg r 0x10) then s
  else
    let old := occupancy s r
    let back := decide ((v + 2 ^ 32 - s.reg (ringReg r 0x14)) % 2 ^ 32 < old)
    let s := if back then crossDown r old (s.setReg (ringReg r 0x10) v) else advanceProd r v s
    match nget r s.stk.rings with
    | some g => { s with stk := { s.stk with rings := nput r { g with allocEnd := v } s.stk.rings } }
    | none => s

/-- A consumer's release of space (R178, R184): a value behind CONS is one that would pass PROD. -/
def consWrite (r v : Nat) (s : State) : State :=
  if !ringLive s r then ringConfigErr r 0x14 s
  else if (v + 2 ^ 32 - s.reg (ringReg r 0x14)) % 2 ^ 32 > occupancy s r then ringConfigErr r 0x14 s
  else advanceCons r v s

/-! ### Hardware producers (R177 to R183, R525, R526) -/

/-- Master ID with which a producer's records are written (R126, R391). -/
def producerMaster : Producer → Nat
  | .ingest _ => 9
  | .photo _ => 9
  | .timer => 9
  | .port _ => 10
  | .vector m => 4 + m.val
  | .mover _ => 8
  | .vault => 14
  | .host => 11

/-- What a producer does with a record whose ring handle fails its check (R525). -/
def staleOffer (p : Producer) (s : State) : State :=
  match p with
  | .ingest k => s.count (F32 (.ingLink k) 0x034) 1
  | .port n => s.count (F32 (.netPort n) (0x040 + 4 * 8)) 1
  | .photo j => s.count (F32 .timPf (0x108 + 16 * j.val)) 1
  | .vector _ => configErr .vecSched 0 s
  | .mover _ => configErr .movMvr 0 s
  | .timer => configErr .timReg 0 s
  | .vault => configErr .cusVlt 0 s
  | .host => configErr .hstPcie 0x018 s

/-- A record discarded at offer is counted by a producer that keeps a drop counter (12, R374, R378; 11, R348). -/
def dropCount (p : Producer) (s : State) : State :=
  match p with
  | .ingest _ | .port _ | .photo _ => staleOffer p s
  | _ => s

/-- Length and footprint of a record (R176). -/
def recLen (b : RecordBody) : Nat := 32 + b.payload.length
def footprint (n : Nat) : Nat := roundUp n 32

/-- The bytes of a record with its header, padded to its footprint (R176, R179). -/
def recBytes (b : RecordBody) (gap : Bool) (seq stamp : Nat) : List Byte :=
  let n := recLen b
  let w1 := bnat gap * 2 ^ 31 + bnat b.partialRec * 2 ^ 30 + bnat b.error * 2 ^ 29 + bnat b.last * 2 ^ 28
    + b.summary.toNat * 2 ^ 24 + b.type.toNat * 2 ^ 16 + n % 2 ^ 16
  leBytes 4 b.word0.toNat ++ leBytes 4 w1 ++ leBytes 12 stamp ++ leBytes 4 seq ++ leBytes 4 b.word6.toNat
    ++ leBytes 4 b.word7.toNat ++ b.payload ++ List.replicate (footprint n - n) 0

/-- Write bytes into a ring from an index, around its end: state and whether every write succeeded (R176). -/
def ringWrite (m r x : Nat) (bs : List Byte) (s : State) : State × Bool :=
  let first := min bs.length (ringSize s r - x % ringSize s r)
  let (s, c) := memWrite m (ringAddr s r x) (bs.take first) s
  if first < bs.length then
    let (s, d) := memWrite m (s.reg (ringReg r 0)) (bs.drop first) s
    (s, c = 0 && d = 0)
  else (s, c = 0)

/-- Set STAT.CORRUPT and raise RING_CORRUPT (R183, R526). -/
def ringCorrupt (r : Nat) (s : State) : State := report (ringBlk r) 0 (s.wr (ringFld r 0x1C 4 4) 1)

/-- Replace what a ring holds beside its registers. -/
def setRing (r : Nat) (g : Ring) (s : State) : State := { s with stk := { s.stk with rings := nput r g s.stk.rings } }

/-- Space that a ring has for a new allocation. -/
def ringSpace (s : State) (r : Nat) (g : Ring) : Nat :=
  ringSize s r - (g.allocEnd + 2 ^ 32 - s.reg (ringReg r 0x14)) % 2 ^ 32

/-- The records that DROP_OLD would remove from an index until a footprint fits: how many, where CONS then stands;
none when a word 1 cannot be read or is not a record's (R183). -/
def dropOldScan (m r foot : Nat) (g : Ring) : Nat → State → Nat → Nat → Option (State × Nat × Nat)
  | 0, _, _, _ => none
  | fuel + 1, s, cons, k =>
    if ringSize s r - (g.allocEnd + 2 ^ 32 - cons) % 2 ^ 32 ≥ foot then some (s, k, cons)
    else
      let occ := (s.reg (ringReg r 0x10) + 2 ^ 32 - cons) % 2 ^ 32
      let got := memRead m accRead (ringAddr s r (cons + 4)) 4 s
      let len := leNat got.data % 2 ^ 16
      if got.code ≠ 0 ∨ len < 32 ∨ footprint len > occ then none
      else dropOldScan m r foot g fuel got.st ((cons + footprint len) % 2 ^ 32) (k + 1)

/-- Give GAP to the oldest surviving record, if one is left: none when its word 1 is not a record's (R183). -/
def gapSurvivor (m r cons : Nat) (s : State) : Option (State × Bool) :=
  let occ := (s.reg (ringReg r 0x10) + 2 ^ 32 - cons) % 2 ^ 32
  if occ = 0 then some (s, true)
  else
    let got := memRead m accRead (ringAddr s r (cons + 4)) 4 s
    let w := leNat got.data
    if got.code ≠ 0 ∨ w % 2 ^ 16 < 32 ∨ footprint (w % 2 ^ 16) > occ then none
    else some ((memWrite m (ringAddr s r (cons + 4)) (leBytes 4 (setBit w 31 true)) got.st).1, false)

/-- Allocate a record's footprint and sequence number at offer (R177). -/
def allocate (r : Nat) (o : RecordOffer) (gap : Bool) (stamp : Nat) (s : State) : State :=
  match nget r s.stk.rings with
  | none => s
  | some g =>
    let seq := s.reg (ringReg r 0x18)
    let gap := gap || g.lost ≠ 0
    let bs := recBytes o.body gap seq stamp
    let s := s.setReg (ringReg r 0x18) ((seq + 1) % 2 ^ 32)
    let s := if g.lost ≠ 0 then s.wr (ringFld r 0x1C 31 16) (min g.lost 65535) else s
    setRing r { g with allocEnd := (g.allocEnd + bs.length) % 2 ^ 32, lost := 0,
                       recs := g.recs ++ [⟨g.allocEnd, bs, o.producer, false⟩] } s

/-- Discard a record at offer: it takes a sequence number, and the next one delivered carries GAP (R181, R182). -/
def discard (r : Nat) (o : RecordOffer) (s : State) : State :=
  match nget r s.stk.rings with
  | none => s
  | some g =>
    let s := s.setReg (ringReg r 0x18) ((s.reg (ringReg r 0x18) + 1) % 2 ^ 32)
    let s := s.wr (ringFld r 0x1C 2 2) 1
    dropCount o.producer (setRing r { g with lost := g.lost + 1 } s)

/-- The word 1 of a record's bytes with GAP set. -/
def withGap (bs : List Byte) : List Byte := bs.modify 7 (· ||| 0x80)

/-- A record offered under DROP_OLD without space (R182, R183): GAP goes to the record that directly follows those removed, the
oldest published one, else the oldest allocated one that is not yet written, else the new one (R181). -/
def offerDropOld (r : Nat) (o : RecordOffer) (g : Ring) (stamp : Nat) (s : State) : State :=
  let m := producerMaster o.producer
  let foot := footprint (recLen o.body)
  match dropOldScan m r foot g 524288 s (s.reg (ringReg r 0x14)) 0 with
  | none => ringCorrupt r (discard r o s)
  | some (s1, k, cons) =>
    match gapSurvivor m r cons s1 with
    | none => ringCorrupt r (discard r o s)
    | some (s, empty) =>
      let s := advanceCons r cons s
      let s := (s.wr (ringFld r 0x1C 2 2) 1).wr (ringFld r 0x1C 31 16) (min k 65535)
      let s := if empty then setRing r { g with recs := g.recs.modify 0 (fun x => { x with bytes := withGap x.bytes }) } s else s
      allocate r o (empty && g.recs.isEmpty) stamp s

/-- A hardware producer offers a record: allocated, discarded, or left to wait on a full BLOCK ring (R182, R525). -/
def offerRecord (o : RecordOffer) (stamp : Nat) (s : State) : State :=
  if checkHandle s kRing o.handle.toNat ≠ 0 then staleOffer o.producer s
  else
    let r := ringNo s o.handle.toNat
    let s := activity 100 s
    match nget r s.stk.rings with
    | none => staleOffer o.producer s
    | some g =>
      let foot := footprint (recLen o.body)
      if foot > ringSize s r then discard r o s
      else if foot ≤ ringSpace s r g then allocate r o false stamp s
      else match s.rd (ringFld r 8 7 6) with
        | 0 => { s with stk := { s.stk with waits := s.stk.waits ++ [⟨o, stamp, .other⟩] } }
        | 1 => discard r o s
        | _ => offerDropOld r o g stamp s

/-- The bytes of a record as they are written: those of the shells and of the Mover carry the time of the write (R76, R196). -/
def stamped (x : RingRec) (s : State) : List Byte :=
  if within 4 8 (producerMaster x.producer) then x.bytes.take 8 ++ leBytes 12 (stamp96 (now16 s)) ++ x.bytes.drop 20 else x.bytes

/-- Write an allocated record; an error response still counts it as written (R177, R526). -/
def writeRec (r : Nat) (x : RingRec) (s : State) : State :=
  let (s, ok) := ringWrite (producerMaster x.producer) r x.start (stamped x s) s
  let s := if ok then s else ringCorrupt r s
  match nget r s.stk.rings with
  | none => s
  | some g => setRing r { g with recs := g.recs.map fun y => if y.start = x.start then { y with written := true } else y } s

/-- PROD advances over the written records at the head (R177). -/
def publish : Nat → Nat → State → State
  | 0, _, s => s
  | n + 1, r, s =>
    match nget r s.stk.rings with
    | some g =>
      match g.recs with
      | x :: rest =>
        if x.written then
          publish n r (advanceProd r (x.start + x.bytes.length) (setRing r { g with recs := rest } s))
        else s
      | [] => s
    | none => s

/-- Records of a ring that PROD has not passed. -/
def ringRecs (s : State) (r : Nat) : List RingRec := ((nget r s.stk.rings).map Ring.recs).getD []

/-- The oldest record not yet written is written: PROD passes what it can and notifications follow (R177, R186). -/
def recordWritten (r : Nat) (s : State) : State :=
  match (ringRecs s r).find? (fun x => !x.written) with
  | some x => publish (ringRecs s r).length r (writeRec r x s)
  | none => s

/-- A unit's own record, offered and written inside the step of the unit (R177): state and whether it has been written. -/
def postWritten (o : RecordOffer) (stamp : Nat) (s : State) : State × Bool :=
  let r := ringNo s o.handle.toNat
  let old := (ringRecs s r).length
  let s := offerRecord o stamp s
  if checkHandle s kRing o.handle.toNat = 0 ∧ (ringRecs s r).length > old then
    match (ringRecs s r).getLast? with
    | some x => (publish (old + 1) r (writeRec r x s), true)
    | none => (s, false)
  else (s, false)

/-- A unit's own record: offered and written inside the step of the unit (R177). -/
def postRecord (o : RecordOffer) (stamp : Nat) (s : State) : State := (postWritten o stamp s).1

/-- A unit's own record, with who stands still when it must wait (R25, R77, R196): state, whether it waits, whether it has been
written. -/
def postFor (who : Waiter) (o : RecordOffer) (stamp : Nat) (s : State) : State × Bool × Bool :=
  let n := s.stk.waits.length
  let (s, written) := postWritten o stamp s
  if s.stk.waits.length > n then
    ({ s with stk := { s.stk with waits := s.stk.waits.modify n (fun w => { w with who := who }) } }, true, written)
  else (s, false, written)

/-- A unit's own record, with who stands still when it must wait: state and whether it waits. -/
def postWaiting (who : Waiter) (o : RecordOffer) (stamp : Nat) (s : State) : State × Bool :=
  let p := postFor who o stamp s
  (p.1, p.2.1)

/-- Who stood still goes on once its record has been written (R25, R77, R196); a shell shows the flags of its job when the record
was not dropped (R95). A Mover engine waits for its last waiting record (R196). -/
def waiterGoes (who : Waiter) (written : Bool) (s : State) : State :=
  match who with
  | .other => s
  | .ran n flags => if written then s.wr (F (.vecShell n) 0x018 6 0) flags else s
  | .engine e =>
    if s.stk.waits.any (fun w => w.who = .engine e) then s else
    { s.wr (F .movMvr (0x100 + 4 * e.val) 30 30) 0 with
      stk := { s.stk with engines := s.stk.engines.set e { s.stk.engines[e] with waiting := false } } }
  | .shell n flags =>
    let s := if written then s.wr (F (.vecShell n) 0x018 6 0) flags else s
    if s.rd (F (.vecShell n) 0 2 0) = 5 then
      s.wr (F (.vecShell n) 0 2 0) (if s.vec.shells[n].reserved.isEmpty then 1 else 2)
    else s
  | .queue q => { s with vec := { s.vec with qhold := s.vec.qhold.filter (· ≠ q.val) } }

/-- The i-th waiting producer writes its record when there is space (R182). -/
def waitEnd (i : Nat) (s : State) : State :=
  match s.stk.waits[i]? with
  | none => s
  | some w =>
    let ready :=
      if checkHandle s kRing w.offer.handle.toNat ≠ 0 then true
      else
        let r := ringNo s w.offer.handle.toNat
        match nget r s.stk.rings with
        | some g => decide (footprint (recLen w.offer.body) ≤ ringSpace s r g)
        | none => true
    if ready then
      let (s, written) := postWritten w.offer w.stamp { s with stk := { s.stk with waits := s.stk.waits.eraseIdx i } }
      waiterGoes w.who written s
    else s

/-! ### Meanings -/

/-- RING_RECORD_OFFER (R182). The record's stamp is the time of the offer, where its producer's rule gives no other. -/
def execRingRecordOffer (o : RecordOffer) (ue : Bool) (s : State) : Answer :=
  .next (offerRecord o (stamp96 (now16 s)) (ueHandle ue o.handle.toNat s))

/-- RING_RECORD_WRITTEN (R177). -/
def execRingRecordWritten (r : BitVec 13) (s : State) : Answer := .next (recordWritten r.toNat s)

/-- RING_SPACE_WAIT_END (R182). -/
def execRingSpaceWaitEnd (i : Nat) (s : State) : Answer := .next (waitEnd i s)

/-- PROD_WRITE (R178). -/
def execProdWrite (m : Master) (r : BitVec 13) (v : W32) (s : State) : Answer :=
  .next (reaches m (.movRing (Fin.ofNat 4 (r.toNat / 2048))) (32 * (r.toNat % 2048) + 0x10) (write32 v.toNat) (prodWrite r.toNat v.toNat) s)

/-- CONS_WRITE (R184). -/
def execConsWrite (m : Master) (r : BitVec 13) (v : W32) (s : State) : Answer :=
  .next (reaches m (.movRing (Fin.ofNat 4 (r.toNat / 2048))) (32 * (r.toNat % 2048) + 0x14) (write32 v.toNat) (consWrite r.toNat v.toNat) s)

end Sys2Proof.Machine
end

