-- ==== Sys2Proof/Machine/Ingest.lean ====
section
/-!
DEFINITION. Signal ingest (12, R367 to R376): link bring-up, SYSREF, multiblock CRC, batches and gates. Time
stamps are in units of 2^-16 ns.
-/
namespace Sys2Proof.Machine

/-! ### Configuration of a link (R367, R368, R372) -/

def lkF (k : Fin 4) (off hi lo : Nat) : Fld := F (.ingLink k) off hi lo
def lkState (k : Fin 4) : Fld := lkF k 0x02C 2 0
def lkEn (s : State) (k : Fin 4) : Bool := s.rd (lkF k 0 31 31) = 1
def lkM (s : State) (k : Fin 4) : Nat := s.rd (lkF k 0 28 24) + 1
def lkL (s : State) (k : Fin 4) : Nat := s.rd (lkF k 0 23 21) + 1
def lkS (s : State) (k : Fin 4) : Nat := s.rd (lkF k 0 20 19) + 1
def lkN (s : State) (k : Fin 4) : Nat := [12, 16, 24].getD (s.rd (lkF k 0 18 17)) 12
/-- N' (R367). -/
def lkNp (s : State) (k : Fin 4) : Nat := if lkN s k = 24 then 24 else 16
def lkInst (s : State) (k : Fin 4) : Nat := s.rd (lkF k 8 15 5)
/-- Bytes of a sample in a record (R372). -/
def lkZ (s : State) (k : Fin 4) : Nat := if lkN s k = 24 then 4 else 2
/-- Physical lane of logical lane l. -/
def lkLane (s : State) (k : Fin 4) (l : Nat) : Nat := s.rd (lkF k 4 (4 * l + 3) (4 * l))
def lkLanes (s : State) (k : Fin 4) : List Nat := (List.range (lkL s k)).map (lkLane s k)
/-- Octets of a frame on one lane, times 8 L (R368). -/
def lkBits (s : State) (k : Fin 4) : Nat := lkM s k * lkS s k * lkNp s k
def lkF8 (s : State) (k : Fin 4) : Nat := lkBits s k / (8 * lkL s k)

/-- The smallest power of two that is at least n. -/
def pow2Up (n : Nat) : Nat := if n ≤ 1 then 1 else 2 ^ (log2 (n - 1) + 1)

/-- Length of a batch record, padding included (R372). -/
def batchLen (s : State) (k : Fin 4) : Nat :=
  let j := lkM s k * lkInst s k
  let n := 32 + j * lkZ s k + (if s.rd (lkF k 8 3 3) = 1 then (j + 1) / 2 else 0)
  if s.rd (lkF k 8 4 4) = 1 then pow2Up n else n

/-- Whether the configuration of a link lets it be enabled (R367, R368, R372). -/
def lkLegal (s : State) (k : Fin 4) : Bool :=
  let others := (List.finRange 4).filter (fun j => j != k && lkEn s j)
  let total (f : Fin 4 → Nat) : Nat := (others.map f).foldl (· + ·) (f k)
  lkBits s k % (8 * lkL s k) == 0 && batchLen s k ≤ 65535
  && total (lkM s) ≤ 32 && total (lkL s) ≤ 16
  && (lkLanes s k).all (fun p => others.all (fun j => !(lkLanes s j).contains p))

/-- Whether the pads and the domains of a link's lane quads work (R420, R426). -/
def lkPads (s : State) (k : Fin 4) : Bool :=
  (lkLanes s k).all (fun p => !padHeld s (107 + p / 4) && domState s (107 + p / 4) == 0)

/-- Change what a link holds beside its registers. -/
def modLink (k : Fin 4) (f : IngLink → IngLink) (s : State) : State :=
  { s with io := { s.io with links := s.io.links.set k (f s.io.links[k]) } }

/-- What a link holds when it is enabled: its gate is closed (R376). -/
def freshLink : IngLink := ⟨0, 0, [], 0, 0, false, false, false, [], []⟩

/-- Write of ING_LINKk_CFG (R368). -/
def linkCfg (k : Fin 4) (v : Nat) (s : State) : State :=
  let was := lkEn s k
  let s := plain32 (.ingLink k) 0 (setBit v 31 was) s
  match bit v 31, was with
  | true, false =>
    if lkLegal s k then
      let s := forAll (lkLanes s k) (fun p s => activity (107 + p / 4) s) s
      modLink k (fun _ => freshLink) ((s.wr (lkF k 0 31 31) 1).wr (lkState k) 1)
    else configErr (.ingLink k) 0 s
  | false, true => condition (.ingLink k) 0 false ((s.wr (lkF k 0 31 31) 0).wr (lkState k) 0)
  | _, _ => s

/-! ### Bring-up (R369) and SYSREF (R370, R371) -/

/-- A link leaves one state for the next. -/
def linkStep (k : Fin 4) (from_ dest : Nat) (s : State) : State :=
  if lkEn s k ∧ s.rd (lkState k) = from_ ∧ lkPads s k then s.wr (lkState k) dest else s

/-- Every lane has locked to its sync headers. -/
def shLock (k : Fin 4) (s : State) : State := linkStep k 1 2 s

/-- Every lane has found its extended-multiblock boundary. -/
def embLock (k : Fin 4) (s : State) : State := linkStep k 2 3 s

/-- The buffer releases data: the link is in RUN, and its LINK_DOWN condition ends. -/
def rbdRelease (k : Fin 4) (s : State) : State :=
  if lkEn s k ∧ s.rd (lkState k) = 4 ∧ lkPads s k then
    condition (.ingLink k) 0 false (modLink k (fun l => { l with ran := true, up := true }) (s.wr (lkState k) 5))
  else s

/-- Loss of sync-header lock (R369); before EMB_LOCK it raises nothing. It marks the open batch of a link that closes any (R375). -/
def shLoss (k : Fin 4) (s : State) : State :=
  let st := s.rd (lkState k)
  if st < 2 then s
  else
    let s := modLink k (fun l => { l with down := l.ran }) (s.wr (lkState k) 1)
    if st ≥ 3 then condition (.ingLink k) 0 true s else s

/-- A timebase sum: seconds wrap modulo 2^48 (R341, R356). -/
def wrapTime (i : Int) : Nat := (i % (2 ^ 48 * 1000000000 * 65536 : Nat)).toNat

/-- The stamp of a crossing within a time-unit cycle: the coarse count and the offset of the tap that it reached, in the table of a
delay line (R344, R345). -/
def tapStamp (s : State) (tab : List Int) (tap : Nat) : Nat := wrapTime ((s.tb / 2 ^ 32 : Nat) + tab.getD tap 0)

/-! ### Delay lines (R345) -/

/-- A change of what an input holds beside its registers. -/
def modPf (j : Fin 33) (f : PfIn → PfIn) (s : State) : State :=
  { s with tim := { s.tim with pf := s.tim.pf.set j (f s.tim.pf[j]) } }

/-- The cumulative offsets that tap widths give: of each tap, the path and the taps before it (notes/assumptions/63.md). -/
def calTable (c : LineCal) : List Int :=
  (List.range 64).map (fun i => c.path + ((c.widths.toList.take i).map (fun w => (w.toNat : Int))).sum)

/-- Every tap is 3 to 20 ps wide: 196.6 to 1,310.7 fraction units (R345). -/
def calPasses (c : LineCal) : Bool := c.widths.toList.all (fun w => within 197 1310 w.toNat)

/-- One line of an input has been calibrated. -/
def PfIn.calibrated (x : PfIn) (line : Bool) (c : LineCal) : PfIn :=
  if line then { x with bad1 := !calPasses c, tab1 := if calPasses c then calTable c else x.tab1 }
  else { x with bad0 := !calPasses c, tab0 := if calPasses c then calTable c else x.tab0 }

/-- A line comes into service where it passed. -/
def PfIn.swapped (x : PfIn) (line pass : Bool) : PfIn := if pass then { x with line := line } else x

/-- CAL_FAIL of an input and of the block follow the lines that are out of service. -/
def calShown (j : Fin 33) (s : State) : State :=
  let bad (i : Fin 33) : Bool := (s.tim.pf[i]).bad0 || (s.tim.pf[i]).bad1
  let s := if j.val < 32 then s.wr (F .timPf 4 j.val j.val) (bnat (bad j)) else s
  condition .timPf 0 ((List.finRange 33).any bad) s

/-- The table of the line in service of an input: event inputs 0 to 31, and SYSREF. -/
def lineTab (s : State) (j : Fin 33) : List Int := if (s.tim.pf[j]).line then (s.tim.pf[j]).tab1 else (s.tim.pf[j]).tab0

/-- Sample instants of one LEMC period times F: E multiblocks of 256 octets a lane (12, the example of R376). -/
def lemcInstants (s : State) (k : Fin 4) : Nat := (s.rd (lkF k 0 16 15) + 1) * 256 * lkS s k

/-- Time stamp of an instant (R370): instants before a re-anchoring keep the anchor they had. -/
def instStamp (s : State) (k : Fin 4) (i : Nat) : Nat :=
  let l := s.io.links[k]
  let p := s.reg ((Blk.ingLink k).base + 0x010)
  let (a, at_) := (((l.anchor, l.anchorAt) :: l.anchors).find? (fun x => decide (x.2 ≤ i))).getD (l.anchor, l.anchorAt)
  wrapTime ((a : Int) + (p : Int) * ((i : Int) - at_) + sgn 64 (s.reg ((Blk.ingLink k).base + 0x018)))

/-- A later SYSREF edge of a link in periodic mode, on the n-th LEMC boundary after its anchor's: that boundary, of which the link's own
count tells, becomes the anchor; boundaries lie lemcInstants / F instants apart (R371; notes/assumptions/64.md). -/
def reAnchor (k : Fin 4) (stamp n : Nat) (s : State) : State :=
  let l := s.io.links[k]
  let p := s.reg ((Blk.ingLink k).base + 0x010)
  let f := max 1 (lkF8 s k)
  let e := lemcInstants s k
  let diff : Int := (stamp : Int) - ((l.anchor + n * e * p / f : Nat) : Int)
  let s := s.setReg ((Blk.ingLink k).base + 0x020) (wrap 64 diff)
  let s := modLink k (fun l => { l with anchors := (l.anchor, l.anchorAt) :: l.anchors, anchor := stamp, anchorAt := l.anchorAt + n * e / f }) s
  if diff.natAbs > s.reg ((Blk.ingLink k).base + 0x028) then report (.ingLink k) 1 s else s

/-- A SYSREF edge meets a link: it aligns one in EMB_LOCK, whose instants and open batch begin anew with nothing missing of them yet, and
re-anchors one in periodic mode where it falls on a boundary (R370, R371, R375). -/
def sysrefAt (k : Fin 4) (stamp : Nat) (bound : Option Nat) (s : State) : State :=
  let st := s.rd (lkState k)
  if !lkEn s k then s
  else if st = 3 then
    modLink k (fun l => { l with anchor := stamp, anchorAt := 0, anchors := [], inst := 0, failed := [], down := false, up := false })
      (s.wr (lkState k) 4)
  else match bound with
    | some n => if st ≥ 4 ∧ s.rd (lkF k 0 29 29) = 1 then reAnchor k stamp n s else s
    | none => s

/-- A SYSREF edge (R370). -/
def sysrefEdge (tap : Nat) (bounds : Vector (Option Nat) 4) (s : State) : State :=
  forAll (List.finRange 4) (fun k s => sysrefAt k (tapStamp s (lineTab s 32) tap) bounds[k] s) s

/-! ### Batches (R372 to R376) -/

/-- Octets of a frame that hold a sample: first octet, count (R367, R372; the samples of a frame follow converter by converter). -/
def sampleOctets (s : State) (k : Fin 4) (conv sub : Nat) : List Nat :=
  let w := lkNp s k / 8
  (List.range w).map (fun o => (conv * lkS s k + sub) * w + o)

/-- Whether a multiblock of a lane carried a bit of a converter's sample at an instant (R375). -/
def carried (s : State) (k : Fin 4) (fail : Nat × Nat) (inst conv : Nat) : Bool :=
  let f := max 1 (lkF8 s k)
  (sampleOctets s k conv (inst % lkS s k)).any fun o =>
    o / f == fail.1 && (inst / lkS s k * f + o % f) / 256 == fail.2

/-- Last instant of which a multiblock carries a bit. -/
def lastInst (s : State) (k : Fin 4) (mb : Nat) : Nat := ((mb + 1) * 256 / max 1 (lkF8 s k) + 1) * lkS s k

/-- CRC-12 of a multiblock on one lane (R375), of a link whose lanes have locked to their sync headers, which carry it
(notes/assumptions/64.md). -/
def multiblockCrc (k : Fin 4) (lane mb : Nat) (ok : Bool) (s : State) : State :=
  if ok ∨ !lkEn s k ∨ s.rd (lkState k) < 2 ∨ lkL s k ≤ lane then s
  else modLink k (fun l => { l with failed := l.failed ++ [(lane, mb)] }) (s.count (F32 (.ingLink k) 0x030) 1)

/-- Whether a link's gate is open at an instant (R376). -/
def gateOpen (s : State) (k : Fin 4) (t : Nat) : Bool :=
  match (s.io.links[k]).gates.find? (fun g => g.1 ≤ t) with
  | some g => g.2
  | none => false

/-- A GATE action at an instant (R376). -/
def gateAction (k : Fin 4) (t : Nat) (open_ : Bool) (s : State) : State :=
  if s.rd (lkF k 0 30 30) = 1 then modLink k (fun l => { l with gates := (t, open_) :: l.gates }) s else s

/-- A sample in its record form (R372). -/
def sampleWord (s : State) (k : Fin 4) (v : Int) : Nat :=
  let n := lkN s k
  if s.rd (lkF k 8 2 2) = 1 then wrap n v * 2 ^ (8 * lkZ s k - n) else wrap (8 * lkZ s k) (sgn n (wrap n v))

/-- Bytes of a link's records that its ring's memory has not accepted (R374). -/
def linkBuffered (s : State) (k : Fin 4) : Nat :=
  s.stk.rings.foldl (fun a p => p.2.recs.foldl (fun a x =>
    if !x.written && (x.bytes.getD 6 0).toNat == 0x10 && (x.bytes.getD 29 0).toNat % 4 == k.val then a + x.bytes.length else a) a) 0

/-- The nibbles of tags as bytes (R35). -/
def nibbleBytes : List Nat → List Byte
  | [] => []
  | [a] => [BitVec.ofNat 8 (a % 16)]
  | a :: b :: l => BitVec.ofNat 8 (a % 16 + b % 16 * 16) :: nibbleBytes l

/-- The body of a batch record from its samples, instant by instant; a missing sample is 0 with INVALID (R372, R373, R375). -/
def batchBody (k : Fin 4) (samples : List (Option Int)) (s : State) : RecordBody :=
  let l := s.io.links[k]
  let m := lkM s k
  let n := lkInst s k
  let fails := l.failed.filter fun f => (List.range n).any fun i => (List.range m).any fun c => carried s k f (l.inst + i) c
  let at_ (i c : Nat) : Option Int := if l.up then (samples.getD (i * m + c) none) else none
  let order : List (Nat × Nat) :=
    if s.rd (lkF k 8 1 1) = 1 then (List.range m).flatMap fun c => (List.range n).map fun i => (i, c)
    else (List.range n).flatMap fun i => (List.range m).map fun c => (i, c)
  let tags := order.map fun p =>
    bnat ((at_ p.1 p.2).isNone || fails.any fun f => carried s k f (l.inst + p.1) p.2)
  let words := order.flatMap fun p => leBytes (lkZ s k) (sampleWord s k ((at_ p.1 p.2).getD 0))
  let tagOn := s.rd (lkF k 8 3 3) = 1
  let body := words ++ (if tagOn then nibbleBytes tags else [])
  let down := l.down || s.rd (lkState k) ≠ 5
  let crc := min fails.length 255
  let w7 := (m - 1) * 2 ^ 27 + n * 2 ^ 16 + s.rd (lkF k 0 18 17) * 2 ^ 14 + s.rd (lkF k 8 1 1) * 2 ^ 13
    + s.rd (lkF k 8 2 2) * 2 ^ 12 + bnat tagOn * 2 ^ 11 + bnat down * 2 ^ 10 + k.val * 2 ^ 8 + crc
  { word0 := BitVec.ofNat 32 (s.rd (lkF k 0xC 31 0)), type := 0x10, partialRec := down, error := down || crc ≠ 0, last := true,
    summary := BitVec.ofNat 4 (tags.foldl (· ||| ·) 0), word6 := BitVec.ofNat 32 l.batch, word7 := BitVec.ofNat 32 w7,
    payload := body ++ List.replicate (batchLen s k - 32 - body.length) 0 }

/-- The earlier anchors that instants from one on may still need. -/
def IngLink.anchorsFrom (l : IngLink) (i : Nat) : List (Nat × Nat) :=
  if l.anchorAt ≤ i then [] else
    l.anchors.takeWhile (fun x => decide (i < x.2)) ++ (l.anchors.find? (fun x => decide (x.2 ≤ i))).toList

/-- A link closes a batch: offered to its ring, gated out, or lost with a full buffer (R372 to R376). -/
def batchClose (k : Fin 4) (samples : List (Option Int)) (s : State) : State :=
  let l := s.io.links[k]
  if !lkEn s k ∨ !l.ran then s
  else
    let t := instStamp s k l.inst
    let o : RecordOffer := ⟨.ingest k, BitVec.ofNat 32 (s.rd (lkF k 0xC 31 0)), batchBody k samples s⟩
    let s1 :=
      if s.rd (lkF k 0 30 30) = 1 ∧ !gateOpen s k t then s.count (F32 (.ingLink k) 0x038) 1
      else if linkBuffered s k + batchLen s k > 65536 then
        if checkHandle s kRing o.handle.toNat = 0 then discard (ringNo s o.handle.toNat) o s else staleOffer (.ingest k) s
      else offerRecord o (stamp96 t) s
    let next := l.inst + lkInst s k
    modLink k (fun l => { l with
      inst := next, anchors := l.anchorsFrom next, batch := l.batch + 1, down := false, up := s.rd (lkState k) = 5,
      failed := l.failed.filter (fun f => next ≤ lastInst s k f.2) }) s1

/-! ### Meanings -/

/-- LINK_ENABLE (R368). -/
def execLinkEnable (m : Master) (k : Fin 4) (v : W32) (s : State) : Answer :=
  .next (reaches m (.ingLink k) 0 (write32 v.toNat) (linkCfg k v.toNat) s)
/-- SYNC_HEADER_LOCK (R369). -/
def execSyncHeaderLock (k : Fin 4) (s : State) : Answer := .next (shLock k s)
/-- EMB_LOCK (R369). -/
def execEmbLock (k : Fin 4) (s : State) : Answer := .next (embLock k s)
/-- SYSREF_EDGE (R370, R371). -/
def execSysrefEdge (edge : SysrefIn) (s : State) : Answer := .next (sysrefEdge edge.tap.toNat edge.bounds s)
/-- RBD_RELEASE (R369). -/
def execRbdRelease (k : Fin 4) (s : State) : Answer := .next (rbdRelease k s)
/-- SYNC_HEADER_LOSS (R369). -/
def execSyncHeaderLoss (k : Fin 4) (s : State) : Answer := .next (shLoss k s)
/-- MULTIBLOCK_CRC_CHECK (R375). -/
def execMultiblockCrcCheck (k : Fin 4) (lane : Fin 8) (mb : Nat) (ok : Bool) (s : State) : Answer :=
  .next (multiblockCrc k lane.val mb ok s)
/-- BATCH_CLOSE (R372). -/
def execBatchClose (k : Fin 4) (samples : List (Option Int)) (s : State) : Answer := .next (batchClose k samples s)

end Sys2Proof.Machine
end

