-- ==== Sys2Proof/Machine/Net.lean ====
section
/-!
DEFINITION. Network ports (12, R377 to R390): reception, filters, PTP, PRP and HSR, transmission. Frames are lists
of octets from the destination address; time stamps are in units of 2^-16 ns.
-/
namespace Sys2Proof.Machine

/-! ### Frames -/

/-- CRC-32 of IEEE 802.3 over one octet, reflected. -/
def crc32Byte (c : Nat) (b : Byte) : Nat :=
  (List.range 8).foldl (fun c _ => if c % 2 = 1 then (c / 2) ^^^ 0xEDB88320 else c / 2) (c ^^^ b.toNat)

/-- The frame check sequence of a frame. -/
def fcs (bs : List Byte) : List Byte := leBytes 4 ((bs.foldl crc32Byte 0xFFFFFFFF) ^^^ 0xFFFFFFFF)

/-- Big-endian 16 bits at an offset; 0 beyond the end. -/
def be16 (f : List Byte) (o : Nat) : Nat := beNat ((f.drop o).take 2)

/-- Replace octets from an offset. -/
def overlay (f : List Byte) (o : Nat) (bs : List Byte) : List Byte := f.take o ++ bs ++ f.drop (o + bs.length)

/-- Octets of an 802.1Q tag at offset 12. -/
def vlanLen (f : List Byte) : Nat := if be16 f 12 = 0x8100 then 4 else 0

/-- EtherType after any 802.1Q tag. -/
def etherAt (f : List Byte) : Nat := be16 f (12 + vlanLen f)

/-- Source address. -/
def srcOf (f : List Byte) : Nat := beNat ((f.drop 6).take 6)
/-- Destination address. -/
def dstOf (f : List Byte) : Nat := beNat (f.take 6)

/-- LSDU size of a frame to which six octets of redundancy are added (IEC 62439-3; notes/assumptions/25.md). -/
def lsduSize (f : List Byte) : Nat := f.length - 14 - vlanLen f + 6

/-- A frame with its redundancy control trailer (R385). -/
def withRct (f : List Byte) (seq lan : Nat) : List Byte :=
  f ++ beBytes 2 seq ++ beBytes 2 (lan * 4096 + lsduSize f % 4096) ++ beBytes 2 0x88FB

/-- A frame with its HSR tag (R385). -/
def withHsr (f : List Byte) (seq path : Nat) : List Byte :=
  let o := 12 + vlanLen f
  f.take o ++ beBytes 2 0x892F ++ beBytes 2 (path * 4096 + lsduSize f % 4096) ++ beBytes 2 seq ++ f.drop o

/-- What redundancy handling finds in a frame: the frame without tag or trailer, and its sequence number. -/
def untag (mode : Nat) (f : List Byte) : List Byte × Option Nat :=
  if mode = 1 then
    let n := f.length
    let g := f.take (n - 6)
    if be16 f (n - 2) = 0x88FB ∧ 20 ≤ n ∧ be16 f (n - 4) % 4096 = lsduSize g % 4096 then (g, some (be16 f (n - 6))) else (f, none)
  else if mode = 2 ∧ etherAt f = 0x892F then
    let o := 12 + vlanLen f
    (f.take o ++ f.drop (o + 6), some (be16 f (o + 4)))
  else (f, none)

/-! ### A port's registers and state -/

def ptF (p : Fin 4) (off hi lo : Nat) : Fld := F (.netPort p) off hi lo
def ptCount (p : Fin 4) (i : Nat) (s : State) : State := s.count (F32 (.netPort p) (0x040 + 4 * i)) 1
def ptEn (s : State) (p : Fin 4) : Bool := s.rd (ptF p 0 31 31) = 1
def ptUp (s : State) (p : Fin 4) : Bool := ptEn s p && s.rd (ptF p 0x028 0 0) = 1
def maxLen (s : State) (p : Fin 4) : Nat := s.rd (ptF p 0 29 16)

/-- The pair of a port, its other port, and the pair's mode (R385). -/
def pairOf (p : Fin 4) : Fin 2 := Fin.ofNat 2 (p.val / 2)
def otherPort (p : Fin 4) : Fin 4 := Fin.ofNat 4 (if p.val % 2 = 0 then p.val + 1 else p.val - 1)
def pairMode (s : State) (p : Fin 4) : Nat := s.rd (F (.netPair (pairOf p)) 0 1 0)

/-- Change what a port holds beside its registers. -/
def modPort (p : Fin 4) (f : NetPort → NetPort) (s : State) : State :=
  { s with io := { s.io with ports := s.io.ports.set p (f s.io.ports[p]) } }

/-- Tenths of a fraction unit that one octet takes at the port's speed (R377). -/
def octetTime (s : State) (p : Fin 4) : Nat :=
  [524288000, 52428800, 5242880, 524288].getD (s.rd (ptF p 0x028 2 1)) 524288

/-- Time of a frame of n octets with its FCS, preamble and minimum gap (R390). -/
def frameTime (s : State) (p : Fin 4) (n : Nat) : Nat := ((n + 24) * octetTime s p + 9) / 10

/-! ### Duplicates (R385) -/

/-- 400 ms in time-unit cycles. -/
def ageLimit : Nat := 600000000

/-- Whether a copy has been seen within 400 ms. -/
def isDup (s : State) (pr : Fin 2) (src seq : Nat) : Bool :=
  (s.io.seen[pr]).any fun x => x.src == src && x.seq == seq && decide (s.elapsed - x.at_ < ageLimit)

/-- Enter a frame in the duplicate table; the oldest entry of a full table is replaced. -/
def enterSeen (pr : Fin 2) (src seq : Nat) (s : State) : State :=
  let l := s.io.seen[pr]
  let (l, s) := if l.length ≥ 1024 then (l.drop 1, s.count (F32 (.netPair pr) 0x01C) 1) else (l, s)
  { s with io := { s.io with seen := s.io.seen.set pr (l ++ [⟨src, seq, s.elapsed⟩]) } }

/-- The oldest entry of a table ages out after 400 ms. -/
def ageOut (pr : Fin 2) (s : State) : State :=
  match s.io.seen[pr] with
  | x :: l => if s.elapsed - x.at_ ≥ ageLimit then { s with io := { s.io with seen := s.io.seen.set pr l } } else s
  | [] => s

/-! ### Reception (R378 to R383) -/

/-- A live filter's slot and handle. -/
def liveFilters (s : State) : List (Nat × Nat × Entry) :=
  (s.stk.table.filter (fun p => p.2.st == 1 && p.2.kind == kFilter)).map
    fun p => (bits (p.2.word 1) 10 0, handleOf kFilter p.2.gen p.1, p.2)

/-- Whether all fields of a filter match (R379); an untagged frame has VID 0. -/
def filterHits (e : Entry) (p : Fin 4) (et appid vid : Nat) : Bool :=
  bits (e.word 2) 31 16 == et && (bit (e.word 3) 31 || bits (e.word 2) 15 0 == appid)
  && (bit (e.word 3) 30 || bits (e.word 3) 11 0 == vid) && bit (e.word 3) (12 + p.val)

/-- The matching filter of the lowest slot (R379). -/
def matchFilter (s : State) (p : Fin 4) (et appid vid : Nat) : Option (Nat × Nat × Entry) :=
  (liveFilters s).foldl (fun best x =>
    if filterHits x.2.2 p et appid vid then
      match best with
      | some b => if x.1 < b.1 then some x else some b
      | none => some x
    else best) none

/-- The fixed header of IEC 61850 is read for these EtherTypes (R380). -/
def isIec (et : Nat) : Bool := et == 0x88B8 || et == 0x88B9 || et == 0x88BA

/-- Classify a frame without its tag or trailer and deliver it (R378 to R380). -/
def deliver (p : Fin 4) (f : List Byte) (seq : Option Nat) (stamp : Nat) (s : State) : State :=
  let v := vlanLen f
  let tci := if v = 4 then be16 f 14 else 0
  let et := etherAt f
  let body := f.drop (14 + v)
  let iec := isIec et
  let sim := iec && bit (be16 body 4) 15
  let bad := iec && (be16 body 2 < 8 || decide (body.length < be16 body 2))
  let s := if bad then ptCount p 7 s else s
  let rec_ := if v = 4 ∧ s.rd (ptF p 0 30 30) = 1 then f.take 12 ++ f.drop 16 else f
  let lanB := pairMode s p ≠ 0 && p.val % 2 == 1
  let w6 := tci / 8192 * 2 ^ 29 + bnat (v = 4) * 2 ^ 28 + tci % 4096 * 2 ^ 16 + bnat lanB * 2 ^ 13
    + bnat seq.isSome * 2 ^ 12 + bnat sim * 2 ^ 9 + p.val
  let w7 := (if iec then be16 body 0 else 0) * 2 ^ 16 + seq.getD 0
  let offer (ring w0 tag : Nat) : RecordOffer :=
    ⟨.port p, BitVec.ofNat 32 ring,
      { word0 := BitVec.ofNat 32 w0, type := 0x18, partialRec := false, error := bad, last := false,
        summary := BitVec.ofNat 4 tag, word6 := BitVec.ofNat 32 w6, word7 := BitVec.ofNat 32 w7, payload := rec_ }⟩
  match matchFilter s p et (be16 body 0) (tci % 4096) with
  | some (_, h, e) =>
    if bit (e.word 5) 0 then ptCount p 6 s
    else postRecord (offer (e.word 4) h (if bit (e.word 5) 1 ∧ sim then 8 else 0)) (stamp96 stamp) s
  | none =>
    let d := s.rd (ptF p 4 31 0)
    if d = 0 then ptCount p 5 s else postRecord (offer d 0 0) (stamp96 stamp) s

/-- A received frame, FCS included (R377, R378, R382, R383, R385); none is taken once an entry into Boathouse or Easy-all has begun
(R409, R419), nor through a closed pad hold, which is that of every port whose domain does not run (R426). -/
def frameReceive (p : Fin 4) (bytes : List Byte) (s : State) : State :=
  if s.flt.underTest.contains (.netPort p) then s.count (F32 .pwrErg 0x010) 1
  else if quietNow s then s
  else if !ptUp s p ∨ padHeld s (103 + p.val) ∨ domState s (103 + p.val) ≠ 0 then s
  else
    let n := bytes.length
    let f := bytes.take (n - 4)
    if fcs f ≠ bytes.drop (n - 4) then ptCount p 1 s
    else if n < 64 then ptCount p 2 s
    else if n > maxLen s p then ptCount p 3 s
    else
      let s := ptCount p 0 s
      let stamp := wrapTime ((now16 s : Int) + sgn 64 (s.reg ((Blk.netPort p).base + 0x018)))
      if etherAt f = 0x8808 then ptCount p 4 s
      else
        let mode := pairMode s p
        let (g, seq) := untag mode f
        let dup := match seq with
          | some q => isDup s (pairOf p) (srcOf f) q
          | none => false
        let s := match seq with
          | some q => if dup then s.count (F32 (.netPair (pairOf p)) 0x018) 1 else enterSeen (pairOf p) (srcOf f) q s
          | none => s
        let mine := Config.nodeMac (pairOf p).val
        let s := if mode = 2 ∧ !dup ∧ dstOf f ≠ mine ∧ srcOf f ≠ mine then
            modPort p (fun x => { x with fwd := x.fwd ++ [(f, stamp)] }) s
          else s
        if dup then s else deliver p g seq stamp s

/-! ### One-step messages (R384) and correction (R386) -/

/-- Add to the correctionField of the PTP message whose first octet is at an offset. -/
def addCorrection (f : List Byte) (o : Nat) (d : Int) : List Byte :=
  overlay f (o + 8) (beBytes 8 (wrap 64 (sgn 64 (beNat ((f.drop (o + 8)).take 8)) + d)))

/-- A one-step request's frame at its transmission, and whether it was no PTP message (R384). -/
def oneStep (f : List Byte) (stamp ingress : Nat) : List Byte × Bool :=
  if etherAt f ≠ 0x88F7 then (f, true)
  else
    let o := 14 + vlanLen f
    match (f.getD o 0).toNat % 16 with
    | 0 =>
      let sec := stamp / 65536 / 1000000000
      let g := overlay f (o + 34) (beBytes 6 sec ++ beBytes 4 (stamp / 65536 % 1000000000))
      (addCorrection g o (stamp % 65536 : Nat), false)
    | 3 => (addCorrection f o ((stamp : Int) - ingress), false)
    | _ => (f, false)

/-- A 96-bit stamp as a number of fraction units. -/
def unstamp96 (x : Nat) : Nat := x % 65536 + (bits x 47 16 + x / 2 ^ 48 * 1000000000) * 65536

/-! ### Transmission (R387 to R390) -/

/-- The instant at which a frame that may start from an instant starts: the line is free, and a 10GBASE-R port waits
for a block boundary (R383). -/
def txStart (s : State) (p : Fin 4) (want : Nat) : Nat :=
  let w := max want (s.io.ports[p]).busy
  if s.rd (ptF p 0 1 0) = 0 then w + Config.blockWait p.val w % 419431 else w

/-- Send a frame, without FCS, that starts at an instant. -/
def sendFrame (p : Fin 4) (start : Nat) (f : List Byte) (s : State) : State :=
  let s := modPort p (fun x => { x with busy := start + frameTime s p f.length }) s
  emit (.frame p.val (f ++ fcs f)) (ptCount p 9 s)

/-- Status codes of R389. -/
def txSent : Nat := 0
def txFormat : Nat := 1
def txLinkDown : Nat := 2
def txEmpty : Nat := 3
def txLate : Nat := 4

/-- Write a transmit status record (R389). -/
def txStatus (p : Fin 4) (status cookie stamp : Nat) (s : State) : State :=
  let h := s.rd (ptF p 0x010 31 0)
  if h = 0 then s
  else postRecord ⟨.port p, BitVec.ofNat 32 h,
      { word0 := 0, type := 0x19, partialRec := false, error := false, last := false, summary := 0,
        word6 := BitVec.ofNat 32 cookie, word7 := BitVec.ofNat 32 (p.val * 64 + status), payload := [] }⟩ (stamp96 stamp) s

/-- A transmit request as read from its ring (R388). -/
structure TxReq where
  cookie : Nat
  ctl : Nat
  ingress : Nat
  ok : Bool
  /-- An uncorrectable error was read (R146). -/
  ue : Bool
  frame : List Byte

/-- Read the record at the consumer index and release it (R178, R388): the request, and whether it is well formed. -/
def takeRequest (p : Fin 4) (r : Nat) (s : State) : State × TxReq :=
  let cons := s.reg (ringReg r 0x14)
  let m := 10
  let read (x n : Nat) (s : State) : State × List Byte × List Nat :=
    let first := min n (ringSize s r - x % ringSize s r)
    let a := memRead m accRead (ringAddr s r x) first s
    if first < n then
      let b := memRead m accRead (s.reg (ringReg r 0)) (n - first) a.st
      (b.st, a.data ++ b.data, [a.code, b.code])
    else (a.st, a.data, [a.code])
  let (s, hd, c1) := read cons 32 s
  let w (j : Nat) : Nat := leNat ((hd.drop (4 * j)).take 4)
  let len := bits (w 1) 15 0
  let occ := occupancy s r
  let foot := min (max 32 (footprint len)) (max 32 occ)
  let lenOk := c1.all (· == 0) && within (32 + 60) (32 + maxLen s p - 4) len && footprint len ≤ occ
  let (s, fr, c2) := if lenOk then read (cons + 32) (len - 32) s else (s, [], [])
  let s := advanceCons r ((cons + foot) % 2 ^ 32) s
  (s, ⟨w 0, w 1, unstamp96 (w 2 + w 3 * 2 ^ 32 + w 4 * 2 ^ 64),
       lenOk && c2.all (· == 0) && bits (w 1) 31 19 == 0 && w 5 == 0 && w 6 == 0 && w 7 == 0, (c1 ++ c2).contains rUe, fr⟩)

/-- Send a request's frame on one port from an instant: its tag or trailer, its one-step change and its status. -/
def sendOn (p : Fin 4) (q : TxReq) (seq : Option Nat) (want : Nat) (sched : Bool) (s : State) : State :=
  if !ptUp s p then txStatus p txLinkDown q.cookie 0 s
  else if s.flt.underTest.contains (.netPort p) then txStatus p txLinkDown q.cookie 0 (s.count (F32 .pwrErg 0x010) 1)
  else
    let late := sched && decide (want < (s.io.ports[p]).busy)
    let start := txStart s p want
    let stamp := wrapTime ((start : Int) + sgn 64 (s.reg ((Blk.netPort p).base + 0x020)))
    let (f, bad) := if bit q.ctl 17 then oneStep q.frame stamp q.ingress else (q.frame, false)
    let s := if bad then ptCount p 12 s else s
    let mode := pairMode s p
    let f := match seq with
      | some n => if mode = 2 then withHsr f n (p.val % 2) else withRct f n (10 + p.val % 2)
      | none => f
    let s := sendFrame p start f s
    let s := if late then report (.netPort p) 1 (ptCount p 10 s) else s
    if late then txStatus p txLate q.cookie stamp s
    else if bit q.ctl 16 ∨ bit q.ctl 17 then txStatus p txSent q.cookie stamp s else s

/-- Take the next sequence number of a pair. -/
def nextSeq (pr : Fin 2) (s : State) : Nat × State :=
  let n := s.io.seqs[pr]
  (n, { s with io := { s.io with seqs := s.io.seqs.set pr ((n + 1) % 65536) } })

/-- Whether a request goes out on both ports of its pair (R385). -/
def bothPorts (s : State) (p : Fin 4) (q : TxReq) : Bool :=
  let mode := pairMode s p
  mode == 2 || (mode == 1 && bit q.ctl 18)

/-- The error counters of a port (R377). -/
def ueCounter (i : Fin 6) : Nat := [1, 2, 3, 7, 8, 12].getD i.val 1

/-- Carry out a request taken by a port: state, and whether it used both ports. -/
def sendRequest (p : Fin 4) (q : TxReq) (want : Nat) (sched : Bool) (s : State) : State × Bool :=
  if !q.ok then (txStatus p txFormat q.cookie 0 (if q.ue then ptCount p (ueCounter Config.transmitUeCount) s else s), false)
  else if bothPorts s p q then
    let (n, s) := nextSeq (pairOf p) s
    let lo := Fin.ofNat 4 (p.val / 2 * 2)
    let hi := Fin.ofNat 4 (p.val / 2 * 2 + 1)
    (sendOn hi q (some n) want sched (sendOn lo q (some n) want sched s), true)
  else (sendOn p q none want sched s, false)

/-- The port whose registers give a port's queues (R387). -/
def queuePort (s : State) (p : Fin 4) : Fin 4 := if pairMode s p = 0 then p else Fin.ofNat 4 (p.val / 2 * 2)

/-- The ring that a queue register names, when a record waits in it. -/
def queueRing (s : State) (p : Fin 4) (off : Nat) : Option Nat :=
  let h := s.rd (ptF (queuePort s p) off 31 0)
  if checkHandle s kRing h = 0 ∧ occupancy s (ringNo s h) ≠ 0 then some (ringNo s h) else none

/-- Whether a port's outbound activity waits: its domain does not run, or its pad hold is closed (R421, R426); that of a port under test
ends at once (R494). -/
def portHeld (s : State) (p : Fin 4) : Bool :=
  (padHeld s (103 + p.val) || domState s (103 + p.val) != 0) && !s.flt.underTest.contains (.netPort p)

/-- The ports that a request goes out on (R385). -/
def portsOf (s : State) (p : Fin 4) (q : TxReq) : List (Fin 4) := if bothPorts s p q then [p, otherPort p] else [p]

/-- The domains of ports run for their work (R421). -/
def wakePorts (ps : List (Fin 4)) (s : State) : State := forAll ps (fun x s => activity (103 + x.val) s) s

/-- Whether a port's line is free: no frame, and no gap after one, still runs on it. -/
def lineFree (s : State) (p : Fin 4) : Bool := (s.io.ports[p]).busy ≤ now16 s

/-- Whether an announced TRANSMIT keeps a frame of n octets off a port now (R390): it would run at the instant, or take the block at which
the scheduled frame is to start. -/
def guarded (s : State) (p : Fin 4) (n : Nat) : Bool :=
  let start := txStart s p (now16 s)
  s.io.announced.any fun a => bit a.ports p.val && (decide (now16 s ≤ a.instant) || (s.io.ports[p]).due.contains a.instant)
    && decide (a.instant < start + frameTime s p n)

/-- A port takes a request from its normal queue (R388): nothing while its pads are held, a frame runs on a line that it needs, or a
guard holds. -/
def txRequest (p : Fin 4) (s : State) : State :=
  if !ptEn s p ∨ quietNow s then s
  else match queueRing s p 0x008 with
    | none => s
    | some r =>
      let s := wakePorts [p] s
      if portHeld s p then s else
      let q := (takeRequest p r s).2
      let ps := portsOf s p q
      let s := wakePorts ps s
      if ps.any (portHeld s) then s
      else if q.ok ∧ ps.any (fun x => !lineFree s x || guarded s x (q.frame.length + (if pairMode s p = 0 then 0 else 6))) then s
      else (sendRequest p q (now16 s) false (takeRequest p r s).1).1

/-- Withdraw a port from the announcements of an instant. -/
def unannounce (p : Fin 4) (t : Nat) (s : State) : State :=
  let l := s.io.announced.map fun a => if a.instant = t then { a with ports := setBit a.ports p.val false } else a
  { s with io := { s.io with announced := l.filter (fun a => a.ports ≠ 0) } }

/-- Take an instant that has been handed over off a port's list. -/
def dropDue (p : Fin 4) (t : Nat) (s : State) : State := modPort p (fun x => { x with due := x.due.erase t }) (unannounce p t s)

/-- A port sends the head of its scheduled queue at a TRANSMIT instant (R390). -/
def scheduledTransmit (p : Fin 4) (s : State) : State :=
  match (s.io.ports[p]).due with
  | [] => s
  | t :: _ =>
    let q := (queueRing s p 0x00C).map (fun r => (takeRequest p r s).2)
    let ps := (q.map (portsOf s p)).getD [p]
    let s := wakePorts ps s
    if quietNow s then s
    else if ps.any (portHeld s) then modPort p (fun x => { x with busy := max x.busy (now16 s) }) s
    else
      let s := dropDue p t s
      match queueRing s p 0x00C with
      | none => txStatus p txEmpty 0 0 (ptCount p 11 s)
      | some r =>
        let (s, q) := takeRequest p r s
        let (s, both) := sendRequest p q t true s
        if both ∧ (s.io.ports[otherPort p]).due.contains t then dropDue (otherPort p) t s else s

/-- The oldest frame to be forwarded leaves on the other port when its line is free, under the guard of R390; a Sync is corrected
(R385, R386; notes/assumptions/65.md). -/
def hsrForward (p : Fin 4) (s : State) : State :=
  match (s.io.ports[p]).fwd with
  | [] => s
  | (f, rx) :: rest =>
    let o := otherPort p
    let s := wakePorts [o] s
    if portHeld s o ∨ quietNow s ∨ !lineFree s o ∨ guarded s o f.length then s
    else
      let s := modPort p (fun x => { x with fwd := rest }) s
      if !ptUp s o ∨ s.flt.underTest.contains (.netPort o) then s
      else
        let start := txStart s o (now16 s)
        let stamp := wrapTime ((start : Int) + sgn 64 (s.reg ((Blk.netPort o).base + 0x020)))
        let h := 12 + vlanLen f
        let ptp := if be16 f h = 0x892F then h + 6 else h
        let dly := sgn 64 (s.reg ((Blk.netPair (pairOf p)).base + (if p.val % 2 = 0 then 0x008 else 0x010)))
        let g := if be16 f ptp = 0x88F7 ∧ (f.getD (ptp + 2) 0).toNat % 16 = 0 then
            addCorrection f (ptp + 2) ((stamp : Int) - rx + dly)
          else f
        sendFrame o start g s

/-- A port's link comes up or goes down (R377): its speed is that of its PHY, or the SGMII control word's. -/
def portLink (p : Fin 4) (up : Bool) (speed : Nat) (s : State) : State :=
  if up then
    if !ptEn s p ∨ domState s (103 + p.val) ≠ 0 ∨ padHeld s (103 + p.val) then s
    else
      let phy := s.rd (ptF p 0 1 0)
      let v := if phy = 0 then 3 else if phy = 1 then 2 else min speed 2
      condition (.netPort p) 0 false ((s.wr (ptF p 0x028 2 1) v).wr (ptF p 0x028 0 0) 1)
  else if s.rd (ptF p 0x028 0 0) = 0 then s
  else condition (.netPort p) 0 true (ptCount p 13 (s.wr (ptF p 0x028 0 0) 0))

/-! ### Meanings -/

/-- FRAME_RECEIVE (R378). -/
def execFrameReceive (p : Fin 4) (bytes : List Byte) (s : State) : Answer := .next (frameReceive p bytes s)
/-- HSR_FORWARD (R386): p is the port on which the frame arrived. -/
def execHsrForward (p : Fin 4) (s : State) : Answer := .next (hsrForward p s)
/-- DUP_ENTRY_AGEOUT (R385). -/
def execDupEntryAgeout (pair : Fin 2) (s : State) : Answer := .next (ageOut pair s)
/-- TX_REQUEST (R388). -/
def execTxRequest (p : Fin 4) (s : State) : Answer := .next (txRequest p s)
/-- SCHEDULED_TRANSMIT (R390). -/
def execScheduledTransmit (p : Fin 4) (s : State) : Answer := .next (scheduledTransmit p s)
/-- PORT_LINK_CHANGE (R377). -/
def execPortLinkChange (p : Fin 4) (up : Bool) (speed : BitVec 2) (s : State) : Answer :=
  .next (portLink p up speed.toNat s)

end Sys2Proof.Machine
end

