-- ==== Sys2Proof/Machine/HostIo.lean ====
section
/-!
DEFINITION. The external interfaces (13): the PCIe link and its messages (R399, R527), the DDR5 channel's
recalibration (R402) and xSPI commands (R404). Held requests that these release are served in Release.lean.
-/
namespace Sys2Proof.Machine

/-! ### PCIe (R399, R527) -/

/-- The device trains the link: PERST_N negated, the HST profile applied, the pad hold of domain 111 open (R527). -/
def pcieMayTrain (s : State) : Bool := s.host.perst && s.host.profile && !padHeld s 111 && domState s 111 == 0

/-- The link widths and rates that the endpoint has (R397). -/
def linkOk (gen width : Nat) : Bool := 1 ≤ gen && gen ≤ 4 && (width == 1 || width == 2 || width == 4 || width == 8)

/-- The link comes up at a rate no higher than MAXGEN, or goes down (R397, R527). -/
def pcieLink (up : Bool) (gen width : Nat) (s : State) : State :=
  let u := F .hstPcie 4 0 0
  if up then
    if !pcieMayTrain s || !linkOk gen width then s
    else
      let s := (s.wr (F .hstPcie 4 3 1) (min gen (s.rd (F .hstPcie 0 3 0)))).wr (F .hstPcie 4 7 4) width
      condition .hstPcie 0 false (s.wr u 1)
  else if s.rd u = 0 then s
  else condition .hstPcie 0 true (s.wr u 0)

/-- Vector control of an MSI-X vector, and its pending bit (R399). -/
def msixCtl (v : Nat) : Fld := F .hstPcie (0x4000 + 16 * v + 0xC) 0 0
def msixPend (v : Nat) : Fld := F .hstPcie (0xC000 + 4 * (v / 32)) (v % 32) (v % 32)

/-- Unmask a vector: a pending one sends one message (R399). -/
def msixUnmask (v : Nat) (s : State) : State :=
  let s := s.wr (msixCtl v) 0
  if s.rd (msixPend v) = 1 then emit (.msix v) (s.wr (msixPend v) 0) else s

/-- The host's message: a record in the inbound ring of the handle (R399). -/
def hostMessage (h : Nat) (s : State) : State :=
  let ring := (entryOf s h).word 2
  if checkHandle s kVector h ≠ 0 ∨ ring = 0 then configErr .hstPcie 0x018 s
  else postRecord ⟨.host, BitVec.ofNat 32 ring,
    { word0 := BitVec.ofNat 32 h, type := 0x40, partialRec := false, error := false, last := true, summary := 0,
      word6 := BitVec.ofNat 32 (s.rd (F32 .hstPcie 0x010)), word7 := BitVec.ofNat 32 (s.rd (F32 .hstPcie 0x014)),
      payload := [] }⟩ (stamp96 (now16 s)) s

/-! ### DDR5 (R402, R411) -/

def ddrReady (s : State) : Bool := s.rd (F .hstDdr 4 0 0) = 1
/-- Whether the controller serves accesses now: READY, no recalibration, and the pad hold of its PHY open (R402, R426). -/
def ddrServes (s : State) : Bool := ddrReady s && !s.host.recal && !padHeld s 113

/-! ### xSPI (R403, R404) -/

/-- DATA0 to DATA63. -/
def xspiData (s : State) : List Byte := (List.range 64).flatMap fun i => leBytes 4 (s.rd (F32 .hstXspi (0x010 + 4 * i)))

/-- A command that waits goes to the flash once CUSTODY has none ready, which goes first, and the pad hold is open (R404, R426). -/
def xspiStart (s : State) : State :=
  match s.host.xspi with
  | some c =>
    if c.started || custodyReady s || padHeld s 117 then s
    else emit (.flash c.cs c.opcode c.addr c.data) { s with host := { s.host with xspi := some { c with started := true } } }
  | none => s

/-- A write of HST_XSPI_CMD; one while BUSY is ignored and sets CONFIG_ERR (R404). -/
def xspiCommand (v : Nat) (s : State) : State :=
  if s.host.xspi.isSome then configErr .hstXspi 4 s
  else
    let s := activity 117 s
    let c : XspiCmd := ⟨bits v 15 8, bits v 0 0, s.rd (F32 .hstXspi 8), xspiData s, false⟩
    xspiStart ({ s with host := { s.host with xspi := some c } }.wr (F .hstXspi 4 31 31) 1)

/-- A command ends: its effect, the data it returned, BUSY clear (R404). -/
def xspiDone (ok : Bool) (data : List Byte) (s : State) : State :=
  match s.host.xspi with
  | none => s
  | some c =>
    if !c.started then s else
    let s := { s with host := { s.host with xspi := none } }
    let s := s.wr (F .hstXspi 4 31 31) 0
    let s := if ok then flashEffect c s else s
    let n := min 64 ((data.length + 3) / 4)
    forAll (List.range n) (fun i s => s.wr (F32 .hstXspi (0x010 + 4 * i)) (leNat ((data.drop (4 * i)).take 4))) s

/-! ### Meanings -/

/-- PCIE_LINK_CHANGE (R527). -/
def execPcieLinkChange (up : Bool) (gen : BitVec 3) (width : BitVec 4) (s : State) : Answer :=
  .next (pcieLink up gen.toNat width.toNat s)
/-- MSIX_UNMASK (R399): the host clears the vector's mask. -/
def execMsixUnmask (v : BitVec 11) (s : State) : Answer :=
  .next (reaches 11 .hstPcie (0x400C + 16 * v.toNat) (write32 0) (msixUnmask v.toNat) s)
/-- HOST_MESSAGE (R399). -/
def execHostMessage (m : Master) (h : W32) (s : State) : Answer :=
  .next (reaches m .hstPcie 0x018 (write32 h.toNat) (hostMessage h.toNat) s)
/-- XSPI_COMMAND (R404). -/
def execXspiCommand (m : Master) (v : W32) (s : State) : Answer :=
  .next (reaches m .hstXspi 4 (write32 v.toNat) (xspiCommand v.toNat) s)

end Sys2Proof.Machine
end

