-- ==== Sys2Proof/Machine/Mover.lean ====
section
/-!
DEFINITION. The Mover (05, R188 to R196): descriptors, the six operations, halts, channel commands and the
completion record.
-/
namespace Sys2Proof.Machine

/-- Master ID of the Mover (R126). -/
def mMover : Nat := 8

/-- CRC-32C over one byte, reflected (R190). -/
def crc32cByte (c : Nat) (b : Byte) : Nat :=
  (List.range 8).foldl (fun c _ => if c % 2 = 1 then (c / 2) ^^^ 0x82F63B78 else c / 2) (c ^^^ b.toNat)

/-- CRC-32C continued from a previous result; from 0, the plain CRC of the bytes (R190). -/
def crc32c (seed : Nat) (bs : List Byte) : Nat :=
  (bs.foldl crc32cByte (seed ^^^ 0xFFFFFFFF)) ^^^ 0xFFFFFFFF

/-- Words of a descriptor (R189). -/
def dOp (d : List Nat) : Nat := bits (wordAt d 0) 3 0
def dQuiet (d : List Nat) : Bool := bit (wordAt d 0) 15
def dLen (d : List Nat) : Nat := wordAt d 1
def dSrc (d : List Nat) : Nat := wordAt d 2
def dDst (d : List Nat) : Nat := wordAt d 3
def dSrcOff (d : List Nat) : Nat := wordAt d 4 + bits (wordAt d 5) 7 0 * 2 ^ 32
def dDstOff (d : List Nat) : Nat := wordAt d 6 + bits (wordAt d 7) 7 0 * 2 ^ 32
def dIdx (d : List Nat) : Nat := wordAt d 8
def dIdxOff (d : List Nat) : Nat := wordAt d 9
def dEsize (d : List Nat) : Nat := 2 ^ bits (wordAt d 10) 2 0
def dPattern (d : List Nat) : List Byte := leBytes 4 (wordAt d 11) ++ leBytes 4 (wordAt d 12)

def opCopy : Nat := 0
def opFill : Nat := 1
def opGather : Nat := 2
def opScatter : Nat := 3
def opTagfill : Nat := 4
def opCrc32c : Nat := 5

/-- Status codes of R194. -/
def mvOk : Nat := 0
def mvEcc : Nat := 0x20
def mvRegion : Nat := 0x21
def mvWrite : Nat := 0x22
def mvCancelled : Nat := 0x24
def mvSkipped : Nat := 0x25

/-- Whether an operation uses the source, the destination, the index list. -/
def usesSrc (op : Nat) : Bool := op != opFill && op != opTagfill
def usesDst (op : Nat) : Bool := op != opCrc32c
def usesIdx (op : Nat) : Bool := op == opGather || op == opScatter

/-- Whether reserved and unused words are 0 (R189). -/
def descFieldsOk (d : List Nat) : Bool :=
  let op := dOp d
  let z (j : Nat) : Bool := wordAt d j == 0
  bits (wordAt d 0) 31 16 == 0 && bits (wordAt d 0) 14 4 == 0 && wordAt d 5 < 256 && wordAt d 7 < 256 && z 15
  && (usesSrc op || (z 2 && z 4 && z 5)) && (usesDst op || (z 3 && z 6 && z 7))
  && (if usesIdx op then wordAt d 10 < 7 else z 8 && z 9 && z 10)
  && (op == opFill || (z 11 && z 12))
  && (if op == opTagfill then wordAt d 13 < 16 else op == opCrc32c || z 13)

/-- The status of a handle's failed check (R194). -/
def handleStatus (c : Nat) : Nat := if c = cNull then 5 else if c = cStale then 6 else 7

/-- The checks of R191, in order: 0, or the status of the first failure. -/
def descCheck (s : State) (d : List Nat) : Nat :=
  let op := dOp d
  let n := dLen d
  let hs := (if usesSrc op then [(dSrc d, false)] else []) ++ (if usesDst op then [(dDst d, true)] else [])
    ++ (if usesIdx op then [(dIdx d, false)] else [])
  if op > 5 then 1
  else if !descFieldsOk d then 2
  else if n = 0 then 4
  else match hs.findSome? (fun p => let c := checkHandle s kRegion p.1; if c = 0 then none else some (handleStatus c)) with
    | some st => st
    | none =>
      let reg (h : Nat) : Region := regionOf (entryOf s h)
      if hs.any (fun p => if p.2 then !(reg p.1).wr else !(reg p.1).rd) then 8
      else
        let bytes := if op = opTagfill then 0 else if usesIdx op then n * dEsize d else n
        let srcOk := op = opFill ∨ op = opTagfill ∨ op = opGather ∨ dSrcOff d + bytes ≤ (reg (dSrc d)).len
        let dstOk := op = opCrc32c ∨ op = opScatter
          ∨ (if op = opTagfill then dDstOff d + n ≤ 2 * (reg (dDst d)).len else dDstOff d + bytes ≤ (reg (dDst d)).len)
        let idxOk := !usesIdx op ∨ dIdxOff d + 4 * n ≤ (reg (dIdx d)).len
        if ¬ (srcOk ∧ dstOk ∧ idxOk) then 9
        else
          let src := (reg (dSrc d)).base + dSrcOff d
          let dst := (reg (dDst d)).base + dDstOff d
          if op = opCopy ∧ src < dst ∧ dst < src + n then 10
          else if usesIdx op ∧ dIdxOff d % 4 ≠ 0 then 11
          else 0

/-! ### Engines -/

/-- Replace an engine. -/
def setEngine (e : Fin 16) (g : Engine) (s : State) : State :=
  { s with stk := { s.stk with engines := s.stk.engines.set e g } }

/-- Update an engine in place. -/
def onEngine (e : Fin 16) (f : Engine → Engine) (s : State) : State := setEngine e (f s.stk.engines[e]) s

/-- Replace a word of a channel's entry. -/
def setChWord (h j v : Nat) (s : State) : State :=
  if checkHandle s kChannel h = 0 then setEntry (hIndex h) ((entryOf s h).withWord j v) s else s

/-- HALTED of a channel (R165). -/
def halted (s : State) (h : Nat) : Bool := bit ((entryOf s h).word 1) 9

def descRing (s : State) (h : Nat) : Nat := ringNo s ((entryOf s h).word 2)

/-- Whether a channel's descriptor ring holds a descriptor; its handle is checked at each use (R162, R171). -/
def descThere (s : State) (h : Nat) : Bool :=
  checkHandle s kChannel h = 0 && checkHandle s kRing ((entryOf s h).word 2) = 0 && ringLive s (descRing s h)
  && occupancy s (descRing s h) ≥ 64

/-- The descriptor at CONS of a channel's descriptor ring, if one is there. R192 speaks of errors on reads of elements and indices
only: that a failing read of the descriptor itself delivers zeros, with which it ends LENGTH_ZERO, is a DESIGN CHOICE
(notes/assumptions/67.md). -/
def fetchDesc (h : Nat) (s : State) : Option (State × List Nat) :=
  let r := descRing s h
  if descThere s h then
    let got := memRead mMover accRead (ringAddr s r (s.reg (ringReg r 0x14))) 64 s
    some (got.st, leWords 4 16 got.data)
  else none

/-- Whether a channel has work: served, not halted, a descriptor in its ring. -/
def channelReady (s : State) (h : Nat) : Bool := descThere s h && !halted s h

/-- The regions that a descriptor's handles name (R163). -/
def descRegions (s : State) (d : List Nat) : List (Nat × Region) :=
  [dSrc d, dDst d, dIdx d].map (fun h => (h, regionOf (entryOf s h)))

/-- What a channel starts with, and the status of the checks of R191: the descriptor that RESUME has continued, whose checks it
made (R195), or the one at CONS from its first element. -/
def nextDesc (g : Engine) (h : Nat) (s : State) : Option (State × Resumed × Nat) :=
  match g.resumes.find? (fun p => p.ch = h) with
  | some x => some (s, x, 0)
  | none => (fetchDesc h s).map fun p => (p.1, ⟨h, 0, wordAt p.2 13, p.2, descRegions p.1 p.2⟩, descCheck p.1 p.2)

/-- An idle engine takes the next descriptor round-robin, in a domain that its work makes run (R421); its checks come before any data moves (R191).
A channel that RESUME has continued starts at its element, with the checks that RESUME made (R195). -/
def startNext (e : Fin 16) (s : State) : State :=
  let g := s.stk.engines[e]
  if g.cur.isSome ∨ g.waiting ∨ quietNow s then s
  else match g.chans.find? (channelReady s) with
    | none => s
    | some h =>
      let s := activity 101 s
      if domState s 101 ≠ 0 then s
      else match nextDesc g h s with
      | none => s
      | some (s, x, st) =>
        let chans := (g.chans.filter (· ≠ h)) ++ [h]
        let ended := if st = 0 then none else some ⟨st, 0, 0, 0⟩
        let s := setEngine e { g with chans := chans, cur := some h, desc := x.desc, pos := x.pos, crc := x.crc, ended := ended,
                                      regions := x.regions, failing := none, cancel := false, resumes := g.resumes.filter (fun p => p.ch ≠ h) } s
        (s.wr (F .movMvr (0x100 + 4 * e.val) 31 31) 1).wr (F .movMvr (0x100 + 4 * e.val) 14 0) (hIndex h)

/-- How one transfer of a descriptor ends: elements moved with the running CRC, or a failure at its first element. -/
inductive Moved where
  | done (n : Nat) (crc : Nat)
  | fail (f : MovFail)

/-- A read inside a region for an element: data, or the failure it makes (R192). -/
def movRead (side a n : Nat) (s : State) : State × Except MovFail (List Byte) :=
  let g := memRead mMover accRead a n s
  if g.code = 0 then (g.st, .ok g.data)
  else (g.st, .error ⟨if g.code = rUe then mvEcc else mvRegion, g.code, side, a⟩)

/-- A write of an element: done, or WRITE_ERROR (R193). -/
def movWrite (a : Nat) (bs : List Byte) (s : State) : State × Option MovFail :=
  let (s, c) := memWrite mMover a bs s
  (s, if c = 0 then none else some ⟨mvWrite, c, 1, a⟩)

/-- Bytes that one transfer moves from byte k: up to the end of each word it touches and of the checkpoint interval (R193). -/
def chunk (as : List Nat) (k len : Nat) : Nat := as.foldl (fun n a => min n (8 - a % 8)) (min (4096 - k % 4096) (len - k))

/-- The check of the descriptor's handles at a checkpoint (R193): the first stale one's side and address 0. -/
def checkpoint (s : State) (d : List Nat) (k : Nat) : Option MovFail :=
  if k % 4096 = 0 then
    let op := dOp d
    if usesSrc op ∧ checkHandle s kRegion (dSrc d) ≠ 0 then some ⟨mvRegion, 0, 0, 0⟩
    else if usesDst op ∧ checkHandle s kRegion (dDst d) ≠ 0 then some ⟨mvRegion, 0, 1, 0⟩
    else if usesIdx op ∧ checkHandle s kRegion (dIdx d) ≠ 0 then some ⟨mvRegion, 0, 2, 0⟩
    else none
  else none

/-- The longest prefix of a transfer whose bytes can be read, when the whole cannot: byte by byte (R192). -/
def readFrom (side a n : Nat) (s : State) : State × List Byte × Option MovFail :=
  match movRead side a n s with
  | (s, .ok bs) => (s, bs, none)
  | (s, .error f) => (s, [], some f)

/-- COPY from byte k (R190). -/
def moveCopy (d : List Nat) (src dst : Region) (k : Nat) (s : State) : State × Moved :=
  let a := src.base + dSrcOff d + k
  let b := dst.base + dDstOff d + k
  let n := chunk [a, b] k (dLen d)
  match readFrom 0 a n s with
  | (s, _, some f) => (s, .fail f)
  | (s, bs, none) =>
    match movWrite b bs s with
    | (s, some f) => (s, .fail f)
    | (s, none) => (s, .done n 0)

/-- FILL from byte k (R190): byte j receives pattern byte j mod 8. -/
def moveFill (d : List Nat) (dst : Region) (k : Nat) (s : State) : State × Moved :=
  let a := dst.base + dDstOff d + k
  let n := chunk [a] k (dLen d)
  let bs := (List.range n).map (fun j => (dPattern d).getD ((k + j) % 8) 0)
  match movWrite a bs s with
  | (s, some f) => (s, .fail f)
  | (s, none) => (s, .done n 0)

/-- One element of a GATHER or SCATTER (R190): the indexed side is checked as it is issued. -/
def moveIndexed (gather : Bool) (d : List Nat) (src dst idx : Region) (k : Nat) (s : State) : State × Moved :=
  match movRead 2 (idx.base + dIdxOff d + 4 * k) 4 s with
  | (s, .error f) => (s, .fail f)
  | (s, .ok ib) =>
    let z := dEsize d
    let x := leNat ib
    let so := if gather then dSrcOff d + x * z else dSrcOff d + k * z
    let dof := if gather then dDstOff d + k * z else dDstOff d + x * z
    if gather ∧ so + z > src.len then (s, .fail ⟨mvRegion, 0, 0, src.base + so⟩)
    else if !gather ∧ dof + z > dst.len then (s, .fail ⟨mvRegion, 0, 1, dst.base + dof⟩)
    else match movRead 0 (src.base + so) z s with
      | (s, .error f) => (s, .fail f)
      | (s, .ok bs) =>
        match movWrite (dst.base + dof) bs s with
        | (s, some f) => (s, .fail f)
        | (s, none) => (s, .done 1 0)

/-- The byte that a nibble's write is merged into: the host's memory is read for it, any other merges at the memory (R48). -/
def mergeByte (a : Nat) (s : State) : State × Except MovFail Nat :=
  if rangeIn pcieBase pcieSize a 1 then
    match movRead 1 a 1 s with
    | (s, .error f) => (s, .error { f with status := mvRegion })
    | (s, .ok b) => (s, .ok (leNat b))
  else (s, .ok (peekByte s a))

/-- TAGFILL of nibble k (R190): the other nibble of the byte stays. -/
def moveTag (d : List Nat) (dst : Region) (k : Nat) (s : State) : State × Moved :=
  let nb := dDstOff d + k
  let a := dst.base + nb / 2
  let tag := bits (wordAt d 13) 3 0
  match mergeByte a s with
  | (s, .error f) => (s, .fail f)
  | (s, .ok b) =>
    let v := if nb % 2 = 0 then putBits b 3 0 tag else putBits b 7 4 tag
    match movWrite a [BitVec.ofNat 8 v] s with
    | (s, some f) => (s, .fail f)
    | (s, none) => (s, .done 1 0)

/-- CRC32C from byte k (R190). -/
def moveCrc (d : List Nat) (src : Region) (k crc : Nat) (s : State) : State × Moved :=
  let a := src.base + dSrcOff d + k
  let n := chunk [a] k (dLen d)
  match readFrom 0 a n s with
  | (s, _, some f) => (s, .fail f)
  | (s, bs, none) => (s, .done n (crc32c crc bs))

/-- One transfer of the running descriptor, or its end: cancelled, at its length, or failing (R192, R193, R195). -/
def transfer (e : Fin 16) (s : State) : State :=
  let g := s.stk.engines[e]
  if g.ended.isSome ∨ g.failing.isSome ∨ g.waiting then s
  else if g.cancel then setEngine e { g with ended := some ⟨mvCancelled, 0, 0, 0⟩ } s
  else if g.pos ≥ dLen g.desc then setEngine e { g with ended := some ⟨mvOk, 0, 0, 0⟩ } s
  else match checkpoint s g.desc g.pos with
    | some f => setEngine e { g with failing := some f } s
    | none =>
      let d := g.desc
      let r (h : Nat) : Region := ((g.regions.find? (fun p => p.1 = h)).map Prod.snd).getD ⟨0, 0, false, false⟩
      let (s, out) := match dOp d with
        | 0 => moveCopy d (r (dSrc d)) (r (dDst d)) g.pos s
        | 1 => moveFill d (r (dDst d)) g.pos s
        | 2 => moveIndexed true d (r (dSrc d)) (r (dDst d)) (r (dIdx d)) g.pos s
        | 3 => moveIndexed false d (r (dSrc d)) (r (dDst d)) (r (dIdx d)) g.pos s
        | 4 => moveTag d (r (dDst d)) g.pos s
        | _ => moveCrc d (r (dSrc d)) g.pos g.crc s
      let g := s.stk.engines[e]
      match out with
      | .fail f => setEngine e { g with failing := some f } s
      | .done n crc =>
        let pos := g.pos + n
        setEngine e { g with pos := pos, crc := crc, ended := if pos ≥ dLen d then some ⟨mvOk, 0, 0, 0⟩ else none } s

/-- An engine serves a descriptor of one operation: it takes it if idle, and makes up to n transfers. A descriptor of a reserved
operation is taken by whichever command serves its engine, and ends with OP_RESERVED (R191, R194). -/
def serve (op : Nat) (e : Fin 16) (n : Nat) (s : State) : State :=
  let g := s.stk.engines[e]
  let next := (g.chans.find? (channelReady s)).bind (fun h => (nextDesc g h s).map (fun p => dOp p.2.1.desc))
  let s := if g.cur.isNone ∧ next.any (fun p => decide (p = op ∨ 5 < p)) then startNext e s else s
  let g := s.stk.engines[e]
  if g.cur.isSome ∧ dOp g.desc = op then (List.range n).foldl (fun s _ => transfer e s) s else s

/-! ### Records and ends (R192, R196) -/

/-- The body of a Mover completion record (R196). -/
def moverRecord (ch : Nat) (d : List Nat) (f : MovFail) (done fail crc : Nat) (last part : Bool) : RecordBody :=
  { word0 := BitVec.ofNat 32 ch, type := 0x30, partialRec := part, error := f.status ≠ 0, last := last,
    summary := if dOp d = opTagfill then BitVec.ofNat 4 (wordAt d 13) else 0,
    word6 := BitVec.ofNat 32 (wordAt d 14), word7 := BitVec.ofNat 32 f.status,
    payload := leBytes 4 done ++ leBytes 4 fail ++ leBytes 4 (f.resp * 256 + f.side) ++ leBytes 4 crc
      ++ leBytes 8 f.addr ++ leBytes 8 0 }

/-- Write a record of a channel to its completion ring; on a full BLOCK ring the engine waits (R196). -/
def moverPost (e : Fin 16) (ch : Nat) (b : RecordBody) (s : State) : State :=
  let (s, w) := postWaiting (.engine e) ⟨.mover e, BitVec.ofNat 32 ((entryOf s ch).word 3), b⟩ (stamp96 (now16 s)) s
  if w then
    (onEngine e (fun g => { g with waiting := true }) s).wr (F .movMvr (0x100 + 4 * e.val) 30 30) 1
  else s

/-- Release a channel that DISABLE has stopped (R195). -/
def releaseChannel (h : Nat) (s : State) : State :=
  let s := forAll (channelBinds s h) unbindH s
  setChWord h 1 (setBit ((entryOf s h).word 1) 8 false) s

/-- The engine is idle again; a channel leaving is released (R195). -/
def engineIdle (e : Fin 16) (s : State) : State :=
  let g := s.stk.engines[e]
  let s := s.wr (F .movMvr (0x100 + 4 * e.val) 31 31) 0
  let go := g.leaving.filter (fun h => g.cur = some h)
  let s := setEngine e { g with cur := none, desc := [], ended := none, failing := none, cancel := false,
                                leaving := g.leaving.filter (fun h => g.cur ≠ some h),
                                chans := g.chans.filter (fun h => ¬ (g.leaving.contains h ∧ g.cur = some h)) } s
  forAll go releaseChannel s

/-- The CRC that a record reports: the result of a CRC32C descriptor. -/
def recordCrc (g : Engine) : Nat := if dOp g.desc = opCrc32c then g.crc else 0

/-- A descriptor has ended: its record, STATUS and count of the entry, and CONS past it (R196). -/
def descriptorComplete (e : Fin 16) (s : State) : State :=
  let g := s.stk.engines[e]
  match g.cur, g.ended with
  | some h, some f =>
    let moved := if f.status = mvOk ∨ f.status = mvCancelled then g.pos else 0
    let s := setChWord h 6 f.status s
    let s := setChWord h 7 (((entryOf s h).word 7 + 1) % 2 ^ 32) s
    let s := if dQuiet g.desc ∧ f.status = mvOk then s
      else moverPost e h (moverRecord h g.desc f moved 0xFFFFFFFF
        (if f.status = mvOk ∨ f.status = mvCancelled then recordCrc g else 0) true false) s
    let r := descRing s h
    let s := if descThere s h then advanceCons r (s.reg (ringReg r 0x14) + 64) s else s
    engineIdle e s
  | _, _ => s

/-- A channel halts at its failing element (R192, R193): entry, record with ERROR and PARTIAL, CHANNEL_HALT. -/
def haltChannel (e : Fin 16) (writeError : Bool) (s : State) : State :=
  let g := s.stk.engines[e]
  match g.cur, g.failing with
  | some h, some f =>
    if (f.status = mvWrite) ≠ writeError then s
    else
      let s := setChWord h 4 g.pos s
      let s := setChWord h 5 (if dOp g.desc = opCrc32c then g.crc else 0) s
      let s := setChWord h 6 f.status s
      let s := setChWord h 1 (setBit ((entryOf s h).word 1) 9 true) s
      let s := moverPost e h (moverRecord h g.desc f g.pos g.pos (recordCrc g) false true) s
      let s := reportFrom (targetBlk s f.addr) .movMvr 0 s
      engineIdle e s
  | _, _ => s

/-! ### Commands on a channel (R195) -/

/-- The engine of a channel. -/
def engineOf (s : State) (h : Nat) : Fin 16 := Fin.ofNat 16 (bits ((entryOf s h).word 1) 3 0)

/-- The channel handle in CHARG. -/
def charg (s : State) : Nat := s.reg (Blk.base .movMvr)

/-- A command on the channel in CHARG; a failing check sets CONFIG_ERR and does nothing (05, Registers). -/
def onChannel (f : Nat → State → State) (s : State) : State :=
  if checkHandle s kChannel (charg s) = 0 then f (charg s) s else configErr .movMvr 4 s

/-- ENABLE: the channel is served and bound, unless it already is or a BINDS would pass 4,095 (R168, R195). One that a DISABLE lets
finish its descriptor is served on. -/
def channelEnable (h : Nat) (s : State) : State :=
  if bit ((entryOf s h).word 1) 8 then onEngine (engineOf s h) (fun g => { g with leaving := g.leaving.filter (· ≠ h) }) s
  else
    let bs := channelBinds s h
    if bs.any (fun x => bindsFull s x (bs.filter (· == x)).length) then configErr .movMvr 4 s
    else
      let s := setChWord h 1 (setBit ((entryOf s h).word 1) 8 true) s
      forAll bs bindH (serveChannel h s)

/-- DISABLE: the channel stops after its current descriptor and its bindings are released (R195). -/
def channelDisable (h : Nat) (s : State) : State :=
  if !bit ((entryOf s h).word 1) 8 then s
  else
    let e := engineOf s h
    let g := s.stk.engines[e]
    if g.cur = some h then setEngine e { g with leaving := if g.leaving.contains h then g.leaving else g.leaving ++ [h] } s
    else
      let s := setEngine e { g with chans := g.chans.filter (· ≠ h) } s
      releaseChannel h s

/-- RESUME of a halted channel: all checks again, then the descriptor continues at FAIL_ELEMENT (R195). -/
def channelResume (h : Nat) (s : State) : State :=
  if !halted s h then s
  else
    match fetchDesc h s with
    | none => s
    | some (s, d) =>
      let e := engineOf s h
      let k := (entryOf s h).word 4
      let st := descCheck s d
      if st ≠ 0 then
        moverPost e h (moverRecord h d ⟨st, 0, 0, 0⟩ k k 0 false false) (setChWord h 6 st s)
      else
        let crc := (entryOf s h).word 5
        let s := onEngine e (fun g => { g with resumes := g.resumes ++ [⟨h, k, crc, d, descRegions s d⟩] }) s
        setChWord h 4 0xFFFFFFFF (setChWord h 1 (setBit ((entryOf s h).word 1) 9 false) s)

/-- SKIP of a halted channel: a record with SKIPPED and LAST, CONS past the descriptor, HALTED clear (R195). -/
def channelSkip (h : Nat) (s : State) : State :=
  if !halted s h then s
  else
    match fetchDesc h s with
    | none => s
    | some (s, d) =>
      let e := engineOf s h
      let k := (entryOf s h).word 4
      let s := setChWord h 6 mvSkipped s
      let s := setChWord h 7 (((entryOf s h).word 7 + 1) % 2 ^ 32) s
      let s := moverPost e h (moverRecord h d ⟨mvSkipped, 0, 0, 0⟩ k k 0 true false) s
      let r := descRing s h
      let s := advanceCons r (s.reg (ringReg r 0x14) + 64) s
      setChWord h 4 0xFFFFFFFF (setChWord h 1 (setBit ((entryOf s h).word 1) 9 false) s)

/-- CANCEL of the descriptor that runs (R195). -/
def channelCancel (h : Nat) (s : State) : State :=
  let e := engineOf s h
  let g := s.stk.engines[e]
  if g.cur = some h ∧ g.ended.isNone ∧ !halted s h then setEngine e { g with cancel := true } s else s

/-! ### Meanings -/

/-- MOVER_COPY (R190). -/
def execMoverCopy (e : Fin 16) (n : Nat) (s : State) : Answer := .next (serve opCopy e n s)
/-- MOVER_FILL (R190). -/
def execMoverFill (e : Fin 16) (n : Nat) (s : State) : Answer := .next (serve opFill e n s)
/-- MOVER_GATHER (R190). -/
def execMoverGather (e : Fin 16) (n : Nat) (s : State) : Answer := .next (serve opGather e n s)
/-- MOVER_SCATTER (R190). -/
def execMoverScatter (e : Fin 16) (n : Nat) (s : State) : Answer := .next (serve opScatter e n s)
/-- MOVER_TAGFILL (R190). -/
def execMoverTagfill (e : Fin 16) (n : Nat) (s : State) : Answer := .next (serve opTagfill e n s)
/-- MOVER_CRC32C (R190). -/
def execMoverCrc32c (e : Fin 16) (n : Nat) (s : State) : Answer := .next (serve opCrc32c e n s)
/-- MOVER_HALT (R192). -/
def execMoverHalt (e : Fin 16) (s : State) : Answer := .next (haltChannel e false s)
/-- MOVER_WRITE_ERROR (R193). -/
def execMoverWriteError (e : Fin 16) (s : State) : Answer := .next (haltChannel e true s)
/-- MOVER_DESCRIPTOR_COMPLETE (R196). -/
def execMoverDescriptorComplete (e : Fin 16) (s : State) : Answer := .next (descriptorComplete e s)
/-- CHANNEL_ENABLE (R195). -/
def execChannelEnable (m : Master) (s : State) : Answer := .next (reaches m .movMvr 4 (write32 1) (onChannel channelEnable) s)
/-- CHANNEL_DISABLE (R195). -/
def execChannelDisable (m : Master) (s : State) : Answer := .next (reaches m .movMvr 4 (write32 2) (onChannel channelDisable) s)
/-- CHANNEL_RESUME (R195). -/
def execChannelResume (m : Master) (s : State) : Answer := .next (reaches m .movMvr 4 (write32 3) (onChannel channelResume) s)
/-- CHANNEL_SKIP (R195). -/
def execChannelSkip (m : Master) (s : State) : Answer := .next (reaches m .movMvr 4 (write32 4) (onChannel channelSkip) s)
/-- CHANNEL_CANCEL (R195). -/
def execChannelCancel (m : Master) (s : State) : Answer := .next (reaches m .movMvr 4 (write32 5) (onChannel channelCancel) s)

end Sys2Proof.Machine
end

