-- ==== Sys2Proof/Machine/Vault.lean ====
section
/-!
DEFINITION. The settings vault and the fuses (16): flash layout, journal and system records, replay, commits,
power cut, compaction, rollback counter and preferred slot.
-/
namespace Sys2Proof.Machine

/-- Update custody. -/
def onCus (f : CusState → CusState) (s : State) : State := { s with cus := f s.cus }

/-! ### Flash -/

/-- Give a flash byte a value; an erased byte is not listed. -/
def flashSet (cs a : Nat) (b : Byte) (s : State) : State :=
  let put (m : NMap Byte) : NMap Byte := if b = 0xFF then ndel a m else nput a b m
  if cs = 0 then { s with flash0 := put s.flash0 } else { s with flash1 := put s.flash1 }

/-- Program bytes: a programmed bit stays 0 until an erase. -/
def flashProgram (cs a : Nat) (bs : List Byte) (s : State) : State :=
  ((List.range bs.length).zip bs).foldl (fun s (i, b) => flashSet cs (a + i) (flashByte s cs (a + i) &&& b) s) s

/-- Erase a range. -/
def flashErase (cs a n : Nat) (s : State) : State :=
  if cs = 0 then { s with flash0 := ndelRange a n s.flash0 } else { s with flash1 := ndelRange a n s.flash1 }

/-- Bytes of a flash. -/
def flashBytes (s : State) (cs a n : Nat) : List Byte := (List.range n).map (fun i => flashByte s cs (a + i))

/-! ### Layout (R464 to R466) -/

def vaultBlocks (s : State) : Nat := s.rd (F .cusVlt 8 4 0)
/-- Bytes of journal. -/
def journalSize (s : State) : Nat := vaultBlocks s * 65536

/-- A command of another master is at the vault's chip select, so CUSTODY's next record waits (R404); an erase is suspended for it where
the flash can (R473). -/
def flashTaken (s : State) : Bool :=
  s.host.xspi.any (fun c => c.started && c.cs == (vaultHome s).1 && !(c.erases && Config.eraseSuspend c.cs))

/-- A chip select is programming or erasing, for a command or for CUSTODY (R404). -/
def flashBusy (s : State) (cs : Nat) : Bool :=
  padHeld s 117 || (programming s cs).isSome || (s.cus.flying.isSome && (vaultHome s).1 == cs)

/-- Whether the region fits the flash (R464). -/
def vaultFits (s : State) : Bool :=
  let (cs, b) := vaultHome s
  b + 0x20000 + journalSize s ≤ flashSize s cs

/-- Whether a commit finds a vault: the region fits, and the state is neither RETURN nor END (R472). -/
def vaultThere (s : State) : Bool := vaultFits s && s.lc ≠ lcReturn && s.lc ≠ lcEnd

/-- PAGE_T rises to the longest page-program time observed (R471). -/
def pageTime (us : Nat) (s : State) : State := s.wr (F .cusVlt 0x018 15 0) (max us (s.rd (F .cusVlt 0x018 15 0)))

/-- Bytes of the region. -/
def vRead (s : State) (off n : Nat) : List Byte := flashBytes s (vaultHome s).1 ((vaultHome s).2 + off) n
/-- Program bytes of the region. -/
def vProgram (off : Nat) (bs : List Byte) (s : State) : State := flashProgram (vaultHome s).1 ((vaultHome s).2 + off) bs s
/-- Erase bytes of the region. -/
def vErase (off n : Nat) (s : State) : State := flashErase (vaultHome s).1 ((vaultHome s).2 + off) n s
/-- Region offset of an absolute journal position. -/
def jOffset (s : State) (pos : Nat) : Nat := 0x20000 + pos % journalSize s
/-- The listed bytes of the region's journal, as offsets within the journal. -/
def jListed (s : State) : List Nat :=
  let (cs, b) := vaultHome s
  ((if cs = 0 then s.flash0 else s.flash1).map Prod.fst).filterMap (fun a =>
    if b + 0x20000 ≤ a ∧ a < b + 0x20000 + journalSize s then some (a - b - 0x20000) else none)

/-- A completion marker (R465). -/
def marker (seq crc : Nat) : List Byte := leBytes 8 seq ++ leBytes 4 crc ++ leBytes 4 (0xFFFFFFFF - crc)

/-- Footprint of a journal record (R466). -/
def jFoot (len : Nat) : Nat := roundUp (48 + len) 64

/-- Bytes 0x00 to 0x0F of a journal record (R466). -/
def jHead (cls key seq len : Nat) : List Byte :=
  leBytes 4 (0x5652 * 2 ^ 16 + cls * 2 ^ 12) ++ leBytes 4 (key * 2 ^ 16 + len) ++ leBytes 8 seq

/-- CRC of a journal record as it is written (R466). -/
def jCrc (cls key seq : Nat) (payload : List Byte) : Nat := crc32c 0 (jHead cls key seq payload.length ++ payload)

/-- A journal record (R466). -/
def jRecord (cls key seq : Nat) (payload : List Byte) : List Byte :=
  let crc := jCrc cls key seq payload
  jHead cls key seq payload.length ++ leBytes 4 crc
    ++ leBytes 12 0 ++ payload ++ List.replicate (jFoot payload.length - 48 - payload.length) 0 ++ marker seq crc

/-- Where a record of footprint f goes: it never crosses into the next block (R466). -/
def jPlace (wp f : Nat) : Nat :=
  let p := roundUp wp 64
  if p % 65536 + f > 65536 then (p / 65536 + 1) * 65536 else p

/-- Free journal space in bytes. -/
def jFree (s : State) : Nat := journalSize s - (s.cus.wp - s.cus.oldBlk * 65536)

/-- Bytes that the winning records take, one behind the other in whole blocks, when one of a class and key is replaced by one of
footprint f (R476). -/
def jLive (s : State) (cls key f : Nat) : Nat :=
  let l := (s.cus.wins.filter (fun w => ¬ (w.cls = cls ∧ w.key = key))).map (fun w => jFoot w.len)
  roundUp ((l ++ [f]).foldl (fun p x => jPlace p x + x) 0) 65536

/-! ### Reading the journal back (R468, R475) -/

/-- The journal record at an absolute position, if one counts: class, key, SEQ, payload length. -/
def jAt (s : State) (pos : Nat) : Option Winner :=
  let h := vRead s (jOffset s pos) 32
  let w (j : Nat) : Nat := leNat ((h.drop (4 * j)).take 4)
  let len := bits (w 1) 12 0
  if bits (w 0) 31 16 ≠ 0x5652 ∨ len > 4096 ∨ pos % 65536 + jFoot len > 65536 then none
  else
    let cls := bits (w 0) 15 12
    let key := bits (w 1) 31 16
    let seq := leNat ((h.drop 8).take 8)
    let payload := vRead s (jOffset s (pos + 32)) len
    let crc := crc32c 0 (h.take 16 ++ payload)
    if w 4 = crc ∧ vRead s (jOffset s (pos + jFoot len - 16)) 16 = marker seq crc then some ⟨cls, key, seq, pos, len⟩ else none

/-- The records at rising 64-byte positions; a position inside a record found is none of its own. -/
def jScan (s : State) : List Nat → Nat → List Winner
  | [], _ => []
  | p :: l, upto =>
    if p < upto then jScan s l upto
    else match jAt s p with
      | some w => w :: jScan s l (p + jFoot w.len)
      | none => jScan s l upto

/-- Whether CLASS and KEY are not reserved (R467). -/
def classKeyOk (cls key : Nat) : Bool :=
  (cls == 0 && key < 64) || (cls == 1 && key == 0) || (cls == 2 && key < 6) || ((cls == 3 || cls == 4) && key == 0)

/-- Take a record as its class and key's winner if its SEQ is the highest (R468). -/
def takeWinner (w : Winner) (l : List Winner) : List Winner :=
  match l.find? (fun x => x.cls = w.cls ∧ x.key = w.key) with
  | some x => if x.seq ≤ w.seq then l.filter (fun y => ¬ (y.cls = w.cls ∧ y.key = w.key)) ++ [w] else l
  | none => l ++ [w]

/-- A cut marker at an absolute position: n and the elapsed time (R474). -/
def cutAt (s : State) (pos : Nat) : Option (Nat × Nat) :=
  let h := vRead s (jOffset s pos) 16
  let w (j : Nat) : Nat := leNat ((h.drop (4 * j)).take 4)
  if bits (w 0) 31 12 = 0x5643F ∧ w 3 = crc32c 0 (h.take 12) then some (bits (w 0) 11 0, w 1) else none

/-- The cut markers of the journal: position and SEQ of word 2 (R474, R497). -/
def cutMarks (s : State) : List (Nat × Nat) :=
  ((jListed s).map (fun o => o / 16 * 16)).eraseDups.filterMap fun p =>
    (cutAt s p).map fun _ => (p, leNat (vRead s (jOffset s (p + 8)) 4))

/-- The payload of a winner. -/
def winPayload (s : State) (w : Winner) : List Byte := vRead s (jOffset s (w.pos + 32)) w.len

/-- Set a key's DIR register and mirror entry; length 0 removes it (R468, R469). -/
def mirrorPut (key seq : Nat) (payload : List Byte) (s : State) : State :=
  let a := Blk.base .cusVlt + 0x100 + 8 * key
  let s := onCus (fun c => { c with mirrorBad := c.mirrorBad.filter (fun w => w / 512 ≠ key) }) s
  if payload.isEmpty then
    onCus (fun c => { c with mirror := ndel key c.mirror }) ((s.setReg a 0).setReg (a + 4) 0)
  else
    onCus (fun c => { c with mirror := nput key payload c.mirror })
      ((s.setReg a (2 ^ 31 + payload.length)).setReg (a + 4) (seq % 2 ^ 32))

/-- HOLDUP in use: the least non-zero learned time, or HOLDUP_INIT (R471). -/
def holdupNow (s : State) : Nat :=
  match s.cus.holdups.filter (· ≠ 0) with
  | [] => s.rd (F32 .cusVlt 0x010)
  | x :: l => l.foldl min x

/-- The hold-up measured by the valid cut markers at some positions (R475): those after the last end marker, if number 0 is the first
of them. -/
def measured (s : State) (at_ : List Nat) : Option Nat :=
  let ms := at_.filterMap (cutAt s)
  match ms.foldl (fun l m => if m.1 = 4095 then [] else l ++ [m]) [] with
  | (0, t) :: l => some ((l.getLast?).elim t Prod.snd)
  | _ => none

/-! ### Writing records -/

/-- Write a journal record that verifies, or a failing one, which uses two positions (R466, R472). -/
def jWrite (cls key seq : Nat) (payload : List Byte) (ok : Bool) (s : State) : State :=
  let f := jFoot payload.length
  let p := jPlace s.cus.wp f
  if ok then
    let s := vProgram (jOffset s p) (jRecord cls key seq payload) s
    onCus (fun c => { c with wp := p + f, seq := max c.seq seq, wins := takeWinner ⟨cls, key, seq, p, payload.length⟩ c.wins }) s
  else onCus (fun c => { c with wp := jPlace (p + f) f + f }) s

/-- A record that the device writes for itself: DDR_SEED, ERG, AGE, HOLDUP (R471). It takes no time of its own, and waits only for what
another master or custody is doing at the flash (R404; notes/assumptions/70.md). -/
def deviceRecord (cls key : Nat) (payload : List Byte) (s : State) : State :=
  if !vaultFits s || s.cus.pfail then s
  else if flashTaken s || s.cus.flying.isSome || padHeld s 117 then onCus (fun c => { c with own := c.own ++ [(cls, key, payload)] }) s
  else jWrite cls key (s.cus.seq + 1) payload true s

/-! ### System records (R465) -/

/-- A system record found: block, SEQ, LC, PREFER, repair entries. -/
structure SysRec where
  blk : Nat
  seq : Nat
  lc : Nat
  prefer : Nat
  repairs : List Nat
deriving DecidableEq, Repr

/-- The system record of block A (0) or B (1), if valid. -/
def sysAt (s : State) (b : Nat) : Option SysRec :=
  let h := vRead s (b * 0x10000) 32
  let w (j : Nat) : Nat := leNat ((h.drop (4 * j)).take 4)
  let n := bits (w 1) 31 16
  if bits (w 0) 31 16 ≠ 0x5653 ∨ n > 4352 then none
  else
    let reps := leWords 4 n (vRead s (b * 0x10000 + 32) (4 * n))
    let seq := leNat ((h.drop 8).take 8)
    let crc := crc32c 0 (h.take 16 ++ h.drop 20 ++ vRead s (b * 0x10000 + 32) (4 * n))
    if w 4 = crc ∧ vRead s (b * 0x10000 + roundUp (32 + 4 * n) 16) 16 = marker seq crc then
      some ⟨b, seq, bits (w 1) 7 4, bits (w 1) 0 0, reps⟩
    else none

/-- The system record in use. -/
def sysNow (s : State) : Option SysRec :=
  match sysAt s 0, sysAt s 1 with
  | some a, some b => if a.seq < b.seq then some b else some a
  | some a, none => some a
  | none, b => b

/-- The block that a new system record goes to: the one that the record in use does not lie in (R465). -/
def sysOther (s : State) : Nat := (sysNow s).elim 0 (fun r => 1 - r.blk)

/-- The bytes of a new system record (R465). -/
def sysBytes (prefer : Nat) (reps : List Nat) (s : State) : List Byte :=
  let seq := ((sysNow s).elim 0 SysRec.seq) + 1
  let head := leBytes 4 (0x5653 * 2 ^ 16) ++ leBytes 4 (reps.length * 2 ^ 16 + s.lc * 2 ^ 4 + prefer) ++ leBytes 8 seq
  let tail := leBytes 12 0 ++ reps.flatMap (leBytes 4)
  let crc := crc32c 0 (head ++ tail)
  let body := head ++ leBytes 4 crc ++ tail
  body ++ List.replicate (roundUp body.length 16 - body.length) 0 ++ marker seq crc

/-- Write a new system record to the other block and erase the old one (R465). -/
def sysWrite (prefer : Nat) (reps : List Nat) (s : State) : State :=
  let b := sysOther s
  vErase ((1 - b) * 0x10000) 0x10000 (vProgram (b * 0x10000) (sysBytes prefer reps s) (vErase (b * 0x10000) 0x10000 s))

/-- The preferred slot and the repair entries once a system record of custody is written (R465). -/
def SysWrite.gives (w : SysWrite) (s : State) : Nat × List Nat :=
  let old := sysNow s
  let p := old.elim 0 SysRec.prefer
  let r := old.elim [] SysRec.repairs
  match w with
  | .prefer b => (bnat b, r)
  | .repair e => (p, r ++ [e])
  | .mark => (p, r)

/-- A system record that custody begins to program; without a vault there is nothing to program. -/
def sysFlight (s : State) (w : SysWrite) : Flying :=
  if vaultFits s then
    ⟨true, (vaultHome s).2 + sysOther s * 0x10000, 0x10000, let (p, r) := w.gives s; sysBytes p r s⟩
  else ⟨true, 0, 0, []⟩

/-- The system record in use is the only one: the older block is erased (R465), not while PFAIL_N is asserted (R455). -/
def sysTidy (s : State) : State :=
  if s.cus.pfail then s
  else match sysAt s 0, sysAt s 1 with
    | some _, some _ => vErase (sysOther s * 0x10000) 0x10000 s
    | _, _ => s

/-- The repair entry of a remap (R465): memory, bank, spare, row. -/
def repairWord (crew : Bool) (bank row spare : Nat) : Nat := bnat crew * 2 ^ 31 + bank * 2 ^ 21 + spare * 2 ^ 19 + row * 2 ^ 12

/-- A repair entry could not be saved (R150 item 5). -/
def repairUnsaved (e : Nat) (s : State) : State :=
  let crew := bit e 31
  let x := (crew, bits e 30 21, bits e 18 12, bits e 20 19)
  let s := { s with memx := { s.memx with unsaved := if s.memx.unsaved.contains x then s.memx.unsaved else s.memx.unsaved ++ [x] } }
  condition (scrubOf crew) 2 true (s.wr (F (scrubOf crew) 0x014 31 31) 1)

/-- A repair entry is in the vault: REPAIR_UNSAVED ends when none of its memory is left. -/
def repairSaved (e : Nat) (s : State) : State :=
  let crew := bit e 31
  let x := (crew, bits e 30 21, bits e 18 12, bits e 20 19)
  let s := { s with memx := { s.memx with unsaved := s.memx.unsaved.filter (· ≠ x) } }
  if s.memx.unsaved.any (fun y => y.1 = crew) then s else condition (scrubOf crew) 2 false s

/-- A record that was in flight when PFAIL_N asserted has ended: t0 of R474. -/
def cutStart (s : State) : State := onCus (fun c => { c with cutFrom := s.elapsed }) s

/-- The system record that is being programmed ends (R463, R465). -/
def systemRecordEnd (ok : Bool) (s : State) : State :=
  match s.cus.sys with
  | [] => s
  | w :: rest =>
    if !s.cus.flying.any Flying.sys then s else
    let s := cutStart (onCus (fun c => { c with sys := rest, flying := none }) s)
    let (p, r) := w.gives s
    let fail (s : State) : State := report .cusVlt 0 s
    let last (v : Nat) (s : State) : State := s.wr (F .cusVlt 4 7 0) v
    match w with
    | .prefer _ =>
      let s := (s.wr (F .cusAuth 4 31 31) 0).wr (F .cusAuth 4 2 0) 4
      if !vaultFits s then last 0x0B s
      else if ok then last 0 (sysWrite p r s) else last 0x0A (fail s)
    | .repair e => if ok && vaultFits s then repairSaved e (sysWrite p r s) else repairUnsaved e (if ok then s else fail s)
    | .mark => if ok then sysWrite p r s else fail s

/-! ### Replay at Launch (R460, R468, R475) -/

/-- Winning records and write point as the journal gives them, and the positions from the end of its newest record on, where cut
markers may lie: they may run on into the next block (R468, R474, R475). -/
def scanJournal (s : State) : State × List Nat :=
  if !vaultFits s then (onCus (fun c => { c with wins := [], wp := 0, oldBlk := 0, seq := 0 }) s, [])
  else
    let n := vaultBlocks s
    let listed := jListed s
    let used := (List.range n).filter (fun b => listed.any (fun o => o / 65536 = b))
    let recs := (jScan s ((listed.map (fun o => o / 64 * 64)).eraseDups) 0).filter (fun w => classKeyOk w.cls w.key)
    let wins := recs.foldl (fun l w => takeWinner w l) []
    let top := recs.foldl (fun m w => max m w.seq) 0
    let lastBlk := match used.find? (fun b => !used.contains ((b + 1) % n)) with
      | some b => b
      | none => (recs.find? (fun w => w.seq = top)).elim 0 (fun w => w.pos / 65536)
    let first := ((List.range n).find? (fun i => used.contains ((lastBlk + 1 + i) % n))).getD 0
    let ends (b : Nat) : List Nat := (recs.filter (fun w => w.pos / 65536 = b)).map (fun w => w.pos + jFoot w.len)
    let from_ (b : Nat) : Nat := (ends b).foldl max (b * 65536)
    let steps (lo hi : Nat) : List Nat := (List.range ((hi - lo) / 16)).map (fun i => lo + 16 * i)
    let prev := (lastBlk + n - 1) % n
    let top1 := ((listed.filter (fun o => o / 65536 = lastBlk)).map (· + 1)).foldl max (lastBlk * 65536)
    let wp := roundUp top1 64
    let before := if (ends lastBlk).isEmpty ∧ used.contains prev ∧ prev ≠ lastBlk then steps (from_ prev) ((prev + 1) * 65536) else []
    let abs (o : Nat) : Nat := if o / 65536 ≤ lastBlk then o + journalSize s else o
    let s := onCus (fun c => { c with wins := wins.map (fun w => { w with pos := abs w.pos })
                                      wp := if used.isEmpty then 0 else wp + journalSize s
                                      oldBlk := if used.isEmpty then 0 else lastBlk + 1 + first
                                      seq := top }) s
    (s, before ++ steps (from_ lastBlk) wp)

/-- Replay: winning records, mirror and hold-up times as the journal gives them, and the HOLDUP record of a measured cut (R468, R469,
R475). -/
def replay (s : State) : State :=
  let (s, marks) := scanJournal (onCus (fun c => { c with mirror := [], holdups := [] }) s)
  if !vaultFits s then s
  else
    let held := measured s marks
    let s := forAll ((List.range 64)) (fun k s => mirrorPut k 0 [] s) s
    let s := forAll (s.cus.wins.filter (fun w => w.cls = 0)) (fun w s => mirrorPut w.key w.seq (winPayload s w) s) s
    let hs := match s.cus.wins.find? (fun w => w.cls = 4) with
      | some w => leWords 4 8 (winPayload s w)
      | none => []
    let s := onCus (fun c => { c with holdups := hs }) s
    match held with
    | some t =>
      let hs := (t :: hs ++ List.replicate 8 0).take 8
      deviceRecord 4 0 (hs.flatMap (leBytes 4)) (onCus (fun c => { c with holdups := hs }) s)
    | none => s

/-- VAULT_BLOCKS takes a value: custody reads the journal of the new size. At step 11 of Launch it still has its reset value, since the
profile follows at step 13 (R439): a DESIGN CHOICE (notes/assumptions/70.md). -/
def vaultBlocksWrite (before s : State) : State := if journalSize before = journalSize s then s else (scanJournal s).1

/-! ### Commits (R470 to R473) -/

/-- STATUS codes of R472. -/
def vcCommitted : Nat := 0
def vcHoldup : Nat := 1
def vcPfail : Nat := 2
def vcQueueFull : Nat := 3
def vcFlash : Nat := 0xA
def vcNoVault : Nat := 0xB

/-- A commit ends: entry words 6 and 7, LAST, and the record of type 0x58 (R472). -/
def commitEnds (h status seq : Nat) (s : State) : State :=
  let s := s.wr (F .cusVlt 4 7 0) status
  if checkHandle s kSettings h ≠ 0 then s
  else
    let e := entryOf s h
    let s := setEntry (hIndex h) ((e.withWord 6 status).withWord 7 (if status = 0 then seq % 2 ^ 32 else e.word 7)) s
    let ring := e.word 5
    if ring = 0 then s
    else
      postRecord ⟨.vault, BitVec.ofNat 32 ring,
        { word0 := BitVec.ofNat 32 h, type := 0x58, partialRec := false, error := false, last := false, summary := 0,
          word6 := BitVec.ofNat 32 status, word7 := BitVec.ofNat 32 seq, payload := [] }⟩ (stamp96 (now16 s)) s

/-- The refusals at acceptance in order: 0, or a status (R471, R472, R476). -/
def commitCheck (s : State) (h : Nat) : Nat :=
  let c := checkHandle s kSettings h
  if s.cus.pfail then vcPfail
  else if s.cus.queue.length ≥ 4 then vcQueueFull
  else if !vaultThere s then vcNoVault
  else if c ≠ 0 then handleStatus c
  else
    let e := entryOf s h
    let len := bits (e.word 4) 12 0
    match regionAt s (e.word 2) with
    | .error d => handleStatus d
    | .ok r =>
      let f := jFoot len
      if !r.rd then 8
      else if e.word 3 + len > r.len then 9
      else if jLive s 0 (bits (e.word 1) 5 0) f + 2 * 65536 > journalSize s then vcFlash
      else 0

/-- The flash copy of a key's SETTINGS record, to which the vault falls back when its payload is uncorrectable (R146). -/
def flashCopy (s : State) (key : Nat) : List Byte :=
  match s.cus.wins.find? (fun w => w.cls = 0 ∧ w.key = key) with
  | some w => winPayload s w
  | none => []

/-- The hold-up does not last for a record of footprint f (R471). -/
def holdupShort (s : State) (f : Nat) : Bool :=
  holdupNow s < s.rd (F .cusVlt 0x018 15 0) * ((f - 16 + 255) / 256 + 1) + s.rd (F32 .cusVlt 0x014)

/-- A commit that custody begins to program (R466, R468). -/
def commitFlight (s : State) (c : Commit) : Flying :=
  ⟨false, (vaultHome s).2 + jOffset s (jPlace s.cus.wp (jFoot c.payload.length)), 0, jRecord 0 c.key (s.cus.seq + 1) c.payload⟩

/-- The first commit begins, unless the hold-up does not last for it (R471). -/
def commitBegin : List Commit → State → State
  | [], s => s
  | c :: l, s =>
    if holdupShort s (jFoot c.payload.length) then commitBegin l (commitEnds c.handle vcHoldup 0 (onCus (fun k => { k with queue := l }) s))
    else onCus (fun k => { k with flying := some (commitFlight s c) }) s

/-- Custody takes the flash where nothing else has it: records of its own, then a system record, then the first commit; which of these
goes first is a DESIGN CHOICE (R404, R471; notes/assumptions/70.md). -/
def custodyStart (s : State) : State :=
  if s.cus.flying.isSome ∨ flashTaken s ∨ padHeld s 117 then s
  else
    let s := forAll s.cus.own (fun r s => jWrite r.1 r.2.1 (s.cus.seq + 1) r.2.2 true s) (onCus (fun c => { c with own := [] }) s)
    match s.cus.sys with
    | w :: _ => onCus (fun c => { c with flying := some (sysFlight s w) }) s
    | [] => commitBegin s.cus.queue s

/-- A system record is to be written. -/
def sysOffer (w : SysWrite) (s : State) : State := custodyStart (onCus (fun c => { c with sys := c.sys ++ [w] }) s)

/-- Offer a repair entry to the vault (R150, R465). -/
def offerRepair (e : Nat) (s : State) : State :=
  if vaultFits s && !s.cus.pfail then sysOffer (.repair e) s else repairUnsaved e s

/-- A write of a transaction handle to CUS_VLT_CMD (R470, R471). -/
def commitRequest (h : Nat) (s : State) : State :=
  let st := commitCheck s h
  let acc := F .cusVlt 4 31 31
  if st ≠ 0 then commitEnds h st 0 (if st = vcFlash then report .cusVlt 0 (s.wr acc 0) else s.wr acc 0)
  else
    let e := entryOf s h
    let r := regionOf (entryOf s (e.word 2))
    let g := memRead 14 accRead (r.base + e.word 3) (bits (e.word 4) 12 0) s
    let s := setEntry (hIndex h) (e.withWord 6 0xFF) g.st
    let key := bits (e.word 1) 5 0
    custodyStart (onCus (fun c => { c with queue := c.queue ++ [⟨h, key, if g.code = rUe then flashCopy s key else g.data⟩] }) (s.wr acc 1))

/-- The commit that is being programmed ends (R468, R469, R472). -/
def commitEnd (ok : Bool) (s : State) : State :=
  match s.cus.queue with
  | [] => s
  | c :: rest =>
    if !s.cus.flying.any (fun f => !f.sys) then s else
    let s := cutStart (onCus (fun k => { k with queue := rest, flying := none }) s)
    let seq := s.cus.seq + 1
    if ok then
      commitEnds c.handle vcCommitted seq (mirrorPut c.key seq c.payload (jWrite 0 c.key seq c.payload true s))
    else commitEnds c.handle vcFlash 0 (report .cusVlt 0 (jWrite 0 c.key seq c.payload false s))

/-! ### Seeds of the DDR5 channel (R402, R455) -/

/-- The seeds of a full training are committed, or wait for PFAIL_N to negate (R455). -/
def commitSeed (s : State) : State :=
  if s.cus.pfail then onCus (fun c => { c with seedDue := true }) s
  else
    let (k, s) := s.fresh
    deviceRecord 1 0 (leBytes 8 (Config.seedRecord k).toNat) (onCus (fun c => { c with seedDue := false }) s)

/-! ### Power cut (R474) -/

/-- PFAIL_N asserts: the record whose programming has begun goes on, the others do not begin and queued commits end with PFAIL, the cut
markers will follow. -/
def vaultPfail (s : State) : State :=
  if s.cus.pfail then s
  else
    let nc := bnat (s.cus.flying.any (fun f => !f.sys))
    let ns := bnat (s.cus.flying.any Flying.sys)
    let late := s.cus.queue.drop nc
    let lateSys := s.cus.sys.drop ns
    let s := onCus (fun c => { c with pfail := true, pfailAt := s.elapsed, cutN := 0, cutFrom := s.elapsed, queue := c.queue.take nc, sys := c.sys.take ns, own := [] }) s
    let s := forAll late (fun c s => commitEnds c.handle vcPfail 0 s) s
    forAll lateSys (fun w s => match w with
      | .repair e => repairUnsaved e s
      | .prefer _ => ((s.wr (F .cusAuth 4 31 31) 0).wr (F .cusAuth 4 2 0) 1)
      | .mark => s) s

/-- Program one cut marker at the write point: its number and the time since PFAIL_N in µs. -/
def cutWrite (n us : Nat) (s : State) : State :=
  let b := leBytes 4 (0x5643F * 2 ^ 12 + n) ++ leBytes 4 us ++ leBytes 4 (s.cus.seq % 2 ^ 32)
  let s := vProgram (jOffset s s.cus.wp) (b ++ leBytes 4 (crc32c 0 b)) s
  onCus (fun c => { c with wp := c.wp + 16 }) s

/-- Microseconds since PFAIL_N asserted. -/
def pfailUs (s : State) : Nat := (s.elapsed - s.cus.pfailAt) / 1500

/-- The end marker of R497, after a wake and after a Launch whose erg results were fresh. -/
def endMarker (s : State) : State :=
  if vaultFits s && !s.cus.pfail then
    let s := cutWrite 4095 0 s
    onCus (fun c => { c with wp := roundUp c.wp 64 }) s
  else s

/-- Microseconds from PFAIL_N's assertion to the next cut marker's instant, t0 + 250 µs x n. -/
def cutUs (s : State) : Nat := (s.cus.cutFrom - s.cus.pfailAt) / 1500 + 250 * s.cus.cutN

/-- A cut marker, once nothing is in flight and its instant has come; Launch starts no program (R455). -/
def cutMarker (s : State) : State :=
  if s.cus.pfail && s.cus.flying.isNone && s.cus.cutN ≤ 4094 && vaultFits s && s.mode != modeLaunch
      && decide (s.cus.cutFrom + 375000 * s.cus.cutN ≤ s.elapsed) then
    onCus (fun c => { c with cutN := c.cutN + 1 }) (cutWrite s.cus.cutN (cutUs s) s)
  else s

/-- PFAIL_N negates: the end marker, not in a Launch, which has begun no series, and the next 64-byte boundary. -/
def vaultPfailEnd (s : State) : State :=
  if s.cus.pfail then
    let s := if vaultFits s ∧ s.mode ≠ modeLaunch then cutWrite 4095 (pfailUs s) s else s
    let s := onCus (fun c => { c with pfail := false, wp := roundUp c.wp 64 }) s
    if s.cus.seedDue ∧ s.mode ≠ modeLaunch then commitSeed s else s
  else s

/-! ### Compaction (R476) -/

/-- The oldest journal block is copied forward and erased; a copy that does not verify ends it with FLASH_ERR. -/
def compaction (ok : Bool) (s : State) : State :=
  if !vaultFits s ∨ s.cus.pfail ∨ s.cus.flying.isSome ∨ flashTaken s ∨ jFree s ≥ 2 * 65536 ∨ s.cus.wp / 65536 = s.cus.oldBlk then s
  else if !ok then report .cusVlt 0 s
  else
    let b := s.cus.oldBlk
    let moved := s.cus.wins.filter (fun w => w.pos / 65536 = b)
    let cut := (cutMarks s).foldl (fun m p => if p.1 % journalSize s / 65536 = b % vaultBlocks s then
      (match m with | some (q : Nat × Nat) => if q.2 < p.2 then some p else some q | none => some p) else m) none
    let s := match cut with
      | some p =>
        let s := vProgram (jOffset s s.cus.wp) (vRead s (jOffset s p.1) 16) s
        onCus (fun c => { c with wp := roundUp (c.wp + 16) 64 }) s
      | none => s
    let s := forAll moved (fun w s => jWrite w.cls w.key w.seq (winPayload s w) true s) s
    let s := vErase (jOffset s (b * 65536)) 65536 s
    (onCus (fun c => { c with oldBlk := b + 1 }) s).count (F .cusVlt 0x01C 31 16) 1

/-! ### Rollback and preference (R463) -/

/-- ADVANCE: the fuses up to the running image's ROLLBACK; nothing while a command is in progress (notes/assumptions/51.md). -/
def advanceRollback (ok : Bool) (s : State) : State :=
  let res (v : Nat) (s : State) : State := s.wr (F .cusAuth 4 2 0) v
  if s.rd (F .cusAuth 4 31 31) = 1 then s
  else if s.lc ≠ lcDevelop ∧ s.lc ≠ lcField then res 2 s
  else if s.cus.pfail then res 1 s
  else
    let want := min 64 (s.rd (F32 .cusAuth 0x00C))
    if want ≤ s.cus.rollback then res 0 s
    else if ok then res 0 ((onCus (fun c => { c with rollback := want }) s).wr (F .cusAuth 8 6 0) want)
    else report .cusLc 0 (res 3 s)

/-- PREFER_A and PREFER_B. -/
def preferSlot (b : Bool) (s : State) : State :=
  if s.rd (F .cusAuth 4 31 31) = 1 then s
  else if s.cus.pfail then s.wr (F .cusAuth 4 2 0) 1
  else sysOffer (.prefer b) (s.wr (F .cusAuth 4 31 31) 1)

/-! ### Meanings -/

/-- ADVANCE (R463). -/
def execAdvance (_m : Master) (ok : Bool) (s : State) : Answer := .next (advanceRollback ok s)
/-- PREFER_A (R463). -/
def execPreferA (_m : Master) (s : State) : Answer := .next (preferSlot false s)
/-- PREFER_B (R463). -/
def execPreferB (_m : Master) (s : State) : Answer := .next (preferSlot true s)
/-- COMMIT (R471). -/
def execCommit (_m : Master) (h : W32) (s : State) : Answer := .next (commitRequest h.toNat s)
/-- CUT_MARKER (R474). -/
def execCutMarker (s : State) : Answer := .next (cutMarker s)
/-- VAULT_COMPACTION (R476). -/
def execVaultCompaction (ok : Bool) (s : State) : Answer := .next (compaction ok s)

end Sys2Proof.Machine
end

