-- ==== Sys2Proof/Machine/Vector.lean ====
section
/-!
DEFINITION. Admission to the vector engine (02, R22 to R46, R63, R66, R71, R78; 03, R79 to R116; 04, R130).
-/
namespace Sys2Proof.Machine

/-! ### Words of a descriptor (R28 to R40) -/

def jForm (d : List Nat) : Nat := bits (wordAt d 0) 3 0
def jPrio (d : List Nat) : Nat := bits (wordAt d 0) 6 4
def jDet (d : List Nat) : Bool := bit (wordAt d 0) 7
def jRaft (d : List Nat) : Nat := bits (wordAt d 0) 9 8
def jSel (d : List Nat) : Nat := bits (wordAt d 0) 12 10
def jFence (d : List Nat) : Bool := bit (wordAt d 0) 13
def jKeep (d : List Nat) : Bool := bit (wordAt d 0) 14
def jQuiet (d : List Nat) : Bool := bit (wordAt d 0) 15
def jLen (d : List Nat) : Nat := wordAt d 1
def jClass (d : List Nat) : Nat := wordAt d 3
def jWindow (d : List Nat) : Nat := wordAt d 4
def jSave (d : List Nat) : Nat := wordAt d 5
def jCookie (d : List Nat) : Nat := wordAt d 6
def jTagReg (d : List Nat) : Nat := wordAt d 7
def jReg (d : List Nat) : Nat := wordAt d 23
/-- Stream numbers: 0 A, 1 B, 2 C, 3 Y. -/
def jType (d : List Nat) (j : Nat) : Nat := bits (wordAt d 2) (4 * j + 3) (4 * j)
def jTagEn (d : List Nat) (j : Nat) : Bool := bit (wordAt d 2) (16 + j)
def jHandle (d : List Nat) (j : Nat) : Nat := wordAt d (8 + j)
def jOff (d : List Nat) (j : Nat) : Nat := wordAt d (12 + j) + bits (wordAt d 16) (8 * j + 7) (8 * j) * 2 ^ 32
def jTOff (d : List Nat) (j : Nat) : Nat := wordAt d (17 + j)
def jTrapEn (d : List Nat) : Nat := bits (wordAt d 2) 27 23
def jTrap (d : List Nat) : Bool := bit (wordAt d 2) 22
def jRm (d : List Nat) : Nat := bits (wordAt d 2) 21 20
/-- Rounding directions of R32 as the arithmetic names them. -/
def jEnv (d : List Nat) : FEnv := ⟨jRm d, !jTrap d⟩
/-- The seats before the first END (R36, R38). -/
def jSeats (d : List Nat) : List Nat := ((d.drop 24).take 8).takeWhile (fun w => sOp w ≠ 0)
/-- Size of an element in bytes. -/
def elSize (t : Nat) : Nat := tw t / 8
/-- Operation, source seat and readout type of accumulator a (02, RED). -/
def redOp (d : List Nat) (a : Nat) : Nat := bits (wordAt d 21) (6 * a + 4) (6 * a + 2)
def redSeat (d : List Nat) (a : Nat) : Nat := bits (wordAt d 21) (6 * a + 7) (6 * a + 5)
def redType (d : List Nat) (a : Nat) : Nat := bits (wordAt d 21) (2 * a + 15) (2 * a + 14)
def jPerm (d : List Nat) : Nat := wordAt d 22
def usesOrder (d : List Nat) : Bool := bits (jPerm d) 3 0 == 8 || bits (jPerm d) 3 0 == 9

/-- Lead and last descriptor of a job. -/
def leadOf (ds : List (List Nat)) : List Nat := ds.headD []
def lastOf (ds : List (List Nat)) : List Nat := ds.getLastD []
/-- Number of descriptors that a lead's RAFT asks for (R43). -/
def raftSize (d : List Nat) : Nat := if jRaft d = 1 then 2 else if jRaft d = 2 then 4 else 1
/-- Register form (R39). -/
def isRegForm (ds : List (List Nat)) : Bool := jForm (leadOf ds) == 1

/-- Whether stream j at position p of n is a raft link (R43). -/
def isLink (p n j : Nat) : Bool := (j == 3 && p + 1 < n) || (j == 0 && 0 < p)
/-- Whether stream j of a descriptor is read from or written to memory. -/
def inMemory (d : List Nat) (reg : Bool) (p n j : Nat) : Bool :=
  jType d j != 0 && !isLink p n j
  && (!reg || (j == 0 && bit (jReg d) 22) || (j == 3 && bit (jReg d) 23))

/-- The descriptors of a job with their positions. -/
def withPos (ds : List (List Nat)) : List (Nat × List Nat) := (List.range ds.length).zip ds

/-- STATUS codes of R78. -/
def vsOk : Nat := 0
def vsFormReserved : Nat := 1
def vsFieldReserved : Nat := 2
def vsEtypeBad : Nat := 3
def vsLengthZero : Nat := 4
def vsBounds : Nat := 9
def vsRights : Nat := 8
def vsSeatChain : Nat := 0xD
def vsSeatOp : Nat := 0xE
def vsRaftGroup : Nat := 0xF
def vsRegForm : Nat := 0x12
def vsPoolFull : Nat := 0x18
def vsSaveInvalid : Nat := 0x19
def vsEcc : Nat := 0x20
def vsRegion : Nat := 0x21
def vsTrap : Nat := 0x22
def vsCancelled : Nat := 0x23
def vsInTest : Nat := 0x24
def vsWriteError : Nat := 0x25
def vsReset : Nat := 0x26
def vsWakeFail : Nat := 0x27

/-- First failure of a list of checks: a status of 0 passes. -/
def firstFail (l : List Nat) : Nat := (l.find? (· ≠ 0)).getD 0
/-- A check that fails with a status. -/
def chk (bad : Bool) (status : Nat) : Nat := if bad then status else 0

/-! ### Shells (R30, R31) -/

/-- The shell lists that RAFT and SHELLSEL allow, in order of preference (R30). -/
def shellChoices (raft sel : Nat) : List (List Nat) :=
  match raft, sel with
  | 0, 4 => [[0], [1], [2], [3]]
  | 0, k => if k < 4 then [[k]] else []
  | 1, 0 => [[0, 1]]
  | 1, 2 => [[2, 3]]
  | 1, 4 => [[0, 1], [2, 3]]
  | 2, 0 => [[0, 1, 2, 3]]
  | 2, 4 => [[0, 1, 2, 3]]
  | _, _ => []

/-- The choices within a class's shell mask. -/
def choicesIn (mask raft sel : Nat) : List (List Nat) := (shellChoices raft sel).filter (fun l => l.all (fun n => mask.testBit n))

/-- A class as its entry gives it (R165). -/
def classMask (e : Entry) : Nat := bits (e.word 1) 3 0
def classCeil (e : Entry) : Nat := bits (e.word 1) 6 4
def classDet (e : Entry) : Bool := bit (e.word 1) 7

/-! ### Elements per cycle and latency (R46, R72, R108) -/

/-- Result types of a chain's seats. -/
def seatResults (d : List Nat) : List Nat := (jSeats d).map (fun w => resultType (sOp w) (sWt w))

/-- Contributions per cycle of an accumulator (R108). -/
def accLanes (d : List Nat) (a : Nat) : Nat :=
  let w := (jSeats d).getD (redSeat d a) 0
  let t := if redOp d a = 3 then sWt w else resultType (sOp w) (sWt w)
  if redOp d a = 4 ∨ redOp d a = 5 then 8
  else if t = tB32 then 16 else if t = tB64 then 8 else if tw t ≤ 16 then 64 else if tw t = 32 then 32 else 16

/-- E (R46). -/
def perCycle (ds : List (List Nat)) : Nat :=
  let one (d : List Nat) : List Nat :=
    ((List.range 4).filterMap (fun j => if jType d j = 0 then none else some (tLanes (jType d j))))
    ++ (jSeats d).map (fun w => min (tLanes (sWt w)) (opLanes (sOp w) (sWt w) (sMod w)))
  let red := ([0, 1].filter (fun a => redOp (lastOf ds) a ≠ 0)).map (accLanes (lastOf ds))
  let ord := if usesOrder (lastOf ds) then [16] else []
  max 1 ((ds.flatMap one ++ red ++ ord).foldl min 128)

/-- Latency of one chain's seats. -/
def chainLat (d : List Nat) : Nat := ((jSeats d).map (fun w => opLatency (sOp w) (sWt w))).sum

/-- L of R72. -/
def jobLat (ds : List (List Nat)) : Nat := (ds.map chainLat).sum + 4 * (ds.length - 1)

/-! ### Step 1: form and fields that must be 0 (R28 to R39, R44) -/

/-- Whether a descriptor breaks a reserved bit or a field that must be 0. -/
def fieldsBad (lead : List Nat) (reg : Bool) (p n : Nat) (d : List Nat) : Bool :=
  let w (j : Nat) : Nat := wordAt d j
  let tail := (d.drop 24).take 8
  let unused (j : Nat) : Bool :=
    jType d j == 0 && !isLink p n j && (jHandle d j != 0 || jOff d j != 0 || jTOff d j != 0 || jTagEn d j)
  let srcs (x : Nat) : Bool := (List.range 3).any (fun j => opArity (sOp x) ≤ j && opArity (sOp x) != 0 && sSrc x j != 0)
  bits (w 0) 31 16 != 0 || within 5 7 (jSel d) || jRaft d == 3 || bits (w 2) 31 28 != 0
  || (!jTrap d && jTrapEn d != 0)
  || bits (w 21) 31 18 != 0 || bits (w 21) 1 0 != 0 || bits (w 22) 31 16 != 0
  || (if reg then bits (w 23) 31 24 != 0 else w 23 != 0)
  || (p == 0 && jKeep lead && (reg || jSave lead == 0))
  || (List.range 4).any unused
  || tail.any (fun x => sOp x == 0 && x != 0)
  || tail.any srcs
  || [0, 1].any (fun a => redOp d a == 0 && (redSeat d a != 0 || redType d a != 0))

/-- FORM RESUME: every word and field but FORM, CLASS and SAVE is 0 (R42). -/
def resumeFieldsBad (d : List Nat) : Bool :=
  (List.range 32).any (fun j => j ≠ 3 && j ≠ 5 && (if j = 0 then wordAt d 0 != 2 else wordAt d j != 0))

/-! ### Step 2: class (R44) -/

/-- The handle status of R78 for a failed check of R162. -/
def handleVs (c : Nat) : Nat := if c = 0 then 0 else if c = cNull then 5 else if c = cStale then 6 else 7

/-- The class and its limits. -/
def classCheck (s : State) (d : List Nat) : Nat :=
  let c := checkHandle s kClass (jClass d)
  if c ≠ 0 then handleVs c
  else
    let e := entryOf s (jClass d)
    firstFail
      [ chk ((shellChoices (jRaft d) (jSel d)) != [] && (choicesIn (classMask e) (jRaft d) (jSel d)).isEmpty) 0xA
      , chk (decide (jPrio d > classCeil e)) 0xB
      , chk (jDet d && !classDet e) 0xC ]

/-! ### Step 3: length and register form (R40, R119) -/

/-- GROUP of a register-form job, in registers. -/
def regGroup (d : List Nat) : Nat := 2 ^ bits (jReg d) 21 20

/-- Register number of stream j: A, B, C, Y. -/
def regNo (d : List Nat) (j : Nat) : Nat := bits (jReg d) (5 * j + 4) (5 * j)

/-- Whether a register-form job breaks R40 or R119. "The number of elements in one group" bounds LENGTH for every used stream,
those that LOADA and STOREY take to memory too, of which R40 does not speak (DESIGN CHOICE, notes/assumptions/59.md). -/
def regLimits (d : List Nat) : Bool :=
  let used := (List.range 4).filter (fun j => jType d j ≠ 0)
  let regs := used.filter (fun j => !inMemory d true 0 1 j)
  regs.any (fun j => regNo d j % regGroup d ≠ 0)
  || regs.any (fun j => jLen d * elSize (jType d j) > regGroup d * 1024)
  || used.any (fun j => jLen d * elSize (jType d j) > regGroup d * 1024)
  || (jLen d + perCycle [d] - 1) / perCycle [d] > 64
  || jRaft d ≠ 0 || jSave d ≠ 0 || jSel d = 4

/-- LENGTH, then the register-form limits. -/
def lengthCheck (d : List Nat) (reg : Bool) : Nat :=
  firstFail [chk (jLen d == 0) vsLengthZero, chk (reg && regLimits d) vsRegForm]

/-! ### Step 4: raft group, types, chain and operations (R30, R43, R79 to R93, R104, R113 to R116) -/

/-- Whether a raft group breaks R30 or R43. -/
def groupBad (ds : List (List Nat)) : Bool :=
  let lead := leadOf ds
  let n := ds.length
  let zero (d : List Nat) (l : List Nat) : Bool := l.all (fun j => wordAt d j == 0)
  (shellChoices (jRaft lead) (jSel lead)).isEmpty
  || (n != 1 && (
    (withPos ds).any (fun (p, d) =>
      (p != 0 && (wordAt d 0 != 3 || !zero d [1, 3, 4, 5, 6, 7] || bits (wordAt d 2) 31 20 != 0))
      || (p + 1 != n && (!zero d [21, 22] || jType d 3 == 0 || jHandle d 3 != 0 || jOff d 3 != 0 || jTOff d 3 != 0 || jTagEn d 3))
      || (p != 0 && (jType d 0 != jType (ds.getD (p - 1) []) 3 || jHandle d 0 != 0 || jOff d 0 != 0 || jTOff d 0 != 0 || jTagEn d 0)))))

/-- Type of the operand that a source code names at seat i (R37, R80); 0 when there is none. -/
def srcType (d : List Nat) (i code : Nat) : Nat :=
  let res := seatResults d
  match code with
  | 0 => if i = 0 then seatType (jType d 0) else res.getD (i - 1) 0
  | 1 => seatType (jType d 0)
  | 2 => seatType (jType d 1)
  | 3 => seatType (jType d 2)
  | 4 => if i < 2 then 0 else res.getD (i - 2) 0
  | _ => 0

/-- Whether a chain breaks R37 or R38. -/
def chainBad (last : Bool) (d : List Nat) : Bool :=
  let chain := jSeats d
  let after := ((d.drop 24).take 8).drop chain.length
  chain.isEmpty || after.any (fun w => sOp w ≠ 0)
  || ((List.range chain.length).zip chain).any (fun (i, w) =>
      (List.range (opArity (sOp w))).any (fun j =>
        let c := sSrc w j
        c ≥ 5 || (c == 4 && i < 2) || (c ≤ 3 && !(c == 0 && i != 0) && jType d (if c = 0 then 0 else c - 1) == 0)))
  || (last && (jType d 3 == 0 && redOp d 0 == 0 && redOp d 1 == 0))
  || (last && [0, 1].any (fun a => redOp d a != 0 && redSeat d a ≥ chain.length))

/-- Whether an accumulator's source seat meets R104. -/
def redBad (d : List Nat) (a : Nat) : Bool :=
  let w := (jSeats d).getD (redSeat d a) 0
  let rt := resultType (sOp w) (sWt w)
  match redOp d a with
  | 0 => false
  | 1 | 2 | 6 => !(isI rt || isQ rt || isF rt)
  | 3 => !(sOp w == 0x32 || sOp w == 0x14 || sOp w == 0x16)
  | 4 | 5 => !(sOp w == 0x42 || sOp w == 0x43)
  | _ => true

/-- Whether an operation, modifier, reduction or permutation is reserved or not allowed. -/
def opsBad (last : Bool) (lead d : List Nat) : Bool :=
  (jSeats d).any (fun w => opArity (sOp w) == 0 || !wtOk (sOp w) (sWt w) || !modOk (sOp w) (sWt w) (sMod w))
  || (last && ([0, 1].any (redBad d)
    || !permOk (jPerm d) (jLen lead) ((seatResults d).getLastD 0)
    || (usesOrder d && jSave lead == 0)))

/-- Whether an operand's or a result's type is wrong (R80, R81). -/
def typesBad (last reg : Bool) (d : List Nat) : Bool :=
  let chain := jSeats d
  let y := jType d 3
  let r := (seatResults d).getLastD 0
  ((List.range chain.length).zip chain).any (fun (i, w) =>
    (List.range (opArity (sOp w))).any (fun j =>
      let t := srcType d i (sSrc w j)
      match operandType (sOp w) (sWt w) (sMod w) j with
      | some want => t != want
      | none => !(isI t && tw t == tw (sWt w))))
  || (y != 0 && y != r && !(last && y == tB16 && r == tB32 && (!reg || bit (jReg d) 23)))

/-- Step 4 for a job's descriptors. -/
def seatCheck (ds : List (List Nat)) (reg : Bool) : Nat :=
  let n := ds.length
  let lead := leadOf ds
  let each (f : Bool → List Nat → Bool) : Bool := (withPos ds).any (fun (p, d) => f (p + 1 == n) d)
  firstFail
    [ chk (groupBad ds) vsRaftGroup
    , chk (ds.any (fun d => (List.range 4).any (fun j => jType d j == 0xF))) vsEtypeBad
    , chk (each chainBad) vsSeatChain
    , chk (each (fun last d => opsBad last lead d)) vsSeatOp
    , chk (each (fun last d => typesBad last reg d)) vsEtypeBad ]

/-! ### Steps 5 to 8: streams, save area, window, deterministic conditions -/

/-- One stream's region: handle, right and bounds. -/
def streamCheck (s : State) (d : List Nat) (len j : Nat) : Nat :=
  match regionAt s (jHandle d j) with
  | .error c => handleVs c
  | .ok r =>
    firstFail
      [ chk (if j = 3 then !r.wr else !r.rd) vsRights
      , chk (decide (jOff d j + len * elSize (jType d j) > r.len)) vsBounds ]

/-- One tag plane (R44; TAG_REGION of R78). -/
def tagCheck (s : State) (tagReg : Nat) (d : List Nat) (len j : Nat) : Nat :=
  if tagReg = 0 then 0x16
  else match regionAt s tagReg with
    | .error c => handleVs c
    | .ok r =>
      firstFail
        [ chk (if j = 3 then !r.wr else !r.rd) vsRights
        , chk (decide (jTOff d j + len > 2 * r.len)) vsBounds ]

/-- Step 5: the streams in order, then their tag planes (R44). That a raft group's streams are all checked before its tag planes is a
DESIGN CHOICE (notes/assumptions/66.md). -/
def streamsCheck (s : State) (ds : List (List Nat)) (reg : Bool) : Nat :=
  let n := ds.length
  let lead := leadOf ds
  let mem (p : Nat) (d : List Nat) : List Nat := (List.range 4).filter (inMemory d reg p n)
  firstFail
    ((withPos ds).flatMap (fun (p, d) => (mem p d).map (streamCheck s d (jLen lead)))
    ++ (withPos ds).flatMap (fun (p, d) => ((mem p d).filter (jTagEn d)).map (tagCheck s (jTagReg lead) d (jLen lead))))

/-- Step 6: the save area. -/
def saveCheck (s : State) (h : Nat) : Nat :=
  if h = 0 then 0
  else match regionAt s h with
    | .error c => handleVs c
    | .ok r => chk (decide (r.len < 2752) || !r.rd || !r.wr) 0x10

/-- Words of a regatta slot; a slot never written holds 0 (R354). -/
def slotWords (s : State) (k : Nat) : List Nat := ngetD s.tim.slots k (List.replicate 16 0)
/-- What the edge engine holds of a slot. -/
def slotRun (s : State) (k : Nat) : SlotRun := ngetD s.tim.runs k ⟨[], none, 0, false, false, false, false⟩
/-- The slot that a window handle names (R353). -/
def slotOf (s : State) (h : Nat) : Nat := bits ((entryOf s h).word 1) 13 0

/-- Step 7: the window (R66). -/
def windowCheck (s : State) (h : Nat) : Nat :=
  if h = 0 then 0
  else if checkHandle s kWindow h ≠ 0 then 0x11
  else
    let w := slotWords s (slotOf s h)
    if bits (wordAt w 1) 31 28 ≠ 1 then 0x11
    else chk (!bit (wordAt w 0) 30 && ((slotRun s (slotOf s h)).passed || (slotRun s (slotOf s h)).handed)) 0x17

/-- A memory stream or tag plane: shell position, number, first nibble, length in nibbles, nibbles of one element. -/
structure Plane where
  pos : Nat
  j : Nat
  tag : Bool
  first : Nat
  len : Nat
  nib : Nat

/-- The planes of a job in memory. -/
def planes (s : State) (ds : List (List Nat)) (reg : Bool) : List Plane :=
  let n := ds.length
  let lead := leadOf ds
  let base (h : Nat) : Nat := (regionOf (entryOf s h)).base
  (withPos ds).flatMap (fun (p, d) =>
    let mem := (List.range 4).filter (inMemory d reg p n)
    mem.map (fun j => ⟨p, j, false, 2 * (base (jHandle d j) + jOff d j), 2 * jLen lead * elSize (jType d j), 2 * elSize (jType d j)⟩)
    ++ (mem.filter (jTagEn d)).map (fun j => ⟨p, j, true, 2 * base (jTagReg lead) + jTOff d j, jLen lead, 1⟩))

/-- c0 of a shell position (04). -/
def c0 (ds : List (List Nat)) (p : Nat) : Nat := 4 + ((ds.take p).map (fun d => chainLat d + 4)).sum

/-- P1 to P3 for one job (R130). -/
def placementBad (s : State) (ds : List (List Nat)) (ps : List Plane) : Bool :=
  let e := perCycle ds
  let rate (x : Plane) : Nat := e * x.nib
  let phase (x : Plane) : Nat :=
    ((courseBank s (x.first / 16 * 8)).1 + 1024 * 1024 * 1024 - rate x * c0 ds x.pos / 16) % 1024
  let ins := ps.filter (fun x => x.j ≠ 3)
  ps.any (fun x => x.first + x.len > 2 * courseSize)
  || ps.any (fun x => (List.range ((x.first + x.len + 2 ^ 21 - 1) / 2 ^ 21 - x.first / 2 ^ 21)).any
      (fun i => (s.reg (Blk.base .crsCtl)).testBit (x.first / 2 ^ 21 + i)))
  || ((List.range ins.length).any fun a => (List.range a).any fun b =>
      match ins[a]?, ins[b]? with
      | some x, some y => rate x = rate y && !within 64 960 ((phase x + 1024 - phase y) % 1024)
      | _, _ => false)

/-- Step 8: the deterministic conditions (R71). -/
def detCheck (s : State) (ds : List (List Nat)) (reg : Bool) : Nat :=
  if !jDet (leadOf ds) then 0
  else
    let ps := planes s ds reg
    let ys := ps.filter (fun x => x.j = 3)
    let y := ys.filter (fun x => !x.tag)
    firstFail
      [ chk (placementBad s ds ps) 0x13
      , chk (ys.any (fun x => x.first % 16 ≠ 0 || (x.first + x.len) % 16 ≠ 0)) 0x14
      , chk (ps.any (fun x => x.j ≠ 3 && !x.tag && y.any (fun o =>
          x.first ≠ o.first && x.first < o.first + o.len && o.first < x.first + x.len))) 0x15 ]

/-- The checks of R44 on a job's descriptors; the group's shape has been read from its lead. A continuation found where a lead
stands fails FORM's own checks first and then RAFT_GROUP, before CLASS: its FORM is a part of step 1 (DESIGN CHOICE,
notes/assumptions/59.md). -/
def admissionStatus (s : State) (ds : List (List Nat)) : Nat :=
  let lead := leadOf ds
  let reg := isRegForm ds
  let n := ds.length
  firstFail
    [ chk (decide (jForm lead > 3)) vsFormReserved
    , chk ((withPos ds).any (fun (p, d) => fieldsBad lead reg p n d)) vsFieldReserved
    , chk (jForm lead == 3) vsRaftGroup
    , classCheck s lead
    , lengthCheck lead reg
    , seatCheck ds reg
    , streamsCheck s ds reg
    , saveCheck s (jSave lead)
    , windowCheck s (jWindow lead)
    , detCheck s ds reg ]

/-! ### Records of jobs (R25, R76, R77) -/

/-- The body of a vector job record (R76). -/
structure JobEnd where
  status : Nat
  elements : Nat
  faultElem : Nat
  info : Nat
  cycles : Nat
  read0 : Nat
  read1 : Nat
deriving DecidableEq, Repr

/-- A job that has run nothing. -/
def noEnd (status : Nat) : JobEnd := ⟨status, 0, 0xFFFFFFFF, 0, 0, 0, 0⟩

/-- The catch that a job was armed for has come (R68). -/
def Job.past (j : Job) : Bool := j.late || j.caught

/-- Whether a status is one that a job with a save area can resume from (R78). -/
def resumable (st : Nat) : Bool := within 0x20 0x24 st

/-- The record body of a job (R76, R77). -/
def jobRecord (j : Job) (e : JobEnd) : RecordBody :=
  let d := leadOf j.descs
  let mask := j.shells.foldl (fun a n => a ||| 2 ^ n) 0
  let summary := j.tags ||| j.acc0.tag ||| j.acc1.tag
  let w7 := bnat j.rated * 2 ^ 27 + bnat (resumable e.status && jSave d != 0 && j.started) * 2 ^ 26 + bnat (j.late && j.started) * 2 ^ 25
    + bnat j.preempted * 2 ^ 24 + bnat (jDet d) * 2 ^ 23 + jPrio d * 2 ^ 20 + j.acc1.tag * 2 ^ 16 + j.acc0.tag * 2 ^ 12
    + (if j.started then mask else 0) * 2 ^ 8 + e.status
  { word0 := BitVec.ofNat 32 (jClass d), type := 0x20, partialRec := e.elements < jLen d, error := e.status ≠ 0, last := true,
    summary := BitVec.ofNat 4 summary, word6 := BitVec.ofNat 32 (jCookie d), word7 := BitVec.ofNat 32 w7,
    payload := leBytes 4 e.elements ++ leBytes 4 e.faultElem ++ leBytes 4 e.info ++ leBytes 4 e.cycles
      ++ leBytes 8 e.read0 ++ leBytes 8 e.read1 }

/-- A job that has just been admitted, or rejected, from its descriptors. -/
def newJob (id origin ring : Nat) (ds : List (List Nat)) : Job :=
  { id := id, origin := origin, descs := ds, shells := [], ring := ring, slot := none, late := false, caught := false,
    regions := [], exact := false, next := 0, prev := 0, strokes := 0,
    cycles := 0, acc0 := Accum.zero, acc1 := Accum.zero, flags := 0, ord := ⟨[], 0, 0⟩, tags := 0, started := false,
    resumed := false, preempted := false, rated := false }

/-- Registers of a queue. -/
def qBind (q : Nat) : Fld := F32 .vecSched (4 * q)
def qErr (q : Nat) : Fld := F32 .vecSched (0xC0 + 4 * q)
def qDrop (q : Nat) : Fld := F32 .vecSched (0x100 + 4 * q)

/-- The rejection record of a queued descriptor (R25). -/
def rejectRecord (q : Fin 16) (d : List Nat) (status : Nat) (s : State) : State :=
  let c := checkHandle s kClass (jClass d)
  let ring := if c = 0 then (entryOf s (jClass d)).word 2 else s.rd (qErr q)
  if ring = 0 then s.count (qDrop q) 1
  else
    let (s, w) := postWaiting (.queue q) ⟨.vector 0, BitVec.ofNat 32 ring, jobRecord (newJob 0 q.val 0 [d]) (noEnd status)⟩
      (stamp96 (now16 s)) s
    if w then { s with vec := { s.vec with qhold := s.vec.qhold ++ [q.val] } } else s

/-- Update the vector engine. -/
def onVec (f : VecState → VecState) (s : State) : State := { s with vec := f s.vec }

/-! ### Reading and admitting descriptors (R22, R24, R42, R43, R63, R231) -/

/-- Master ID of a shell's streams (R126). -/
def mShell (n : Nat) : Nat := 4 + n

/-- Read n descriptors from a list of addresses: none when a read gets an error response. -/
def readDescs (addrs : List Nat) (s : State) : State × Option (List (List Nat)) :=
  addrs.foldl (fun (acc : State × Option (List (List Nat))) a =>
    match acc.2 with
    | none => acc
    | some ds =>
      let g := memRead (mShell 0) accRead a 128 acc.1
      (g.st, if g.code = 0 then some (ds ++ [leWords 4 32 g.data]) else none)) (s, some [])

/-- The shells that a window-bound job takes at its admission: the lowest free choice (R31), else the lowest permitted one, which is
a DESIGN CHOICE (notes/assumptions/66.md). -/
def chooseArmed (s : State) (d : List Nat) : List Nat :=
  let l := choicesIn (classMask (entryOf s (jClass d))) (jRaft d) (jSel d)
  let free (n : Nat) : Bool := s.rd (F (.vecShell (Fin.ofNat 4 n)) 0 2 0) ≤ 1
  ((l.find? (fun c => c.all free)).getD (l.headD []))

/-- Put an admitted job into the pool; it binds its class (R26, R66, R168). -/
def poolJob (j : Job) (s : State) : State :=
  let d := leadOf j.descs
  let slot := if jWindow d = 0 then none else some (slotOf s (jWindow d))
  let j := { j with id := s.vec.nextId, slot := slot, ring := (entryOf s (jClass d)).word 2,
                    shells := if slot.isSome then chooseArmed s d else [] }
  bindH (jClass d) (onVec (fun v => { v with pool := v.pool ++ [j], nextId := v.nextId + 1 }) s)

/-- An accumulator block of a save area (R60). -/
def readAccum (bs : List Byte) : Accum :=
  let f := leNat ((bs.drop 0x228).take 8)
  ⟨BitVec.ofNat 4352 (leNat (bs.take 544)), leNat ((bs.drop 0x220).take 8),
   bits f 4 4 + 2 * bits f 5 5 + 4 * bits f 6 6 + 8 * bits f 7 7, bits f 3 0⟩

/-- The order state of a save area (R117). -/
def readOrd (bs : List Byte) : OrdState :=
  let at_ (o n : Nat) : Nat := leNat ((bs.drop o).take n)
  ⟨(List.range 62).filterMap (fun i =>
      if (at_ (16 * i + 12) 4).testBit 31 then some ⟨at_ (16 * i) 8, at_ (16 * i + 8) 4, at_ (16 * i + 12) 4 % 16⟩ else none),
    at_ (16 * 62) 8, at_ (16 * 62 + 8) 4⟩

/-- The job that a save area holds, after the checks of R42 and R63: a status, or the job. Its descriptors, their SAVE word
included, are those saved. An area that cannot be read, and one whose lead is itself a RESUME descriptor, are no valid save: they
answer SAVE_INVALID (DESIGN CHOICE, notes/assumptions/43.md). -/
def readSave (origin : Nat) (d : List Nat) (s : State) : State × Except Nat Job :=
  match regionAt s (jSave d) with
  | .error c => (s, .error (handleVs c))
  | .ok r =>
    if r.len < 2752 ∨ !r.rd ∨ !r.wr then (s, .error 0x10)
    else
      let g := memRead (mShell 0) accRead r.base 2752 s
      let at_ (o n : Nat) : Nat := leNat ((g.data.drop o).take n)
      let w := at_ 0 4
      if g.code ≠ 0 ∨ bits w 15 0 ≠ 0x5341 ∨ bits w 19 16 ≠ 1 ∨ !bit w 20 then (g.st, .error vsSaveInvalid)
      else
        let lead := leWords 4 32 ((g.data.drop 0x40).take 128)
        let ds := (List.range (raftSize lead)).map (fun i => leWords 4 32 ((g.data.drop (0x40 + 128 * i)).take 128))
        if jClass lead ≠ jClass d then (g.st, .error 7)
        else if jForm lead = 2 then (g.st, .error (if resumeFieldsBad lead then vsFieldReserved else vsSaveInvalid))
        else
          let j := newJob 0 origin 0 ds
          let j := { j with next := at_ 8 4, strokes := at_ 0xC 4, cycles := at_ 0x1C 4, preempted := bit (at_ 0x10 4) 8 }
          let j := { j with flags := at_ (0x6C0 + 16 * 63) 4 % 128, ord := readOrd ((g.data.drop 0x6C0).take 1024) }
          let j := { j with acc0 := readAccum ((g.data.drop 0x240).take 576) }
          (g.st, .ok { j with acc1 := readAccum ((g.data.drop 0x480).take 576), resumed := true })

/-- Admit descriptors: the state and the admission status. -/
def admitDescs (origin : Nat) (ds : List (List Nat)) (s : State) : State × Nat :=
  let d := leadOf ds
  if jForm d = 2 then
    if resumeFieldsBad d then (s, vsFieldReserved)
    else
      let c := checkHandle s kClass (jClass d)
      if c ≠ 0 then (s, handleVs c)
      else match readSave origin d s with
        | (s, .error st) => (s, st)
        | (s, .ok j) =>
          let st := admissionStatus s j.descs
          if st ≠ 0 then (s, st) else (poolJob j s, 0)
  else
    let st := admissionStatus s ds
    if st ≠ 0 then (s, st) else (poolJob (newJob 0 origin 0 ds) s, 0)

/-- Whether a descriptor's FORM is one that a row of the opcode table admits: memory, register, resume, raft. -/
def rowForm (d : List Nat) : Nat :=
  if jForm d = 1 then 1 else if jForm d = 2 then 2 else if jForm d = 0 ∧ (jRaft d = 1 ∨ jRaft d = 2) then 3 else 0

/-- Admission from a command queue (R22, R23, R25): served, unpaused, not held, pool not full, descriptors in the ring.
A raft group of which a part is missing waits, unless what follows is not a continuation. -/
def admitQueue (row : Nat) (q : Fin 16) (ue : Bool) (s : State) : State :=
  let h := s.rd (qBind q)
  let ctl := s.reg (Blk.base .vecSched + 0x40 + 4 * q.val)
  let r := ringNo s h
  if h = 0 ∨ checkHandle s kRing h ≠ 0 ∨ !bit ctl 0 ∨ bit ctl 1 ∨ s.vec.qhold.contains q.val ∨ s.vec.pool.length ≥ 64
    ∨ occupancy s r < 128 then s
  else
    let cons := s.reg (ringReg r 0x14)
    let there := min 4 (occupancy s r / 128)
    match readDescs [ringAddr s r cons] s with
    | (_, none) => s
    | (s1, some ds) =>
      let lead := leadOf ds
      if rowForm lead ≠ row then s
      else
        let n := if row = 3 then raftSize lead else 1
        let got := readDescs ((List.range (min n there - 1)).map (fun i => ringAddr s r (cons + 128 * (i + 1)))) s1
        match got with
        | (_, none) => s
        | (s, some more) =>
          let conts := more.takeWhile (fun d => jForm d = 3)
          if conts.length = more.length ∧ there < n then s1
          else
            let ds := lead :: conts
            let s := ueHandle ue (jClass lead) s
            let (s, st) := if ds.length < n then (s, firstFail [chk (fieldsBad lead false 0 n lead) vsFieldReserved,
              classCheck s lead, lengthCheck lead false, vsRaftGroup]) else admitDescs q.val ds s
            let s := if st ≠ 0 then rejectRecord q lead st s else s
            advanceCons r (cons + 128 * ds.length) s

/-- Direct submission by a core: the status goes to the core (R24, R231). A region that the descriptors cannot be read from
answers RIGHTS, one that they run past BOUNDS: R78 names these codes for streams only (DESIGN CHOICE, notes/assumptions/59.md). -/
def admitDirect (row : Nat) (c : Fin 4) (h off : Nat) (ue : Bool) (s : State) : State :=
  let ans (st : Nat) (s : State) : State := onVec (fun v => { v with status := v.status.set c st }) s
  if s.vec.pool.length ≥ 64 then ans vsPoolFull s
  else match regionAt s h with
    | .error e => ans (handleVs e) s
    | .ok r =>
      if !r.rd then ans vsRights s
      else if off + 128 > r.len then ans vsBounds s
      else match readDescs [r.base + off] s with
        | (s1, none) => ans vsSaveInvalid s1
        | (s1, some ds) =>
          let lead := leadOf ds
          if row < 4 ∧ rowForm lead ≠ row then s
          else
            let n := if rowForm lead = 3 then raftSize lead else 1
            if off + 128 * n > r.len then ans vsBounds s1
            else match readDescs ((List.range (n - 1)).map (fun i => r.base + off + 128 * (i + 1))) s1 with
              | (s, none) => ans vsSaveInvalid s
              | (s, some more) =>
                let ds := lead :: more.takeWhile (fun d => jForm d = 3)
                let s := ueHandle ue (jClass lead) s
                let (s, st) := if ds.length < n then (s, firstFail [chk (fieldsBad lead false 0 n lead) vsFieldReserved,
                  classCheck s lead, lengthCheck lead false, vsRaftGroup]) else admitDescs (16 + c.val) ds s
                ans st s

/-- Admission of a descriptor of one row's form. -/
def admitRow (row : Nat) (src : JobSource) (ue : Bool) (s : State) : State :=
  match src with
  | .queue q => admitQueue row q ue s
  | .submit c h off => admitDirect row c h.toNat off ue s

/-! ### Bindings of queues (R23, R25, R168, R187) -/

/-- Whether a ring handle can be bound once more to a register (R162, R168). -/
def ringBindable (s : State) (h : Nat) : Bool := checkHandle s kRing h = 0 && !bindsFull s h 1

/-- TARGET SCHED while a queue is bound to a ring; the old value returns at the unbind (R187). -/
def schedTarget (h : Nat) (on : Bool) (s : State) : State :=
  if checkHandle s kRing h ≠ 0 then s
  else
    let r := ringNo s h
    match nget r s.stk.rings with
    | none => s
    | some g =>
      let t := ringFld r 0xC 31 30
      if on then
        let g := { g with prevTarget := some (g.prevTarget.getD (s.rd t)) }
        { s.wr t 2 with stk := { s.stk with rings := nput r g s.stk.rings } }
      else
        match g.prevTarget with
        | some v => { s.wr t v with stk := { s.stk with rings := nput r { g with prevTarget := none } s.stk.rings } }
        | none => s

/-- Write a register that binds a ring: refused with CONFIG_ERR unless 0 or bindable and accepted (R162, R168). -/
def bindReg (b : Blk) (off : Nat) (okPolicy : Nat → Bool) (h : Nat) (s : State) : State :=
  let f := F32 b off
  let old := s.rd f
  if h = old then s
  else if h ≠ 0 ∧ (!ringBindable s h ∨ !okPolicy (ringPolicy s h)) then configErr b off s
  else
    let s := if old = 0 then s else unbindH old s
    (if h = 0 then id else bindH h) (s.wr f h)

/-- Write of QBINDn (R23, R187). -/
def queueBind (q : Fin 16) (h : Nat) (s : State) : State :=
  let old := s.rd (qBind q)
  let s := bindReg .vecSched (4 * q.val) (· == 0) h s
  if s.rd (qBind q) = old then s
  else
    let s := if old = 0 then s else schedTarget old false s
    if h = 0 then s else schedTarget h true s

/-! ### Meanings -/

/-- JOB_ADMIT_MEMORY (R28, R44). -/
def execJobAdmitMemory (src : JobSource) (ue : Bool) (s : State) : Answer := .next (admitRow 0 src ue s)
/-- JOB_ADMIT_REGISTER (R40). -/
def execJobAdmitRegister (src : JobSource) (ue : Bool) (s : State) : Answer := .next (admitRow 1 src ue s)
/-- JOB_ADMIT_RESUME (R63). -/
def execJobAdmitResume (src : JobSource) (ue : Bool) (s : State) : Answer := .next (admitRow 2 src ue s)
/-- JOB_ADMIT_RAFT (R43). -/
def execJobAdmitRaft (q : Fin 16) (ue : Bool) (s : State) : Answer := .next (admitRow 3 (.queue q) ue s)
/-- QUEUE_BIND (R23). -/
def execQueueBind (m : Master) (q : Fin 16) (h : W32) (s : State) : Answer :=
  .next (reaches m .vecSched (4 * q.val) (write32 h.toNat) (queueBind q h.toNat) s)
/-- QUEUE_ERROR_BIND (R25). -/
def execQueueErrorBind (m : Master) (q : Fin 16) (h : W32) (s : State) : Answer :=
  .next (reaches m .vecSched (0xC0 + 4 * q.val) (write32 h.toNat) (bindReg .vecSched (0xC0 + 4 * q.val) (fun _ => true) h.toNat) s)

end Sys2Proof.Machine
end

