-- ==== Sys2Proof/Machine/VecRun.lean ====
section
/-!
DEFINITION. The shells at work (02, R26, R49 to R78; 03, R95, R99, R109 to R121): starts, strokes, commits,
drains, halts, preemption, the save area and completion.
-/
namespace Sys2Proof.Machine

/-- Blocks and registers of a shell. -/
def shBlk (n : Nat) : Blk := .vecShell (Fin.ofNat 4 n)
def shState (n : Nat) : Fld := F (shBlk n) 0 2 0
def shPrio (n : Nat) : Fld := F (shBlk n) 0 5 3
def shDepth (n : Nat) : Fld := F (shBlk n) 0 8 6
def shDet (n : Nat) : Fld := F (shBlk n) 0 9 9
def shRafted (n : Nat) : Fld := F (shBlk n) 0 10 10
def shRating (n : Nat) : Fld := F (shBlk n) 0 14 11
/-- STATE codes. -/
def stOff : Nat := 0
def stIdle : Nat := 1
def stReserved : Nat := 2
def stRunning : Nat := 3
def stHeld : Nat := 4
def stRecordWait : Nat := 5
def stInTest : Nat := 6

/-- What a shell holds. -/
def run (s : State) (n : Nat) : ShellRun := s.vec.shells[Fin.ofNat 4 n]
/-- Update what a shell holds. -/
def onRun (n : Nat) (f : ShellRun → ShellRun) (s : State) : State :=
  onVec (fun v => { v with shells := v.shells.set (Fin.ofNat 4 n) (f v.shells[Fin.ofNat 4 n]) }) s

/-! ### The issue limit (R73, R417, R436) -/

/-- The rating cap in force. -/
def ratingCap (s : State) : Nat :=
  let c := s.rd (F .pwrGov 4 15 12)
  if s.mode = modeHoldWater then min c (s.rd (F .pwrCtl 4 7 4)) else c

/-- The issue sum in eighths. -/
def issueSum (s : State) : Nat :=
  ((List.range 4).map (fun n =>
    if s.rd (shState n) = stRunning then s.rd (shRating n)
    else if s.rd (shState n) = stReserved then (run s n).ballast else 0)).sum

/-- The least issue sum over the preceding 256 ns. -/
def issueLeast (s : State) : Nat :=
  let inWin := s.vec.sums.takeWhile (fun e => e.1 + 384 > s.elapsed)
  let before := ((s.vec.sums.drop inWin.length).head?).elim 0 Prod.snd
  (inWin.map Prod.snd).foldl min (min before (issueSum s))

/-- Record a change of the issue sum. -/
def noteSum (s : State) : State :=
  onVec (fun v =>
    let l := (s.elapsed, issueSum s) :: v.sums
    let k := (l.takeWhile (fun e => e.1 + 384 > s.elapsed)).length
    { v with sums := l.take (k + 1) }) s

/-- The rating at which a list of shells may issue now. -/
def allowedRating (s : State) (shs : List Nat) : Nat :=
  let own := (shs.map (fun n => if s.rd (shState n) = stReserved then (run s n).ballast
    else if s.rd (shState n) = stRunning then s.rd (shRating n) else 0)).sum
  let room := issueLeast s + s.rd (F .pwrGov 0 5 0) - (issueSum s - own)
  min (ratingCap s) (room / max 1 shs.length)

/-! ### Reading a stroke -/

/-- n elements of a stream from an address: values, and the first failing element with its response code. -/
def readEls (m a size n : Nat) (s : State) : State × List Nat × Option (Nat × Nat) :=
  let g := memRead m accRead a (n * size) s
  if g.code = 0 then (g.st, leWords size n g.data, none)
  else
    (List.range n).foldl (fun (acc : State × List Nat × Option (Nat × Nat)) i =>
      match acc.2.2 with
      | some _ => acc
      | none =>
        let h := memRead m accRead (a + i * size) size acc.1
        if h.code = 0 then (h.st, acc.2.1 ++ [leNat h.data], none) else (h.st, acc.2.1, some (i, h.code))) (s, [], none)

/-- n tags from a nibble of a tag region at a base address (R35). -/
def readTags (m base nib n : Nat) (s : State) : State × List Nat × Option (Nat × Nat) :=
  let a := base + nib / 2
  let len := (nib + n - 1) / 2 - nib / 2 + 1
  let g := memRead m accRead a len s
  if g.code = 0 then (g.st, (List.range n).map (fun i => leNat g.data / 16 ^ (nib % 2 + i) % 16), none)
  else
    (List.range n).foldl (fun (acc : State × List Nat × Option (Nat × Nat)) i =>
      match acc.2.2 with
      | some _ => acc
      | none =>
        let h := memRead m accRead (base + (nib + i) / 2) 1 acc.1
        if h.code = 0 then (h.st, acc.2.1 ++ [leNat h.data / 16 ^ ((nib + i) % 2) % 16], none)
        else (h.st, acc.2.1, some (i, h.code))) (s, [], none)

/-- A BINARY16 element as the port presents it: the same value, NaN bits kept (R82). -/
def widen16 (x : Nat) : Nat :=
  match unpack f16 x with
  | .nan _ => f32.inf + x % 2 ^ 10 * 2 ^ 13 + bnat (x.testBit 15) * f32.sbit
  | v => (roundTo f32 0 false v).1

/-- An element as a seat reads it. -/
def present (t x : Nat) : Nat := if t = tB16 then widen16 x else x

/-- The first failing read of a stroke: element, order among the streams of the element, status, FAULT_INFO. -/
structure ReadFail where
  elem : Nat
  order : Nat
  status : Nat
  info : Nat
deriving DecidableEq, Repr

/-- The status that an error response to a stream read gives (R53, R78). -/
def readStatus (code : Nat) : Nat := if code = rUe then vsEcc else if code = rInTest then vsInTest else vsRegion

/-- The inputs of one shell position: streams A, B, C. -/
abbrev Inputs := List (Array El)

/-- The region that a handle named when the job's handles were last checked: it serves until the next check (R51, R54, R163). -/
def Job.region (j : Job) (h : Nat) : Region := ((j.regions.find? (fun p => p.1 = h)).map Prod.snd).getD ⟨0, 0, false, false⟩

/-- One input stream of a stroke: elements with tags, and a failure. A failing read belongs to no seat: FAULT_INFO gives seat 0 of
its shell position (DESIGN CHOICE, notes/assumptions/59.md). -/
def readInput (job : Job) (reg : Bool) (sh p j first n : Nat) (s : State) : State × Array El × List ReadFail :=
  let ds := job.descs
  let d := ds.getD p []
  let lead := leadOf ds
  let t := jType d j
  let bad (k : Nat) (e : Option (Nat × Nat)) : List ReadFail :=
    match e with
    | none => []
    | some (i, c) => [⟨i, 8 * p + k, readStatus c, (if k < 3 then k else k + 1) * 32 + 8 * p⟩]
  if t = 0 ∨ isLink p ds.length j then (s, #[], [])
  else if inMemory d reg p ds.length j then
    let r := job.region (jHandle d j)
    let (s, vs, e) := readEls (mShell sh) (r.base + jOff d j + first * elSize t) (elSize t) n s
    let (s, ts, e') :=
      if jTagEn d j then readTags (mShell sh) (job.region (jTagReg lead)).base (jTOff d j + first) n s
      else (s, [], none)
    let vs := vs.toArray
    let ts := ts.toArray
    (s, ((List.range n).map (fun i => (⟨present t (vs.getD i 0), ts.getD i 0⟩ : El))).toArray, bad j e ++ bad (3 + j) e')
  else
    let v := run s sh
    let z := elSize t
    let b := regNo d j * 1024
    let ue (i : Nat) : Bool := v.vbad.any (within (b + i * z) (b + i * z + z - 1))
    let first? (p : Nat → Bool) : Option (Nat × Nat) := ((List.range n).find? p).map (·, rUe)
    let (e, e') := (first? ue, first? (fun i => v.tbad.contains (b + i)))
    let s := if e.isSome || e'.isSome then report (shBlk sh) 1 s else s
    (s, ((List.range n).map (fun i =>
      (⟨present t (leNat ((List.range z).map (fun k => ngetD v.vreg (b + i * z + k) 0))), ngetD v.vtag (b + i) 0⟩ : El))).toArray,
      bad j e ++ bad (3 + j) e')

/-! ### One element through the chains -/

/-- A seat that has run: word, first two operands, result, flags. -/
structure SeatRan where
  word : Nat
  a : El
  b : El
  r : El
  fl : Nat
deriving DecidableEq, Repr

/-- The seats of one chain on one element (R37, R80). -/
def runChain (d : List Nat) (env : FEnv) (x : List El) : List SeatRan :=
  (jSeats d).foldl (fun (done : List SeatRan) w =>
    let i := done.length
    let z : El := ⟨0, 0⟩
    let res (k : Nat) : El := ((done[k]?).map SeatRan.r).getD z
    let src (j : Nat) : El :=
      match sSrc w j with
      | 0 => if i = 0 then x.getD 0 z else res (i - 1)
      | 1 => x.getD 0 z
      | 2 => x.getD 1 z
      | 3 => x.getD 2 z
      | _ => res (i - 2)
    let (r, fl) := seatEval w env (src 0) (src 1) (src 2)
    done ++ [⟨w, src 0, src 1, r, fl⟩]) []

/-- The Y port of the last chain: a BINARY16 Y is rounded there, its flags counted to the last seat (R82). -/
def portY (d : List Nat) (env : FEnv) (r : El) : El × Nat :=
  if jType d 3 = tB16 then
    let (v, fl) := roundTo f16 env.rm env.flush (unpack f32 r.v)
    (⟨v, r.tag⟩, fl)
  else (r, 0)

/-- An element through all chains of a job: last chain's seats, the element at Y, all flags, the first trapping seat
(R64, R99). -/
def runElement (ds : List (List Nat)) (ins : List Inputs) (i : Nat) : List SeatRan × El × Nat × Option Nat :=
  let lead := leadOf ds
  let env := jEnv lead
  let z : El := ⟨0, 0⟩
  (withPos ds).foldl (fun (acc : List SeatRan × El × Nat × Option Nat) (p, d) =>
    let inp := (ins.getD p []).map (fun a => a.getD i z)
    let inp := if p = 0 then inp else inp.set 0 acc.2.1
    let ran := runChain d env inp
    let r := ((ran.getLast?).map SeatRan.r).getD z
    let (y, pf) := if p + 1 = ds.length then portY d env r else (r, 0)
    let fls := (ran.map SeatRan.fl).modify (ran.length - 1) (· ||| pf)
    let trap := if jTrap lead then (List.range fls.length).find? (fun k => fls.getD k 0 &&& jTrapEn lead ≠ 0) else none
    (ran, y, fls.foldl (· ||| ·) acc.2.2.1, acc.2.2.2.or (trap.map (8 * p + ·)))) ([], z, 0, none)

/-- What a stroke has computed. -/
structure StrokeOut where
  ys : List El
  acc0 : Accum
  acc1 : Accum
  ord : OrdState
  flags : Nat
  trap : Option (Nat × Nat × Nat)

/-- The elements of a stroke in order, up to a count, stopping at a trap: element, seat, its flags (R50, R53, R99, R115). -/
def runElements (ds : List (List Nat)) (ins : List Inputs) (first n : Nat) (o : OrdState) : StrokeOut :=
  let last := lastOf ds
  let rt := (seatResults last).getLastD 0
  let word (a : Nat) : Nat := redSeat last a
  (List.range n).foldl (fun (out : StrokeOut) i =>
    match out.trap with
    | some _ => out
    | none =>
      let (ran, y, fl, trap) := runElement ds ins i
      match trap with
      | some k => { out with trap := some (i, k, fl) }
      | none =>
        let add (a : Nat) (acc : Accum) : Accum :=
          match ran[word a]? with
          | some q => accumulate (redOp last a) q.word q.a q.b q.r acc
          | none => acc
        let r := ((ran.getLast?).map SeatRan.r).getD ⟨0, 0⟩
        { out with ys := y :: out.ys, acc0 := add 0 out.acc0, acc1 := add 1 out.acc1, flags := out.flags ||| fl,
                   ord := orderStep (jPerm last) rt (first + i) r out.ord })
    ⟨[], Accum.zero, Accum.zero, o, 0, none⟩

/-! ### Write-out -/

/-- The bytes that hold tags from a nibble of a region, its other nibbles as they stand (R35). -/
def tagBytes (s : State) (base nib : Nat) (tags : List Nat) : Nat × List Byte :=
  let a := base + nib / 2
  let len := (nib + tags.length - 1) / 2 - nib / 2 + 1
  let old := leNat ((List.range len).map (fun i => BitVec.ofNat 8 (peekByte s (a + i))))
  let v := ((List.range tags.length).zip tags).foldl (fun v (i, t) =>
    putBits v (4 * (nib % 2 + i) + 3) (4 * (nib % 2 + i)) t) old
  (a, leBytes len v)

/-- The writes of tags, word by word. One that does not cover its 64-bit word is merged at the memory: where it touches all
8 bytes of the word it goes there as two parts, each a partial write (R48, R147). -/
def tagWrites (s : State) (base nib : Nat) (tags : List Nat) : List (Nat × List Byte) :=
  let (a, bs) := tagBytes s base nib tags
  let n0 := 2 * base + nib
  let n1 := n0 + tags.length
  (List.range ((a + bs.length - 1) / 8 - a / 8 + 1)).flatMap (fun i =>
    let w := a / 8 + i
    let lo := max a (8 * w)
    let part := (bs.drop (lo - a)).take (8 * w + 8 - lo)
    if part.length < 8 ∨ (n0 ≤ 16 * w ∧ 16 * w + 16 ≤ n1) then [(lo, part)]
    else [(lo, part.take 4), (lo + 4, part.drop 4)])

/-- The Y data of a stroke as bytes. -/
def yBytes (t : Nat) (ys : List El) : List Byte := ys.flatMap (fun e => leBytes (elSize t) e.v)

/-- The write-out of a stroke: data, then tags (R35, R50). -/
def drainOf (j : Job) (reg : Bool) (first : Nat) (ys : List El) : List DrainWrite :=
  let ds := j.descs
  let d := lastOf ds
  let n := ds.length
  if inMemory d reg (n - 1) n 3 then
    let t := jType d 3
    .data ((j.region (jHandle d 3)).base + jOff d 3 + first * elSize t) (yBytes t ys)
    :: (if jTagEn d 3 then
        [.tags (j.region (jTagReg (leadOf ds))).base (jTOff d 3 + first) (ys.map El.tag)]
      else [])
  else []

/-- A DET write-out enters the write queues word by word (R129). -/
def writeDet (m a : Nat) (bs : List Byte) (s : State) : State × Nat :=
  if rangeIn 0 courseSize a bs.length then
    let (s, c) := admitRange m true a bs.length s
    if c ≠ 0 then (s, c)
    else (forAll (List.range (bs.length / 8)) (fun i s => queueDet (a + 8 * i) (leNat ((bs.drop (8 * i)).take 8)) s) s, 0)
  else memWrite m a bs s

/-- Writes in order up to the first that gets an error response: state, and its address. -/
def writeParts (m : Nat) (det : Bool) (ps : List (Nat × List Byte)) (s : State) : State × Option Nat :=
  ps.foldl (fun (acc : State × Option Nat) p =>
    match acc.2 with
    | some _ => acc
    | none =>
      let (s, c) := if det then writeDet m p.1 p.2 acc.1 else memWrite m p.1 p.2 acc.1
      (s, if c = 0 then none else some p.1)) (s, none)

/-- Perform a write-out: state, and the address of the first write that gets an error response. -/
def writeOut (m : Nat) (det : Bool) (ws : List DrainWrite) (s : State) : State × Option Nat :=
  ws.foldl (fun (acc : State × Option Nat) w =>
    match acc.2 with
    | some _ => acc
    | none => writeParts m det (match w with
        | .data a bs => [(a, bs)]
        | .tags base nib l => tagWrites acc.1 base nib l) acc.1) (s, none)

/-! ### Ends of a job -/

/-- The shell that writes a job's record: the last of its shells, which holds its reduction stage (R64). -/
def recordShell (j : Job) : Nat := j.shells.getLastD 0

/-- The shells of a job are free again: IDLE, or RESERVED for a window (R57, R67). -/
def freeShells (shs : List Nat) (s : State) : State :=
  noteSum (forAll shs (fun n s =>
    let s := onRun n (fun r => { r with job := none, lead := none, drain := none, drainErr := none, computed := false, halt := none,
                                        cancel := false, stop := none }) s
    let s := ((s.wr (shPrio n) 0).wr (shDet n) 0).wr (shRafted n) 0
    s.wr (shState n) (if (run s n).reserved.isEmpty then stIdle else stReserved)) s)

/-- Shells let go of the reservations that a test on shell and slot names; RESERVED ends with the last (R67). -/
def unreserve (p : Nat → Nat → Bool) (s : State) : State :=
  forAll (List.range 4) (fun n s =>
    if (run s n).reserved.any (p n) then
      let s := onRun n (fun r => { r with reserved := r.reserved.filter (fun k => !p n k) }) s
      if (run s n).reserved.isEmpty then
        let s := onRun n (fun r => { r with ballast := 0 }) s
        noteSum (if s.rd (shState n) = stReserved then s.wr (shState n) (if domState s (16 + n) = 3 then stOff else stIdle) else s)
      else s
    else s) s

/-- A shell stays reserved for a slot while the pool holds a job of that slot for it (R66, R67; notes/assumptions/41.md). -/
def unreserveIdle (s : State) : State :=
  unreserve (fun n k => !s.vec.pool.any (fun j => j.slot = some k && j.shells.contains n)) s

/-- The record of a job that holds no shell, and the release of its class (R66, R76, R168): the scheduler's, or, of a job that has
run, that of the shell that ran it, which shows its flags (R95, R391) and goes on while the record waits (R77; DESIGN CHOICE,
notes/assumptions/66.md). -/
def endPooled (j : Job) (status : Nat) (s : State) : State :=
  let e : JobEnd := { noEnd status with elements := j.next, cycles := j.cycles }
  let n := Fin.ofNat 4 (recordShell j)
  let o : RecordOffer := ⟨.vector (if j.started then n else 0), BitVec.ofNat 32 j.ring, jobRecord j e⟩
  let (s, _, written) := postFor (if j.started then .ran n j.flags else .other) o (stamp96 (now16 s)) s
  let s := if written ∧ j.started then s.wr (F (.vecShell n) 0x018 6 0) j.flags else s
  let s := unbindH (jClass (leadOf j.descs)) s
  if j.slot.isSome then unreserveIdle s else s

/-- The end of a job on its shells: record unless QUIET hides it, flags when it is written, and at a halt at once, release of the
class; a full BLOCK ring leaves the shell in RECORD_WAIT (R76, R77, R95, R99). -/
def endRunning (j : Job) (e : JobEnd) (flags : Nat) (halted : Bool) (s : State) : State :=
  let n := recordShell j
  let s := if halted then s.wr (F (shBlk n) 0x018 6 0) flags else s
  let s := freeShells j.shells s
  let s := unbindH (jClass (leadOf j.descs)) s
  -- a job that a wipe of the handle table has ended writes no record (R173)
  if (jQuiet (leadOf j.descs) ∧ e.status = 0) ∨ j.ring = 0 then s
  else
    let o : RecordOffer := ⟨.vector (Fin.ofNat 4 n), BitVec.ofNat 32 j.ring, jobRecord j e⟩
    let (s, w, written) := postFor (.shell (Fin.ofNat 4 n) flags) o (stamp96 (now16 s)) s
    let s := if written then s.wr (F (shBlk n) 0x018 6 0) flags else s
    if w then s.wr (shState n) stRecordWait else s

/-! ### The save area (R59, R60, R117) -/

/-- An accumulator block. -/
def accumBytes (a : Accum) : List Byte :=
  leBytes 544 a.value.toNat ++ leBytes 8 a.count
  ++ leBytes 8 (a.tag + bits a.special 0 0 * 16 + bits a.special 1 1 * 32 + bits a.special 2 2 * 64 + bits a.special 3 3 * 128)
  ++ leBytes 16 0

/-- The order-stage block with the flag set. -/
def ordBytes (o : OrdState) (uses : Bool) (flags : Nat) : List Byte :=
  let ent (i : Nat) : List Byte :=
    match o.entries[i]? with
    | some x => leBytes 8 x.v ++ leBytes 4 x.idx ++ leBytes 4 (2 ^ 31 + x.tag)
    | none => leBytes 16 0
  (if uses then (List.range 62).flatMap ent ++ leBytes 8 o.entered ++ leBytes 4 o.excluded ++ leBytes 4 0
   else leBytes (16 * 63) 0) ++ leBytes 4 flags ++ leBytes 12 0

/-- First word of a save area. -/
def saveWord0 (valid : Bool) : Nat := bnat valid * 2 ^ 20 + 2 ^ 16 + 0x5341

/-- The save area of a job. -/
def saveBytes (j : Job) (valid preempted : Bool) (e : JobEnd) : List Byte :=
  let d := leadOf j.descs
  let mask := j.shells.foldl (fun a n => a ||| 2 ^ n) 0
  leBytes 4 (saveWord0 valid) ++ leBytes 4 (jCookie d) ++ leBytes 4 j.next ++ leBytes 4 j.strokes
  ++ leBytes 4 (mask * 2 ^ 12 + jRaft d * 2 ^ 10 + bnat preempted * 2 ^ 8 + e.status)
  ++ leBytes 4 e.faultElem ++ leBytes 4 e.info ++ leBytes 4 j.cycles ++ leBytes 32 0
  ++ (List.range 4).flatMap (fun i => (List.range 32).flatMap (fun k => leBytes 4 (wordAt (j.descs.getD i []) k)))
  ++ accumBytes j.acc0 ++ accumBytes j.acc1 ++ ordBytes j.ord (usesOrder (lastOf j.descs)) j.flags

/-- Write into a job's save region, while its handle is live. -/
def saveWrite (j : Job) (off : Nat) (bs : List Byte) (s : State) : State :=
  match regionAt s (jSave (leadOf j.descs)) with
  | .ok r => (memWrite (mShell (recordShell j)) (r.base + off) bs s).1
  | .error _ => s

/-- Write a job's whole save area (R59). -/
def writeSave (j : Job) (valid preempted : Bool) (e : JobEnd) (s : State) : State :=
  if jSave (leadOf j.descs) = 0 then s else saveWrite j 0 (saveBytes j valid preempted e) s

/-! ### Starting (R26, R54, R57, R67 to R70) -/

/-- The region handles that a job uses. -/
def jobHandles (ds : List (List Nat)) : List Nat :=
  let n := ds.length
  let reg := isRegForm ds
  let lead := leadOf ds
  let mem := (withPos ds).flatMap (fun (p, d) => ((List.range 4).filter (inMemory d reg p n)).map (fun j => (d, j)))
  mem.map (fun (d, j) => jHandle d j) ++ (if mem.any (fun (d, j) => jTagEn d j) then [jTagReg lead] else [])
  ++ (if jSave lead = 0 then [] else [jSave lead])

/-- Whether a handle that the job uses has gone stale (R51, R54). -/
def jobStale (s : State) (j : Job) : Bool :=
  (jobHandles j.descs).any (fun h => checkHandle s kRegion h ≠ 0) || checkHandle s kClass (jClass (leadOf j.descs)) ≠ 0

/-- The regions of a job's handles as the table has them now. -/
def jobRegions (s : State) (ds : List (List Nat)) : List (Nat × Region) :=
  (jobHandles ds).map (fun h => (h, regionOf (entryOf s h)))

/-- The domains of the shells that a job runs on: pipes, stream buffers and registers, and the exact accumulators of its last
shell when RED uses them (R43, R64, R67). -/
def shellDomains (ds : List (List Nat)) (shs : List Nat) : List Nat :=
  let red := redOp (lastOf ds) 0 ≠ 0 ∨ redOp (lastOf ds) 1 ≠ 0
  shs.flatMap (fun n => [8 + n, 16 + n]) ++ (if red then [12 + shs.getLastD 0] else [])

/-- The memory groups, of one memory, that a job's regions lie in. -/
def regionGroups (s : State) (j : Job) (base size group dom : Nat) : List Nat :=
  (jobHandles j.descs).flatMap fun h =>
    match regionAt s h with
    | .ok r => if rangeIn base size r.base r.len ∧ r.len ≠ 0 then
        let first := (r.base - base) / group
        (List.range ((r.base - base + r.len - 1) / group - first + 1)).map (fun i => dom + first + i)
      else []
    | .error _ => []

/-- The domains that a window's wake action wakes for its job (R67). -/
def jobDomains (s : State) (j : Job) : List Nat :=
  (shellDomains j.descs j.shells ++ regionGroups s j 0 courseSize (2 ^ 20) 20).eraseDups

/-- The domains without which a job does not start (R69, R424). -/
def jobNeeds (s : State) (j : Job) : List Nat := jobDomains s j ++ regionGroups s j crewBase crewSize (2 ^ 18) 84

/-- Whether a request to a domain fails at once: it has failed to wake, or is held off (R423, R424). -/
def domFails (s : State) (d : Nat) : Bool := domState s d = 5 || (domForce s d = 2 && domState s d ≠ 0)

/-- A job that a domain's failed wake keeps from starting ends; a shell whose own domain failed raises WAKE_FAIL (R69;
notes/assumptions/61.md). -/
def endWakeFail (j : Job) (s : State) : State :=
  let failed := (shellDomains j.descs j.shells).filter (domFails s)
  let s := forAll (j.shells.filter (fun n => failed.any (fun d => d = 8 + n || d = 12 + n || d = 16 + n)))
    (fun n s => report (shBlk n) 2 s) s
  endPooled j vsWakeFail s

/-- Whether a job handed over for a catch may start: the first core cycle at or after the catch lies within one time-unit
cycle of it (R68). -/
def catchNow (s : State) (instant : Nat) : Bool := decide (3 * (instant * 2 ^ 32) ≤ 3 * s.tb + 2 ^ 49)

/-- Core cycles that a job has run when it ends otherwise than by completion, or is saved: at least those of the duration rule so
far; no rule gives their number, so the rest is a free value (R59, R72, R75, R76; notes/assumptions/42.md). -/
def openCycles (j : Job) (s : State) : Nat × State :=
  let (k, s) := s.fresh
  (j.cycles + (Config.openWord k).toNat % 2 ^ 32, s)

/-- Start a job on shells: its record at once when a domain fails or, on its shells, when a handle is stale at cycles 0 to 3;
otherwise it runs at the rating the limit allows, or waits for it (R54, R68, R69, R436). drop takes it from where it waits. Every
shell of a raft that starts late counts it in its VEC_SHELLn_LATE (DESIGN CHOICE, notes/assumptions/59.md). -/
def startOn (j : Job) (shs : List Nat) (drop : State → State) (keep : Job → State → State) (s : State) : State :=
  let j := { j with shells := shs }
  if (jobNeeds s j).any (domFails s) then endWakeFail j (drop s)
  else
    let s := forAll (shellDomains j.descs shs) (fun d s => (wakeDom d s).1) s
    let r := allowedRating s shs
    if r = 0 then keep { j with rated := true } s
    else
      let d := leadOf j.descs
      let lead := shs.headD 0
      let setup := if isRegForm j.descs then 0 else 16
      let punctual := isRegForm j.descs || (j.slot.isSome && !j.late)
      let s := if j.late && !j.started then forAll shs (fun n s => s.count (F32 (shBlk n) 0x00C) 1) s else s
      let j := { j with started := true, rated := j.rated || r < 8, cycles := j.cycles + setup, regions := jobRegions s j.descs,
                        exact := jDet d && punctual && r = 8 && !j.rated }
      let s := drop s
      let s := match j.slot with
        | some k => { s with dom := { s.dom with kept := s.dom.kept.filter (fun p => p.2 ≠ k) } }
        | none => s
      -- its own reservation ends, and that of a rival at the same catch, which starts next (R70)
      let gives (k : Nat) : Bool := j.slot = some k || s.vec.pool.any (fun x => x.slot = some k && x.past)
        || s.vec.due.any (fun e => e.slot = k && e.job.isSome && catchNow s e.instant)
      let s := forAll shs (fun n s =>
        let s := onRun n (fun q => { q with lead := some lead, reserved := q.reserved.filter (fun k => !gives k), ballast := 0, job := none }) s
        let s := ((s.wr (shState n) stRunning).wr (shPrio n) (jPrio d)).wr (shDet n) (bnat (jDet d))
        ((s.wr (shRafted n) (bnat (shs.length > 1))).wr (shRating n) r).setReg ((shBlk n).base + 4) (jCookie d)) s
      let s := noteSum (onRun lead (fun q => { q with job := some j }) s)
      if jobStale s j then
        let (c, s) := openCycles j s
        endRunning j { noEnd 6 with elements := j.next, cycles := c } j.flags false s
      else s

/-- Take a job out of the pool. -/
def unpool (id : Nat) (s : State) : State := onVec (fun v => { v with pool := v.pool.filter (fun j => j.id ≠ id) }) s

/-- Replace a job in the pool. -/
def repool (j : Job) (s : State) : State :=
  onVec (fun v => { v with pool := v.pool.map (fun k => if k.id = j.id then { j with shells := k.shells } else k) }) s

/-- The jobs on shells and on suspension stacks. -/
def heldJobs (s : State) : List Job := (List.range 4).flatMap (fun n => (run s n).job.toList ++ (run s n).stack)

/-- FENCE: every job admitted before it from the same source has ended (R26). -/
def fenceOpen (s : State) (j : Job) : Bool :=
  !jFence (leadOf j.descs) || !(s.vec.pool ++ heldJobs s).any (fun k => k.origin = j.origin && k.id < j.id)

/-- A job of the pool that may start now: not armed, or its catch has come (R26, R68). -/
def jobReady (s : State) (j : Job) : Bool := (j.slot.isNone || j.past) && fenceOpen s j

/-- A shell that is free for a job: IDLE or OFF, or RESERVED for the job's own window (R67). -/
def shellFree (s : State) (j : Job) (n : Nat) : Bool :=
  !s.flt.underTest.contains (shBlk n) && !s.flt.resets.contains (shBlk n)
  && (s.rd (shState n) ≤ stIdle || (s.rd (shState n) = stReserved && j.slot.any (fun k => (run s n).reserved.contains k)))

/-- The highest PRIO on a shell's suspension stack. -/
def stackTop (s : State) (n : Nat) : Option Nat :=
  ((run s n).stack.map (fun j => jPrio (leadOf j.descs))).foldl (fun a p => some (max p (a.getD p))) none

/-- The shells that a job could take, in order of preference. -/
def jobChoices (s : State) (j : Job) : List (List Nat) :=
  if j.shells ≠ [] then [j.shells]
  else
    let d := leadOf j.descs
    choicesIn (classMask (entryOf s (jClass d))) (jRaft d) (jSel d)

/-- The highest PRIO among the suspended jobs that ran on a shell, those of rafts included (R57). -/
def suspTop (s : State) (n : Nat) : Option Nat :=
  (((List.range 4).flatMap (fun k => (run s k).stack)).filter (fun j => j.shells.contains n)).foldl
    (fun a j => some (max (jPrio (leadOf j.descs)) (a.getD 0))) none

/-- The free shells on which a ready job can start now: a suspended job of equal or higher PRIO goes first, on every shell that a
suspended raft needs (R57). -/
def placeFor (s : State) (j : Job) : Option (List Nat) :=
  (jobChoices s j).find? (fun c => c.all (fun n => shellFree s j n
    && (j.past || match suspTop s n with | some p => decide (p < jPrio (leadOf j.descs)) | none => true)))

/-- The pool in the order in which the scheduler starts it: late window-bound jobs, then PRIO, then admission (R26, R70). -/
def schedOrder (l : List Job) : List Job :=
  let key (j : Job) : Nat := (if j.past then 8 else 0) + jPrio (leadOf j.descs)
  ((List.range 16).reverse).flatMap (fun p => l.filter (fun j => key j = p))

/-- The next start (R26); none while the device enters Boathouse (R409). -/
def jobStart (s : State) : State :=
  match (schedOrder (s.vec.pool.filter (jobReady s))).findSome? (fun j => (placeFor s j).map (fun c => (j, c))) with
  | none => s
  | some (j, c) => if entering s then s else startOn j c (unpool j.id) repool s

/-- The oldest armed job of a slot that no catch handed over holds (R66). -/
def oldestArmed (s : State) (k : Nat) : Option Job := s.vec.pool.find? (fun j => j.slot = some k && !j.past
  && !s.vec.due.any (fun e => e.job = some j.id))

/-- The job that a catch handed over starts: the oldest of those armed by then that the pool still holds (R66). -/
def dueJob (s : State) (e : Due) : Option Job :=
  e.job.bind (fun id => (s.vec.pool.find? (fun j => j.id = id)).or ((oldestArmed s e.slot).filter (fun j => j.id < e.upto)))

/-- A catch has come (R66, R68 to R70): the job handed over starts on its reserved, powered, idle shells, unless another job due
at the same instant on one of them goes first; otherwise it is late. One that only the governor holds is not late (R436), and one
whose domain has failed ends. -/
def startAtCatch (slot : Nat) (s : State) : State :=
  match s.vec.due.find? (fun e => e.slot = slot) with
  | none => s
  | some e =>
    let drop (s : State) : State := onVec (fun v => { v with due := v.due.erase e }) s
    if !catchNow s e.instant ∨ entering s then s
    else match dueJob s e with
    | none => drop s
    | some j =>
      let rival := s.vec.due.any (fun f => f.slot ≠ slot && f.instant = e.instant
        && match dueJob s f with
          | some k => k.shells.any (fun n => j.shells.contains n)
            && (jPrio (leadOf k.descs) > jPrio (leadOf j.descs)
              || (jPrio (leadOf k.descs) = jPrio (leadOf j.descs) && k.id < j.id))
          | none => false)
      let ready := !rival && fenceOpen s j && j.shells.all (fun n =>
        s.rd (shState n) = stReserved && (run s n).reserved.contains slot)
        && (shellDomains j.descs j.shells).all (fun d => domState s d = 0)
      let s := drop s
      if ready || (jobNeeds s j).any (domFails s) then
        startOn j j.shells (unpool j.id) (fun k s => repool { k with caught := true } s) s
      else repool { j with late := true } s

/-- A free unreserved shell resumes its suspended job of highest PRIO, last pushed first, unless a late window-bound job or a ready job
of higher PRIO can take the shell, or a suspended raft of higher PRIO waits for it (R57, R68). -/
def resumeSuspended (n : Nat) (s : State) : State :=
  match stackTop s n with
  | none => s
  | some p =>
    match (run s n).stack.find? (fun j => jPrio (leadOf j.descs) = p) with
    | none => s
    | some j =>
      let free := j.shells.all (fun k => shellFree s j k && s.rd (shState k) ≠ stReserved)
      let above := s.vec.pool.any (fun k => jobReady s k && (k.past || jPrio (leadOf k.descs) > p)
          && (placeFor s k).any (fun c => c.any (fun m => j.shells.contains m)))
        || j.shells.any (fun m => (suspTop s m).any (fun q => decide (p < q)))
      if !free || above || entering s then s
      else
        let drop (s : State) : State :=
          let s := onRun n (fun r => { r with stack := r.stack.erase j }) s
          s.wr (shDepth n) (run s n).stack.length
        let keep (k : Job) (s : State) : State :=
          onRun n (fun r => { r with stack := r.stack.map (fun x => if x.id = k.id then k else x) }) s
        startOn j j.shells drop keep s

/-! ### Strokes (R50 to R56) -/

/-- Whether a job can be preempted (R41, R45). -/
def preemptible (j : Job) : Bool :=
  let d := leadOf j.descs
  jSave d ≠ 0 && !jDet d && !isRegForm j.descs

/-- Whether a ready job of higher PRIO needs a shell of a running job (R56): it has no free place, and its first possible
place is made of free shells and preemptible jobs of lower PRIO with room on their stacks. That it is the lowest-numbered such place,
and that a raft preempts nothing until it can have all its shells, is a DESIGN CHOICE (notes/assumptions/66.md). -/
def wantsShell (s : State) (n : Nat) (k : Job) : Bool :=
  let p := jPrio (leadOf k.descs)
  let may (m : Nat) : Bool :=
    shellFree s k m
    || match (run s m).lead with
      | some l => (match (run s l).job with
          | some j => preemptible j && jPrio (leadOf j.descs) < p && (run s l).stack.length < 7
          | none => false)
      | none => false
  jobReady s k && (placeFor s k).isNone
  && match (jobChoices s k).find? (fun c => c.all may) with
    | some c => c.any (fun m => (run s m).lead = some n)
    | none => false

/-- The stop that is due at a commit (R56, R58, R67). -/
def stopDue (s : State) (n : Nat) (j : Job) : Option StopWhy :=
  let more := j.next < jLen (leadOf j.descs)
  if (run s n).cancel then some .cancel
  else if more && preemptible j && (run s n).stack.length < 7 then
    if j.shells.any (fun m => !(run s m).reserved.isEmpty) then some .yield
    else if s.vec.pool.any (fun k => jPrio (leadOf k.descs) > jPrio (leadOf j.descs) && wantsShell s n k) then some .preempt
    else none
  else none

/-- The inputs of a stroke and the first failing read; of those at one element that of the lowest shell position, there A, B, C and then
their tag planes (DESIGN CHOICE, notes/assumptions/66.md). -/
def strokeInputs (j : Job) (first n : Nat) (s : State) : State × List Inputs × Option ReadFail :=
  let reg := isRegForm j.descs
  let (s, ins, fs) := (List.range j.descs.length).foldl (fun (acc : State × List Inputs × List ReadFail) p =>
    let (s, x, f) := [0, 1, 2].foldl (fun (b : State × Inputs × List ReadFail) k =>
      let (s, a, f) := readInput j reg (j.shells.getD p 0) p k first n b.1
      (s, b.2.1 ++ [a], b.2.2 ++ f)) (acc.1, [], [])
    (s, acc.2.1 ++ [x], acc.2.2 ++ f)) (s, [], [])
  let best := fs.foldl (fun (m : Option ReadFail) f =>
    match m with
    | none => some f
    | some g => if f.elem < g.elem ∨ (f.elem = g.elem ∧ f.order < g.order) then some f else m) none
  (s, ins, best)

/-- A stroke of n elements: its results, or why it halts (R53, R99). -/
def runStroke (j : Job) (first n : Nat) (s : State) : State × Except Halt StrokeOut :=
  let (s, ins, f) := strokeInputs j first n s
  let upto := match f with | some x => x.elem | none => n
  let out := runElements j.descs ins first upto j.ord
  match out.trap, f with
  | some (i, k, fl), _ => (s, .error ⟨vsTrap, first + i, k, fl⟩)
  | none, some x => (s, .error ⟨x.status, first + x.elem, x.info, 0⟩)
  | none, none => (s, .ok { out with ys := out.ys.reverse })

/-- Cycles in which a shell at a rating of k/8 issues what takes c cycles at full rate (R73). -/
def issueCycles (k c : Nat) : Nat := (8 * c + k - 1) / k

/-- The request-cycles that a job's accesses waited at memory banks (R75, R128, R142); a DET read of Course memory that missed its
slack ends the duration rule for its job (R132). -/
def strokeWaits (n : Nat) (j : Job) (ws : List BankWait) (s : State) : State :=
  let det (w : BankWait) : Bool := w.read && jDet (leadOf j.descs)
  let s := forAll ws (fun w s => countWaits (mShell w.shell.val) w.addr.toNat w.cycles (det w) s) s
  if ws.any (fun w => det w && inCourse w.addr.toNat && 3 < w.cycles) then
    onRun n (fun r => { r with job := r.job.map (fun j => { j with exact := false }) }) s
  else s

/-- A stroke reaches its commit, or halts; then the handles are checked again (R50, R51, R53, R54). cycles are those beyond the
duration rule: none while it holds of the job (R72). Strokes end at the multiples of 512 elements, so the first stroke after a resume
at another element is short (DESIGN CHOICE, notes/assumptions/59.md). A stale handle has no seat and no stream: FAULT_INFO is 0
(DESIGN CHOICE, notes/assumptions/59.md). -/
def strokeCommit (n cycles : Nat) (s : State) : State :=
  let q := run s n
  match q.job with
  | none => s
  | some j =>
    let len := jLen (leadOf j.descs)
    if s.rd (shState n) ≠ stRunning ∨ s.rd (shRating n) = 0 ∨ isRegForm j.descs ∨ j.next ≥ len ∨ q.drain.isSome ∨ q.halt.isSome ∨ q.stop.isSome then s
    else
      let m := min (512 - j.next % 512) (len - j.next)
      match runStroke j j.next m s with
      | (s, .error h) => onRun n (fun r => { r with halt := some h }) s
      | (s, .ok o) =>
        let ys := permute (jPerm (lastOf j.descs)) o.ys
        let e := perCycle j.descs
        let writes := drainOf j false j.next ys
        let yTags := if jType (lastOf j.descs) 3 = 0 then 0 else (ys.map El.tag).foldl (· ||| ·) 0
        let j := { j with next := j.next + m, prev := j.next, strokes := j.strokes + 1, cycles := j.cycles + issueCycles (s.rd (shRating n)) ((m + e - 1) / e) + 8 + (if j.exact then 0 else cycles),
                          acc0 := mergeAccum j.acc0 o.acc0, acc1 := mergeAccum j.acc1 o.acc1, flags := j.flags ||| o.flags,
                          ord := o.ord, tags := j.tags ||| yTags }
        let s := onRun n (fun r => { r with job := some j, drain := if writes.isEmpty then none else some writes }) s
        let s := s.count (F64 (shBlk (recordShell j)) 0x010) 1
        let s := onRun n (fun r => { r with stop := stopDue s n j }) s
        if jobStale s j then
          onRun n (fun r => { r with halt := some ⟨vsRegion, j.next, 0, 0⟩, stop := none }) s
        else s

/-- The held or committed write-out is written (R52, R55). -/
def drainNow (n : Nat) (s : State) : State :=
  let q := run s n
  match q.job, q.drain with
  | some j, some ws =>
    match writeOut (mShell (recordShell j)) (jDet (leadOf j.descs)) ws s with
    | (s, none) => onRun n (fun r => { r with drain := none, drainErr := none }) s
    | (s, some a) => onRun n (fun r => { r with drainErr := some a }) s
  | _, _ => s

/-- STROKE_DRAIN_DONE. -/
def strokeDrainDone (n : Nat) (s : State) : State :=
  if s.rd (shState n) = stRunning ∧ (run s n).drainErr.isNone then drainNow n s else s

/-- The shell of a held job whose block raises DRAIN_HELD: the one that writes the stroke out (R55, R64). -/
def heldShell (s : State) (n : Nat) : Nat := ((run s n).job.map recordShell).getD n

/-- The shell enters DRAIN_HELD and raises the fault source (R55). -/
def drainHeld (n : Nat) (s : State) : State :=
  match (run s n).drainErr with
  | some a =>
    if s.rd (shState n) = stRunning then
      let shs := ((run s n).job.map Job.shells).getD [n]
      conditionFrom (targetBlk s a) (shBlk (heldShell s n)) 0 true (noteSum (forAll shs (fun k s => s.wr (shState k) stHeld) s))
    else s
  | none => s

/-- The lead shell of the job that RETRY or DISCARD at a shell is about: the shells of a raft act as one (R65). -/
def ctrlLead (s : State) (n : Nat) : Nat := if (run s n).job.isSome then n else (run s n).lead.getD n

/-- RETRY in DRAIN_HELD (R55). -/
def retryDrain (n : Nat) (s : State) : State :=
  let n := ctrlLead s n
  if s.rd (shState n) = stHeld ∧ (run s n).job.isSome then
    let shs := ((run s n).job.map Job.shells).getD [n]
    -- it issues on at no more than the limit allows by now, and waits while that is 0 (R73, R436; notes/assumptions/61.md)
    let r := min (s.rd (shRating n)) (allowedRating s shs)
    let s := noteSum (forAll shs (fun k s => (s.wr (shState k) stRunning).wr (shRating k) r) s)
    let s := if r < 8 then onRun n (fun q => { q with job := q.job.map (fun j => { j with rated := true, exact := false }) }) s else s
    drainNow n (condition (shBlk (heldShell s n)) 0 false (onRun n (fun r => { r with drainErr := none }) s))
  else s

/-- Elements of a job whose results are in memory while a stroke is held. -/
def drainedElems (q : ShellRun) (j : Job) : Nat :=
  if q.drain.isSome then (if isRegForm j.descs then 0 else j.prev) else j.next

/-- DISCARD in DRAIN_HELD (R55). The held stroke has committed, so its flags stay in the job's flag set (R95; DESIGN CHOICE,
notes/assumptions/66.md). -/
def discardDrain (n : Nat) (s : State) : State :=
  let n := ctrlLead s n
  match (run s n).job with
  | some j =>
    if s.rd (shState n) = stHeld then
      let (c, s') := openCycles j s
      let e : JobEnd := { noEnd vsWriteError with elements := drainedElems (run s n) j, cycles := c }
      endRunning j e j.flags false (condition (shBlk (heldShell s n)) 0 false s')
    else s
  | none => s

/-- The job halts at a discarded stroke: save area, flags, record (R53, R99). -/
def jobHalt (n : Nat) (s : State) : State :=
  let q := run s n
  match q.job, q.halt with
  | some j, some h =>
    if q.drain.isSome then s
    else
      let reg := isRegForm j.descs
      let (ran, s) := openCycles j s
      let (c, s) := openCycles j s
      let e : JobEnd := { noEnd h.status with elements := if reg then 0 else j.next, faultElem := h.elem, info := h.info, cycles := c }
      let s := if reg then s else writeSave { j with cycles := ran } true false e s
      endRunning j e (j.flags ||| h.flags) true s
  | _, _ => s

/-- A job stops at its commit and is pushed on the suspension stack of its lead shell (R56, R57). -/
def suspend (why : StopWhy) (n : Nat) (s : State) : State :=
  let q := run s n
  match q.job with
  | some j =>
    if q.stop = some why ∧ q.drain.isNone ∧ q.halt.isNone then
      let (c, s) := openCycles j s
      let j := { j with preempted := true, cycles := c }
      let s := writeSave j true true { noEnd 0 with cycles := c } s
      let s := onRun n (fun r => { r with stack := j :: r.stack }) s
      let s := s.wr (shDepth n) (run s n).stack.length
      freeShells j.shells s
    else s
  | none => s

/-- A cancelled job stops at its commit (R58, R78). -/
def cancelStop (n : Nat) (s : State) : State :=
  let q := run s n
  match q.job with
  | some j =>
    if q.stop = some .cancel ∧ q.drain.isNone ∧ q.halt.isNone then
      let (ran, s) := openCycles j s
      let (c, s) := openCycles j s
      let e : JobEnd := { noEnd vsCancelled with elements := j.next, cycles := c }
      endRunning j e j.flags false (writeSave { j with cycles := ran } true false e s)
    else s
  | none => s

/-- Cancel every job that a test selects (02, VEC_SCHED_CANCEL; R416). One that has found another stop at its commit and not yet left
its shells is cancelled there (R58). -/
def cancelJobs (p : Job → Bool) (s : State) : State :=
  let s := forAll (s.vec.pool.filter p) (fun j s => endPooled j vsCancelled (unpool j.id s)) s
  forAll (List.range 4) (fun n s =>
    let out := (run s n).stack.filter p
    let s := onRun n (fun r => { r with stack := r.stack.filter (fun j => !p j), cancel := r.cancel || r.job.any p,
                                        stop := if r.job.any p then r.stop.map (fun _ => .cancel) else r.stop }) s
    let s := s.wr (shDepth n) (run s n).stack.length
    forAll out (fun j s => endPooled j vsCancelled s) s) s

/-! ### Completion (R62, R76, R116, R118) -/

/-- Write the results of a register-form job to its register group (R118, R119). -/
def writeVreg (n : Nat) (d : List Nat) (ys : List El) (s : State) : State :=
  let b := regNo d 3 * 1024
  let put (bs : List Byte) (a : Nat) (m : NMap Byte) : NMap Byte :=
    ((List.range bs.length).zip bs).foldl (fun m (i, v) => if v = 0 then ndel (a + i) m else nput (a + i) v m) m
  onRun n (fun r =>
    { r with vreg := put (yBytes (jType d 3) ys) b r.vreg
             vtag := ((List.range ys.length).zip ys).foldl (fun m (i, e) =>
               if e.tag = 0 then ndel (b + i) m else nput (b + i) e.tag m) r.vtag
             vbad := r.vbad.filter (fun a => !within b (b + (yBytes (jType d 3) ys).length - 1) a)
             tbad := r.tbad.filter (fun a => !within b (b + ys.length - 1) a) }) s

/-- A register-form job computes all its elements, then writes its destination (R41). -/
def runRegJob (n : Nat) (j : Job) (cycles : Nat) (s : State) : State :=
  let d := leadOf j.descs
  let len := jLen d
  match runStroke j 0 len s with
  | (s, .error h) => onRun n (fun r => { r with halt := some h }) s
  | (s, .ok o) =>
    let ys := permute (jPerm d) o.ys
    let e := perCycle j.descs
    let yTags := if jType d 3 = 0 then 0 else (ys.map El.tag).foldl (· ||| ·) 0
    let writes := drainOf j true 0 ys
    let j := { j with next := len, cycles := j.cycles + issueCycles (s.rd (shRating n)) ((len + e - 1) / e)
                        + (if j.exact then 0 else cycles), acc0 := o.acc0, acc1 := o.acc1,
                      flags := o.flags, ord := o.ord, tags := yTags }
    let s := if jType d 3 ≠ 0 ∧ writes.isEmpty then writeVreg n d ys s else s
    let s := onRun n (fun r => { r with job := some j, computed := true, drain := if writes.isEmpty then none else some writes }) s
    drainNow n s

/-- W of R72: the drain of the last stroke. -/
def lastDrain (j : Job) : Nat :=
  let d := lastOf j.descs
  let len := jLen (leadOf j.descs)
  let reg := isRegForm j.descs
  if !inMemory d reg (j.descs.length - 1) j.descs.length 3 then 0
  else
    let n := if reg then len else (len - 1) % 512 + 1
    (n * elSize (jType d 3) + (if jTagEn d 3 then (n + 1) / 2 else 0) + 127) / 128

/-- The end of a job that has drained: KEEP or order state, readout, record (R62, R63, R109, R116). The flag set in entry 63 of its
order-stage block is that before the readout of the same cycles (R117; DESIGN CHOICE, notes/assumptions/66.md). -/
def finishJob (n : Nat) (j : Job) (cycles : Nat) (s : State) : State :=
  let d := leadOf j.descs
  let last := lastOf j.descs
  let (r0, f0) := if redOp last 0 = 0 then (0, 0) else readout (redType last 0) (jRm d) (!jTrap d) j.acc0
  let (r1, f1) := if redOp last 1 = 0 then (0, 0) else readout (redType last 1) (jRm d) (!jTrap d) j.acc1
  let flags := j.flags ||| f0 ||| f1
  let total := j.cycles + 8 + jobLat j.descs + lastDrain j + (if jKeep d then 22 else 0)
    + (if j.exact then 0 else cycles)
  let e : JobEnd := { noEnd 0 with elements := jLen d, cycles := total, read0 := r0, read1 := r1 }
  let s := if jKeep d then writeSave { j with cycles := total } false false { noEnd 0 with cycles := total } s else s
  let s := if usesOrder last then
      saveWrite j 0 (leBytes 4 (saveWord0 false)) (saveWrite j 0x6C0 (ordBytes j.ord true j.flags) s)
    else if (j.resumed || j.preempted) && !jKeep d then saveWrite j 0 (leBytes 4 (saveWord0 false)) s else s
  endRunning j e flags false (onRun n (fun r => { r with job := some j }) s)

/-- JOB_COMPLETE: a register-form job is computed first; a stop due at the last commit goes first (R58, R76). -/
def jobComplete (n cycles : Nat) (s : State) : State :=
  match (run s n).job with
  | none => s
  | some j =>
    if s.rd (shState n) ≠ stRunning ∨ (run s n).halt.isSome then s
    else if isRegForm j.descs ∧ !(run s n).computed then
      let s := runRegJob n j cycles s
      match (run s n).job with
      | some j' => if (run s n).computed ∧ (run s n).drain.isNone then finishJob n j' 0 s else s
      | none => s
    else if j.next ≥ jLen (leadOf j.descs) ∧ (run s n).drain.isNone ∧ (run s n).stop.isNone then finishJob n j cycles s
    else s

/-! ### Meanings -/

/-- SCHED_CANCEL (R78). -/
def execSchedCancel (m : Master) (cls : W32) (s : State) : Answer :=
  .next (reaches m .vecSched 0x080 (write32 cls.toNat) (cancelJobs (fun j => jClass (leadOf j.descs) == cls.toNat)) s)
/-- JOB_START (R26). -/
def execJobStart (s : State) : Answer := .next (jobStart s)
/-- JOB_START_AT_CATCH (R68). -/
def execJobStartAtCatch (slot : BitVec 14) (s : State) : Answer := .next (startAtCatch slot.toNat s)
/-- RESUME_SUSPENDED (R57). -/
def execResumeSuspended (sh : ShellId) (s : State) : Answer := .next (resumeSuspended sh.val s)
/-- STROKE_COMMIT (R51). -/
def execStrokeCommit (sh : ShellId) (time : StrokeTime) (s : State) : Answer :=
  .next (strokeCommit sh.val time.cycles (match (run s sh.val).job with | some j => strokeWaits sh.val j time.waits s | none => s))
/-- STROKE_DRAIN_DONE (R52). -/
def execStrokeDrainDone (sh : ShellId) (s : State) : Answer := .next (strokeDrainDone sh.val s)
/-- DRAIN_HELD (R55). -/
def execDrainHeld (sh : ShellId) (s : State) : Answer := .next (drainHeld sh.val s)
/-- RETRY (R55). -/
def execRetry (m : Master) (sh : ShellId) (s : State) : Answer :=
  .next (reaches m (.vecShell sh) 8 (write32 1) (retryDrain sh.val) s)
/-- PREEMPT_STOP (R56). -/
def execPreemptStop (sh : ShellId) (s : State) : Answer := .next (suspend .preempt sh.val s)
/-- WINDOW_YIELD (R67). -/
def execWindowYield (sh : ShellId) (s : State) : Answer := .next (suspend .yield sh.val s)

end Sys2Proof.Machine
end

