-- ==== Sys2Proof/Machine/Memory.lean ====
section
/-!
DEFINITION. The two on-chip memories at work (04, R129, R138 to R159): write queues, scrubbers, row remap, test
commands, ownership, march test and retention.
-/
namespace Sys2Proof.Machine

/-! ### DET write queues (R129) -/

/-- The oldest queued DET write of a bank retires. -/
def detRetire (bank : Nat) (s : State) : State :=
  match ngetD s.memx.detQ bank [] with
  | (wa, v) :: q => retireWord wa v (setDetQ bank q s)
  | [] => s

/-! ### Scrubbers (R148 to R151) -/

def mScrub : Nat := 12

/-- First address and bytes of a memory. -/
def memBase (crew : Bool) : Nat := if crew then crewBase else courseBase
def memSize (crew : Bool) : Nat := if crew then crewSize else courseSize

/-- Whether the scrubber skips a word: its group is not powered or is in retention, or its bank has QUIET set (R137, R148). -/
def scrubSkips (s : State) (a : Nat) : Bool :=
  let d := memDom a
  let st := if domState s d = 4 then ngetD s.dom.from_ d 3 else domState s d
  !(st == 0 || st == 1) || (inCrew a && s.rd (ownFld (crewBank a).1 4 4) == 1)

/-- First address after the stretch that a skip covers. -/
def skipTo (a : Nat) : Nat := if inCrew a then (a / 2 ^ 16 + 1) * 2 ^ 16 else (a / 2 ^ 20 + 1) * 2 ^ 20

/-- The next word of the regular pass from an address: the word, and whether the pass wrapped before it. -/
def nextScrub (s : State) (crew : Bool) : Nat → Nat → Bool → Option (Nat × Bool)
  | 0, _, _ => none
  | fuel + 1, a, wrapped =>
    if a ≥ memBase crew + memSize crew then (if wrapped then none else nextScrub s crew fuel (memBase crew) true)
    else if scrubSkips s a then nextScrub s crew fuel (skipTo a) wrapped
    else some (a, wrapped)

/-- Give a word new data and valid check bits: the write half of a scrub write-back (R148, R152). -/
def writeBack (wa v : Nat) (s : State) : State := sealWord wa (putBytes wa (leBytes 8 v) s)

/-- The data bits as stored. -/
def rawData (s : State) (wa : Nat) : Nat := memWord s wa ^^^ ((patternOf s wa).toNat % 2 ^ 64)
/-- The check bits as stored. -/
def rawCheck (s : State) (wa : Nat) : Nat := (checkBits (memWord s wa)).toNat ^^^ ((patternOf s wa).toNat / 2 ^ 64)

/-- Whether the corrections in a row at a word's index have reached THRESH (R150 items 1 and 2). -/
def suspect (s : State) (wa : Nat) : Bool :=
  let (bank, idx) := bankOf s wa
  let (b, j) := arrOf (inCrew wa) bank
  let o := 0x100 + 8 * j
  s.rd (F b o 12 0) = idx && decide (s.rd (F (scrubOf (inCrew wa)) 0x004 7 0) ≤ s.rd (F b o 23 16))

/-- Whether a word's bank has a spare row left (R151). -/
def spareLeft (s : State) (wa : Nat) : Bool :=
  let (b, j) := arrOf (inCrew wa) (bankOf s wa).1
  decide (s.rd (F b (0x100 + 8 * j) 29 27) < 4)

/-- A stuck word's row waits to be remapped (R150 item 3, R151). -/
def remapLater (wa : Nat) (s : State) : State :=
  { s with memx := { s.memx with remaps := if s.memx.remaps.contains wa then s.memx.remaps else s.memx.remaps ++ [wa] } }

/-- The second write of a suspect word, which nothing conditions, and the read after it (R150 items 2 and 3). A stuck cell
shows the error again; that this read is part of the correction already counted is a DESIGN CHOICE
(notes/assumptions/44.md). -/
def suspectAgain (crew : Bool) (wa v : Nat) (e : BitVec 72) (stuck : Bool) (s : State) : State :=
  let s := writeBack wa v s
  let s := if stuck then setPattern wa e s else s
  if patternOf s wa ≠ 0 ∧ s.rd (F (scrubOf crew) 0x004 8 8) = 1 ∧ spareLeft s wa then remapLater wa s else s

/-- The scrubber reads one word (R148 to R150); stuck: its failing cell keeps the error whatever is written. -/
def scrubWord (crew : Bool) (wa : Nat) (stuck : Bool) (s : State) : State :=
  if (queuedWord s wa).isSome then s
  else match eccOutcome (patternOf s wa) with
    | .clean => s
    | .corrected i =>
      let v := readValue s wa
      let e := patternOf s wa
      let s := writeBack wa v (logCe mScrub accScrub i wa s)
      let s := if stuck then setPattern wa e s else s
      if suspect s wa then suspectAgain crew wa v e stuck s else s
    | .uncorrectable =>
      if poisoned (patternOf s wa) then s.count (F32 (scrubOf crew) 0x018) 1
      else
        let s := logUe mScrub accScrub wa s
        report (scrubOf crew) 0 (flipInto wa (setPattern wa poison (putBytes wa (leBytes 8 (rawData s wa)) s)))

/-- The scrubber's read of a word reaches its bank, wakes a gated group, or receives IN_TEST (R125, R156). -/
def scrubAt (crew : Bool) (wa : Nat) (stuck : Bool) (s : State) : State :=
  if inTest s wa then countTest wa s
  else scrubWord crew wa stuck (wakeFor wa s).1

/-- Offer every unsaved repair entry of a memory again (R150 item 5). -/
def offerAgain (crew : Bool) (s : State) : State :=
  forAll (s.memx.unsaved.filter (fun x => x.1 = crew && !s.cus.sys.contains (.repair (repairWord crew x.2.1 x.2.2.1 x.2.2.2))))
    (fun x s => offerRepair (repairWord crew x.2.1 x.2.2.1 x.2.2.2) s) s

/-- A pass ends: it is counted, and unsaved repair entries are offered again (R150 item 5). -/
def passEnd (crew : Bool) (s : State) : State := offerAgain crew (s.count (F32 (scrubOf crew) 0x00C) 1)

/-- One step of a scrubber, which RATE 0 stops: its demand queue first, then the regular pass (R145, R148). -/
def scrubStep (crew stuck : Bool) (s : State) : State :=
  let b := scrubOf crew
  if s.flt.underTest.contains b ∨ s.flt.resets.contains b ∨ s.rd (F b 0 23 0) = 0 then s
  else match (if crew then s.memx.demand1 else s.memx.demand0) with
    | wa :: q =>
      let s := { s with memx := if crew then { s.memx with demand1 := q } else { s.memx with demand0 := q } }
      let s := s.wr (F b 0x010 3 0) q.length
      if scrubSkips s wa then s else scrubAt crew wa stuck s
    | [] =>
      match nextScrub s crew 200 (memBase crew + 8 * s.reg (b.base + 8)) false with
      | none => s
      | some (wa, wrapped) =>
        let s := if wrapped then passEnd crew s else s
        let s := scrubAt crew wa stuck s
        let n := (wa - memBase crew) / 8 + 1
        if n * 8 ≥ memSize crew then (passEnd crew s).wr (F32 b 0x008) 0 else s.wr (F32 b 0x008) n

/-- The words of the row that holds a word (R122, R134): row is the word index divided by 64. -/
def rowWords (s : State) (wa : Nat) : List Nat :=
  let crew := inCrew wa
  let (bank, idx) := bankOf s wa
  let row := idx / 64
  (List.range 64).map (fun k =>
    let i := row * 64 + k
    if crew then crewBase + bank * 2 ^ 16 + i * 8
    else
      let b := if (s.reg (Blk.base .crsCtl)).testBit (wa / 2 ^ 20) then bank ^^^ (i % 1024) else bank
      (i * 1024 + b) * 8)

/-- Whether a job with DET set runs on a shell (R74, R151). -/
def detRunning (s : State) : Bool :=
  (List.range 4).any (fun n => match (run s n).job with | some j => jDet (leadOf j.descs) | none => false)

/-- SPARES_USED of a bank takes a value; the fourth leaves no spare row: SPARE_OUT (R151). -/
def spareUsed (crew : Bool) (b : Blk) (j n : Nat) (s : State) : State :=
  let s := s.wr (F b (0x100 + 8 * j) 29 27) n
  if 4 ≤ n then condition (scrubOf crew) 1 true (s.wr (F b (0x100 + 8 * j) 30 30) 1) else s

/-- Copy a stuck row to the next spare row, with its corrected words, and offer the repair entry (R150, R151). -/
def rowRemap (crew : Bool) (s : State) : State :=
  match s.memx.remaps.find? (fun wa => inCrew wa = crew) with
  | none => s
  | some wa =>
    let (bank, idx) := bankOf s wa
    let (b, j) := arrOf crew bank
    let marching := s.flt.underTest.contains b || (crew && match s.memx.march with | some t => t.banks.getLsbD bank | none => false)
    if detRunning s || marching then s
    else
      let s := { s with memx := { s.memx with remaps := s.memx.remaps.filter (· ≠ wa) } }
      let o := 0x100 + 8 * j
      let k := s.rd (F b o 29 27)
      if k ≥ 4 then s
      else
        let row := idx / 64
        let s := (wakeFor wa s).1
        let s := forAll (rowWords s wa) (fun x s =>
          match eccOutcome (patternOf s x) with
          | .corrected _ => flipInto x (settleWord x s)
          | _ => flipInto x s) s
        let s := s.wr (F b (0x300 + 4 * j) (8 * k + 7) (8 * k)) (0x80 + row % 128)
        let s := spareUsed crew b j (k + 1) s
        let s := (s.wr (F (scrubOf crew) 0x014 17 8) bank).wr (F (scrubOf crew) 0x014 6 0) row
        offerRepair (repairWord crew bank row k) s

/-! ### Test of the checker (R153) -/

/-- Store raw data and check bits, keeping the code word that the bits are nearest to as far as it is known. -/
def storeRaw (wa d c : Nat) (s : State) : State :=
  let diff := (checkBits d).toNat ^^^ c
  if popCount diff ≤ 2 ∨ diff = 0xFF then setPattern wa (BitVec.ofNat 72 (diff * 2 ^ 64)) (putBytes wa (leBytes 8 d) s)
  else
    let base := memWord s wa
    setPattern wa (BitVec.ofNat 72 ((d ^^^ base) + ((checkBits base).toNat ^^^ c) * 2 ^ 64)) s

/-- TEST_CMD (R153): cmd 1 WRITE_DATA, 2 WRITE_CHECK, 3 READ_RAW. -/
def testCmd (crew : Bool) (cmd : Nat) (s : State) : State :=
  let c := ctlOf crew
  let a := s.reg (c.base + 0x240) / 8 * 8
  if s.rd (F c 0x254 31 31) = 0 ∨ !rangeIn (memBase crew) (memSize crew) a 8 ∨ !powered s (memDom a) then configErr c 0x254 s
  else
    let s := retireFor a (wakeFor a s).1
    if cmd = 1 then storeRaw a (s.reg (c.base + 0x248)) (rawCheck s a) s
    else if cmd = 2 then storeRaw a (rawData s a) (s.rd (F c 0x250 7 0)) s
    else (s.wr (F64 c 0x248) (rawData s a)).wr (F c 0x250 7 0) (rawCheck s a)

/-! ### Ownership (R138, R140) -/

/-- A write of CRW_CTL_OWNn. -/
def ownerWrite (bank v : Nat) (s : State) : State :=
  let new := bits v 3 0
  let off := 4 * bank
  let s := s.wr (ownFld bank 4 4) (bits v 4 4)
  if s.rd (ownFld bank 5 5) = 1 then configErr .crwCtl off s
  else if new > 8 then configErr .crwCtl off s
  else if new = s.rd (ownFld bank 3 0) then s
  else (s.wr (ownFld bank 5 5) 1) |> fun s => { s with memx := { s.memx with ownNext := nput bank new s.memx.ownNext } }

/-! ### March test (R155, R156) -/

/-- A write of CRW_MARCH_CTL. -/
def marchCtl (v : Nat) (s : State) : State :=
  let b : Blk := .crwMarch
  let s := if bit v 30 then s.wr (F b 8 30 30) 0 else s
  let s := s.wr (F b 8 1 1) (bits v 1 1)
  if !bit v 0 then s
  else if s.rd (F b 8 31 31) = 1 then configErr b 8 s
  else
    let s := ((s.wr (F b 8 31 31) 1).wr (F b 8 29 29) 0).wr (F64 b 0x010) 0
    -- the march writes raw words: an armed mask meets the first of them, which later passes overwrite (R152)
    let s := if s.reg b.base = 0 then s else s.wr (F .crwArr 0x008 31 31) 0
    { s.wr (F32 b 0x018) 0 with
      memx := { s.memx with march := some ⟨BitVec.ofNat 64 (s.reg b.base), bit v 1⟩ } }

/-- The failing banks and the first failure in ascending order (R156). -/
def marchResult (l : List MarchFail) (s : State) : State :=
  match l with
  | [] => s
  | f :: _ =>
    let b : Blk := .crwMarch
    let mask := l.foldl (fun m x => m ||| 2 ^ x.bank.toNat) 0
    let key (x : MarchFail) : Nat := ((x.bank.toNat * 2048 + x.line.toNat) * 4 + x.word.toNat) * 128 + x.bit % 72
    let m := l.foldl (fun m x => if key x < key m then x else m) f
    let s := (s.wr (F64 b 0x010) mask).wr (F b 8 29 29) 1
    let s := (((s.wr (F b 0x018 25 20) m.bank.toNat).wr (F b 0x018 19 9) m.line.toNat).wr (F b 0x018 8 7) m.word.toNat)
    report b 0 (s.wr (F b 0x018 6 0) (m.bit % 72))

/-- The march test ends: destructive banks hold zeros, preserved words are corrected (R155, R156). -/
def marchEnd (fails : List MarchFail) (s : State) : State :=
  match s.memx.march with
  | none => s
  | some t =>
    let banks := bitsOf t.banks.toNat 64
    let s := if t.preserving then
        forAll ((s.ecc.map Prod.fst).filter (fun a => inCrew a && banks.contains (crewBank a).1)) (fun a s =>
          match eccOutcome (patternOf s a) with
          | .corrected _ => flipInto a (settleWord a s)
          | _ => s) s
      else forAll banks (fun b s => fillWrite (crewBase + b * 65536) 65536 s) s
    let s := { s with memx := { s.memx with march := none } }
    let s := (s.wr (F .crwMarch 8 31 31) 0).wr (F .crwMarch 8 30 30) 1
    marchResult (fails.filter (fun f => banks.contains f.bank.toNat)) s

/-! ### Retention (R158) -/

/-- The Crew banks that RETAIN names. -/
def retainedBanks (s : State) : List Nat :=
  (bitsOf (s.rd (F .crwCtl 0x100 15 0)) 16).flatMap (fun g => [4 * g, 4 * g + 1, 4 * g + 2, 4 * g + 3])

/-- Whether Boathouse keeps a Crew group: RETAIN names it, and it has not lost its supply before. -/
def groupKept (s : State) (g : Nat) : Bool := bit (s.rd (F .crwCtl 0x100 15 0)) g && powered s (84 + g)

/-- CRC-32C over a bank's bytes as MAINT reads them, ECC events logged as those of the retention check. -/
def bankCrc (bank : Nat) (s : State) : State × Nat :=
  let r := readOnChip 13 accRetention (crewBase + bank * 65536) 65536 s
  (r.1, crc32c 0 r.2.1)

/-- On entry to Boathouse, the CRC of each retained bank is stored. -/
def retainCrc (s : State) : State :=
  let r := ((retainedBanks s).filter (fun b => groupKept s (b / 4))).foldl (fun (acc : State × List (Nat × Nat)) b =>
    let (s, c) := bankCrc b acc.1
    (s, acc.2 ++ [(b, c)])) (s, [])
  { r.1 with memx := { r.1.memx with retCrc := r.2 } }

/-- On wake, each retained bank's CRC is compared; a bank that differs is filled and its RETFAIL bit set. -/
def retainCheck (s : State) : State :=
  let s := forAll s.memx.retCrc (fun (b, c) s =>
    let (s, now) := bankCrc b s
    if now = c then s
    else
      let s := (fillWrite (crewBase + b * 65536) 65536 s).orBit (F64 .crwCtl 0x110) b
      report .crwCtl 2 s) s
  { s with memx := { s.memx with retCrc := [] } }

/-! ### Meanings -/

/-- QOS_AGING: up to 14 (R392). -/
def execQosAging (i : Nat) (s : State) : Answer :=
  .next { s with held := s.held.modify i (fun h => { h with qos := if h.qos < 14 then h.qos + 1 else h.qos }) }
/-- DET_WRITE_RETIRE (R129). -/
def execDetWriteRetire (bank : BitVec 10) (s : State) : Answer := .next (detRetire bank.toNat s)
/-- SCRUB_STEP (R148). -/
def execScrubStep (read : ScrubRead) (s : State) : Answer := .next (scrubStep read.crew read.stuck s)
/-- ROW_REMAP (R150). -/
def execRowRemap (crew : Bool) (s : State) : Answer := .next (rowRemap crew s)
/-- WRITE_DATA (R153). -/
def execWriteData (crew : Bool) (m : Master) (s : State) : Answer :=
  .next (reaches m (ctlOf crew) 0x254 (write32 1) (testCmd crew 1) s)
/-- WRITE_CHECK (R153). -/
def execWriteCheck (crew : Bool) (m : Master) (s : State) : Answer :=
  .next (reaches m (ctlOf crew) 0x254 (write32 2) (testCmd crew 2) s)
/-- READ_RAW (R153). -/
def execReadRaw (crew : Bool) (m : Master) (s : State) : Answer :=
  .next (reaches m (ctlOf crew) 0x254 (write32 3) (testCmd crew 3) s)
/-- OWNER_WRITE (R138). -/
def execOwnerWrite (m : Master) (bank : BitVec 6) (v : W32) (s : State) : Answer :=
  .next (reaches m .crwCtl (4 * bank.toNat) (write32 v.toNat) (ownerWrite bank.toNat v.toNat) s)
/-- MARCH_START (R155). -/
def execMarchStart (m : Master) (v : W32) (s : State) : Answer :=
  .next (reaches m .crwMarch 8 (write32 v.toNat) (marchCtl v.toNat) s)

end Sys2Proof.Machine
end

