-- ==== Sys2Proof/Machine/Regatta.lean ====
section
/-!
DEFINITION. Trip outputs (11, R349 to R352) and the regatta table (11, R353 to R363). Instants are in units of
2^-16 ns; a time-unit cycle is 2/3 ns.
-/
namespace Sys2Proof.Machine

/-! ### Instants -/

/-- Whether an instant lies at least k time-unit cycles after the timebase (R350, R359). -/
def cyclesAhead (s : State) (t k : Nat) : Bool := 3 * s.tb + k * 2 ^ 49 ≤ 3 * (t * 2 ^ 32)

/-- Whether the timebase has reached an instant, and by how many cycles it may still be short of it. -/
def reached (s : State) (t : Nat) : Bool := t * 2 ^ 32 ≤ s.tb
def within_ (s : State) (t k : Nat) : Bool := 3 * (t * 2 ^ 32) ≤ 3 * s.tb + k * 2 ^ 49

/-- Whether the timebase has passed an instant by more than k cycles. -/
def passedBy (s : State) (t k : Nat) : Bool := 3 * (t * 2 ^ 32) + k * 2 ^ 49 < 3 * s.tb

/-- The time unit runs (R343, R420). -/
def timeOn (s : State) : Bool := domState s 114 = 0

/-! ### Trip outputs (R349 to R352) -/

def tripF (n : Fin 16) (off hi lo : Nat) : Fld := F .timTrip (32 * n.val + off) hi lo
def tripOwner (s : State) (n : Fin 16) : Nat := s.rd (tripF n 0 2 0)
def tripLevel (s : State) (n : Fin 16) : Bool := s.rd (tripF n 0 7 7) = 1

/-- Change what an output holds beside its registers. -/
def modTrip (n : Fin 16) (f : Trip → Trip) (s : State) : State :=
  { s with tim := { s.tim with trips := s.tim.trips.set n (f s.tim.trips[n]) } }

/-- Give an output a level; the ball follows unless its pad hold is closed (R426). -/
def setTrip (n : Fin 16) (level : Bool) (s : State) : State :=
  let s := s.wr (tripF n 0 7 7) (bnat level)
  if padHeld s 114 then s else modTrip n (fun x => { x with pin := level }) s

/-- The grid point nearest an instant, the earlier on a tie, as a count of eighths of time-unit cycles since power-on (R349). -/
def gridPoint (s : State) (t : Nat) : Nat :=
  ((8 * s.elapsed : Nat) + -((-(2 * (3 * ((t * 2 ^ 32 : Nat) - (s.tb : Int))) - 2 ^ 46)) / 2 ^ 47)).toNat

/-- Codes of R232. -/
def taArmed : Nat := 0
def taPast : Nat := 1
def taBusy : Nat := 2
def taNotAssigned : Nat := 3
def tcCancelled : Nat := 0
def tcNone : Nat := 1
def tcTooLate : Nat := 2
def tcNotAssigned : Nat := 3

/-- Arm an edge for an owner (R350). -/
def armTrip (n : Fin 16) (owner t : Nat) (level : Bool) (s : State) : State × Nat :=
  if tripOwner s n ≠ owner then (s, taNotAssigned)
  else if (s.tim.trips[n]).armed.isSome then (s, taBusy)
  else if !cyclesAhead s t 48 then (s, taPast)
  else (modTrip n (fun x => { x with armed := some ⟨t, level, 0⟩, committed := false }) s, taArmed)

/-- Cancel the armed edge of an owner's output (R350). -/
def cancelTrip (n : Fin 16) (owner : Nat) (s : State) : State × Nat :=
  if tripOwner s n ≠ owner then (s, tcNotAssigned)
  else match (s.tim.trips[n]).armed with
    | none => (s, tcNone)
    | some e =>
      if (s.tim.trips[n]).committed ∨ !cyclesAhead s e.at_ 32 then (s, tcTooLate)
      else (modTrip n (fun x => { x with armed := none, committed := false }) s, tcCancelled)

/-- 32 cycles before its instant an armed edge is committed (R350). -/
def commitTrip (n : Fin 16) (s : State) : State :=
  match (s.tim.trips[n]).armed with
  | some e => if within_ s e.at_ 32 then modTrip n (fun x => { x with committed := true }) s else s
  | none => s

/-- Drive an edge due at an instant (R351); passed: a jump of the timebase carries it out at once, and what marks it late is not its
place (R341). -/
def driveTrip (n : Fin 16) (passed : Bool) (e : TripAt) (s : State) : State :=
  let g := if passed then max (gridPoint s e.at_) (8 * s.elapsed) else gridPoint s e.at_
  let x := s.tim.trips[n]
  if x.grid = some g then setTrip n e.level (s.countSat (tripF n 4 31 16) 1)
  else
    let least := (x.last.map (· + 8)).getD 0
    let s := if g < least && !passed then s.countSat (tripF n 4 15 0) 1 else s
    setTrip n e.level (modTrip n (fun x => { x with last := some (max g least), grid := some g }) s)

/-- Whether an edge of an output comes before another: by instant, then in the order of R358. -/
def TripAt.before (e f : TripAt) : Bool := e.at_ < f.at_ || (e.at_ == f.at_ && e.rank < f.rank)

/-- The edge that comes first. -/
def firstEdge (l : List TripAt) : Option TripAt :=
  l.foldl (fun b e => match b with
    | some c => if e.before c then some e else some c
    | none => some e) none

/-- The next edge of an output whose instant has come, or that is committed to it (R350, R351). -/
def tripEdge (n : Fin 16) (s : State) : State :=
  let x := s.tim.trips[n]
  let ready (e : TripAt) : Bool := within_ s e.at_ 1
  match x.armed, firstEdge x.due with
  | some a, some d =>
    if d.at_ ≤ a.at_ then (if ready d then driveTrip n false d (modTrip n (fun x => { x with due := x.due.erase d }) s) else s)
    else if ready a then driveTrip n false a (modTrip n (fun x => { x with armed := none, committed := false }) s) else s
  | some a, none =>
    if ready a then driveTrip n false a (modTrip n (fun x => { x with armed := none, committed := false }) s) else s
  | none, some d => if ready d then driveTrip n false d (modTrip n (fun x => { x with due := x.due.erase d }) s) else s
  | none, none => s

/-- AT0 to AT2 of an output (R350). -/
def tripAt (s : State) (n : Fin 16) : Nat :=
  unstamp96 (s.rd (tripF n 8 31 0) + s.rd (tripF n 0xC 31 0) * 2 ^ 32 + s.rd (tripF n 0x10 31 0) * 2 ^ 64)

/-- TIM_TRIPn_CMD ARM and CANCEL (R350). -/
def tripCmdArm (n : Fin 16) (level : Bool) (s : State) : State :=
  let (s, c) := armTrip n 5 (tripAt s n) level s
  s.wr (tripF n 0x14 7 0) c
def tripCmdCancel (n : Fin 16) (s : State) : State :=
  let (s, c) := cancelTrip n 5 s
  s.wr (tripF n 0x14 7 0) c

/-- Entry to Hold-water: outputs with SAFE_EN go to SAFE_LVL and lose their armed edge (R352). -/
def safeTrips (s : State) : State :=
  forAll (List.finRange 16) (fun n s =>
    if s.rd (tripF n 0 5 5) = 1 then
      setTrip n (s.rd (tripF n 0 6 6) = 1) (modTrip n (fun x => { x with armed := none, committed := false, due := [] }) s)
    else s) s

/-! ### Slots (R353 to R356) -/

/-- Fields of a slot's words (R354). -/
def swEn (w : List Nat) : Bool := bit (wordAt w 0) 31
def swPeriodic (w : List Nat) : Bool := bit (wordAt w 0) 30
def swWakeSet (w : List Nat) : Nat := bits (wordAt w 0) 25 20
def swLead (w : List Nat) : Nat := if bits (wordAt w 0) 19 0 = 0 then 2000 else bits (wordAt w 0) 19 0
def swCatch (w : List Nat) : Nat := unstamp96 (wordAt w 3 + wordAt w 4 * 2 ^ 32 + wordAt w 5 * 2 ^ 64)
def swDur (w : List Nat) : Nat := wordAt w 6 + wordAt w 7 * 2 ^ 32
def swPer (w : List Nat) : Nat := wordAt w 8 + wordAt w 9 * 2 ^ 32
def actOf (x : Nat) : Nat := bits x 31 28
def isPre (act : Nat) : Bool := act == 1 || act == 3 || act == 5

/-- Store an instant, an instance number and status bits into a slot's words. -/
def setWords (w : List Nat) (l : List (Nat × Nat)) : List Nat := l.foldl (fun w p => w.set p.1 (p.2 % 2 ^ 32)) w
def withCatch (w : List Nat) (t : Nat) : List Nat :=
  let x := stamp96 t
  setWords w [(3, x), (4, x / 2 ^ 32), (5, x / 2 ^ 64)]
def withInstance (w : List Nat) (n : Nat) : List Nat := setWords w [(10, n), (11, n / 2 ^ 32)]
def withStatus (w : List Nat) (hi lo v : Nat) : List Nat := setWords w [(12, putBits (wordAt w 12) hi lo v)]

/-- Replace a slot's words, and what the engine holds of it. -/
def setSlot (k : Nat) (w : List Nat) (s : State) : State := { s with tim := { s.tim with slots := nput k w s.tim.slots } }
def setRun (k : Nat) (r : SlotRun) (s : State) : State := { s with tim := { s.tim with runs := nput k r s.tim.runs } }

/-- Whether a slot write holds something reserved (R355). -/
def slotReserved (w : List Nat) : Bool :=
  let bad (x : Nat) (fin : Bool) : Bool :=
    let p := bits x 27 0
    match actOf x with
    | 0 => p ≠ 0
    | 1 => fin || p ≠ 0
    | 2 => p ≠ 0
    | 3 => p ≥ 32
    | 4 => p ≥ 8
    | 5 => p ≥ 16
    | 6 => p ≥ 16
    | _ => true
  bad (wordAt w 1) false || bad (wordAt w 2) true || bits (wordAt w 0) 29 26 ≠ 0 || swDur w == 0
  || (if swPeriodic w then decide (swPer w < swDur w) || decide (swPer w < 65536000) else swPer w ≠ 0)

/-! ### Actions (R355, R359, R361) -/

/-- Domains of a wake set (R420). -/
def wakeSet (s : State) (k : Nat) : List Nat :=
  let v := (List.range 4).foldl (fun a i => a + s.rd (F32 .timReg (0x100 + 16 * k + 4 * i)) * 2 ^ (32 * i)) 0
  bitsOf v 120

/-- Announce a TRANSMIT edge to its ports (R390). -/
def announce (k x t : Nat) (s : State) : State :=
  if actOf x = 5 then { s with io := { s.io with announced := s.io.announced ++ [⟨k, bits x 3 0, t⟩] } } else s

/-- An IRQ action pushes the slot into the queue of each Cox named (R361). -/
def irqAction (k mask : Nat) (s : State) : State :=
  forAll (List.finRange 4) (fun c s =>
    if bit mask c.val then
      let s := s.wr (F (.cox c) 0x208 7 7) 1
      let q := s.tim.irqq[c]
      if q.length < 16 then { s with tim := { s.tim with irqq := s.tim.irqq.set c (q ++ [k]) } }
      else s.countSat (F .timReg (0x800 + 4 * c.val) 23 16) 1
    else s) s

/-- Place of a window's edge among those of one instant: every finish before every catch, slots ascending (R358). -/
def edgeRank (catch_ : Bool) (k : Nat) : Nat := bnat catch_ * 16384 + k

/-- Hand a precommitted action over to its agent (R359): a catch with its job, an output, or the ports; rank: the edge's place. -/
def handOver (rank k x t : Nat) (s : State) : State :=
  match actOf x with
  | 1 => onVec (fun v => { v with due := v.due ++ [⟨k, t, (oldestArmed s k).map Job.id, v.nextId⟩] }) s
  | 3 =>
    let n := Fin.ofNat 16 (bits x 3 0)
    if tripOwner s n ≠ 4 then report .timReg 1 s
    else if s.mode = modeHoldWater ∧ s.rd (tripF n 0 5 5) = 1 then s
    else modTrip n (fun y => { y with due := y.due ++ [⟨t, bit x 4, rank⟩] }) s
  | 5 => forAll (List.finRange 4) (fun p s => if bit x p.val then modPort p (fun y => { y with due := y.due ++ [t] }) s else s) s
  | _ => s

/-- An immediate action (R355, R359, R376). -/
def actNow (k x wake t : Nat) (s : State) : State :=
  match actOf x with
  | 2 => forAll (wakeSet s wake) startWake s
  | 4 => gateAction (Fin.ofNat 4 (bits x 1 0)) t (bit x 2) s
  | 6 => irqAction k (bits x 3 0) s
  | _ => s

/-- A late edge sets LATE in its slot; when the engine was the cause it is counted and raised too (R341, R359). -/
def markLate (k : Nat) (engine : Bool) (s : State) : State :=
  let s := setSlot k (withStatus (slotWords s k) 30 30 1) s
  if engine then report .timReg 0 (s.count (F32 .timReg 8) 1) else s

/-- Whether an edge is served late: a precommitted one that has not been handed over at its point, an immediate one
more than 64 cycles after its instant (R359). -/
def isLate (s : State) (x t : Nat) (handed : Bool) : Bool :=
  if isPre (actOf x) then !handed && !cyclesAhead s t 64
  else actOf x ≠ 0 && passedBy s t 64

/-- How an edge comes to be served: in its own time, or passed by a jump of the timebase, behind n cycles of the engine. -/
inductive EdgeBy where
  | time
  | jump (n : Nat)
deriving DecidableEq, Repr

/-- LATE of an edge (R341, R359): of the edges of one jump, those beyond the first 64 wait more than 64 cycles. -/
def lateEdge (k x t : Nat) (handed : Bool) (by_ : EdgeBy) (s : State) : State :=
  match by_ with
  | .time => if isLate s x t handed then markLate k true s else s
  | .jump n => markLate k (decide (64 < n) && actOf x ≠ 0) s

/-! ### Pre-wake (R67, R362, R422) -/

/-- Wake domains and hold them running until the slot's catch action has been carried out (R422). -/
def wakeKept (k : Nat) (ds : List Nat) (s : State) : State :=
  let s := forAll ds startWake s
  { s with dom := { s.dom with kept := s.dom.kept ++ ds.map (fun d => (d, k)) } }

/-- Let go of the domains held for a slot. -/
def unkeep (k : Nat) (s : State) : State := { s with dom := { s.dom with kept := s.dom.kept.filter (fun p => p.2 ≠ k) } }

/-- The catch that a pre-wake was for is not carried out: the shells and domains it took are let go of, unless its job has been
handed over or waits, late (R67, R359, R360, R422; notes/assumptions/41.md). -/
def dropPreWake (p : Nat → Bool) (s : State) : State :=
  let goes (k : Nat) : Bool := p k && !s.vec.due.any (fun e => e.slot = k && e.job.isSome)
    && !s.vec.pool.any (fun j => j.slot = some k && j.past)
  let s := unreserve (fun _ k => goes k) s
  { s with dom := { s.dom with kept := s.dom.kept.filter (fun q => !goes q.2) } }

/-- The job that a slot's next catch starts: the one handed over for it, or the oldest armed (R66). -/
def catchJob (s : State) (k : Nat) : Option Job :=
  match s.vec.due.find? (fun e => e.slot = k && e.job.isSome && decide (e.instant = swCatch (slotWords s k))) with
  | some e => dueJob s e
  | none => oldestArmed s k

/-- The pre-wake of a slot's next catch (R67, R362). -/
def doPreWake (k : Nat) (s : State) : State :=
  let w := slotWords s k
  let r := slotRun s k
  let s := setRun k { r with woke := true } s
  match actOf (wordAt w 1) with
  | 1 =>
    match catchJob s k with
    | none => s
    | some j =>
      let s := wakeKept k (jobDomains s j) s
      forAll j.shells (fun n s =>
        let s := onRun n (fun q => { q with reserved := if q.reserved.contains k then q.reserved else q.reserved ++ [k] }) s
        if s.rd (shState n) ≤ stIdle then s.wr (shState n) stReserved else s) s
  | 2 => wakeKept k (wakeSet s (swWakeSet w)) s
  | _ => s

/-- Instant of the pre-wake of a slot's next catch (R362). -/
def wakeAt (w : List Nat) : Nat := swCatch w - swLead w * 65536
/-- A catch that starts a job or wakes has a pre-wake (R362). -/
def hasWake (w : List Nat) : Bool := actOf (wordAt w 1) == 1 || actOf (wordAt w 1) == 2

/-- The engine serves a pre-wake: late more than 64 cycles after its instant, unless that had passed when the catch was scheduled
(R359, R362). -/
def servePreWake (k : Nat) (s : State) : State :=
  let s := if passedBy s (wakeAt (slotWords s k)) 64 && !(slotRun s k).soon then markLate k true s else s
  doPreWake k s

/-- PRE_WAKE: due at catch less LEAD, for a catch that starts a job or wakes (R362). -/
def preWake (k : Nat) (s : State) : State :=
  let w := slotWords s k
  let r := slotRun s k
  if timeOn s ∧ swEn w ∧ !r.woke ∧ !r.passed ∧ hasWake w ∧ reached s (wakeAt w) then servePreWake k s else s

/-! ### Edges (R356, R358 to R360) -/

/-- The next catch of a slot is handed over (R359). -/
def handCatch (k : Nat) (s : State) : State :=
  let w := slotWords s k
  let r := slotRun s k
  handOver (edgeRank true k) k (wordAt w 1) (swCatch w) (setRun k { r with handed := true } s)

/-- A pending finish is handed over (R359). -/
def handFinish (k : Nat) (o : OpenInst) (s : State) : State :=
  let r := slotRun s k
  handOver (edgeRank false k) k o.act o.finish (setRun k { r with opens := r.opens.map (fun x => if x = o then { o with handed := true } else x) } s)

/-- Whether a slot's next catch is still to be handed over. -/
def catchToHand (s : State) (k : Nat) : Bool :=
  let w := slotWords s k
  let r := slotRun s k
  swEn w && (swPeriodic w || !r.opens.any (·.oneShot)) && isPre (actOf (wordAt w 1)) && !r.handed && !r.passed

/-- PRECOMMIT_HANDOVER: the next catch or a pending finish whose hand-over has come (R359). -/
def precommit (k : Nat) (s : State) : State :=
  let w := slotWords s k
  let r := slotRun s k
  if !timeOn s then s
  else match r.opens.find? (fun o => isPre (actOf o.act) && !o.handed && within_ s o.finish 128) with
    | some o =>
      handFinish k o (lateEdge k o.act o.finish false .time s)
    | none =>
      if catchToHand s k ∧ within_ s (swCatch w) 128 then
        handCatch k (lateEdge k (wordAt w 1) (swCatch w) false .time s)
      else s

/-- Whether a slot's next catch can be carried out: enabled, not yet passed, and after any finish due by then (R358). -/
def catchDue (s : State) (k : Nat) : Bool :=
  let w := slotWords s k
  let r := slotRun s k
  swEn w && (swPeriodic w || !r.opens.any (·.oneShot)) && r.opens.all (fun o => decide (swCatch w < o.finish))

/-- Carry out a slot's next catch: its action, its instance, the next catch (R356). -/
def doCatch (k : Nat) (by_ : EdgeBy) (s : State) : State :=
  let w := slotWords s k
  let r := slotRun s k
  let t := swCatch w
  let x := wordAt w 1
  let s := lateEdge k x t r.handed by_ s
  let s := if hasWake w ∧ !r.woke then (match by_ with
    | .time => servePreWake k s
    | .jump _ => doPreWake k s) else s
  let s := if isPre (actOf x) ∧ !r.handed then handCatch k s else s
  let s := match actOf x with
    | 4 | 6 => actNow k x 0 t s
    | 2 => unkeep k s
    | 1 => if s.vec.due.any (fun e => e.slot = k && e.job.isSome) then s else unkeep k s
    | _ => s
  let o : OpenInst := ⟨t, t + swDur w, wordAt w 2, swWakeSet w, r.next, false, !swPeriodic w⟩
  let w := withStatus (withInstance (slotWords s k) r.next) 31 31 1
  let w := if swPeriodic w then withCatch w (t + swPer w) else w
  let r := slotRun s k
  let s := setRun k { r with opens := r.opens ++ [o], next := (r.next + 1) % 2 ^ 64, handed := false, woke := false,
                             passed := !swPeriodic w, soon := reached s (wakeAt w) } (setSlot k w s)
  announce k o.act o.finish s

/-- Carry out a pending finish of a slot (R356, R360). -/
def doFinish (k : Nat) (o : OpenInst) (by_ : EdgeBy) (s : State) : State :=
  let s := lateEdge k o.act o.finish o.handed by_ s
  let s := if isPre (actOf o.act) then (if o.handed then s else handOver (edgeRank false k) k o.act o.finish s) else actNow k o.act o.wake o.finish s
  let r := slotRun s k
  let rest := r.opens.filter (fun x => x.num ≠ o.num ∨ x.finish ≠ o.finish)
  let w := slotWords s k
  let w := if rest.isEmpty then withStatus w 31 31 0 else w
  let w := if o.oneShot then setWords w [(0, setBit (wordAt w 0) 31 false)] else w
  let s := setRun k { r with opens := rest, closed := some o } (setSlot k w s)
  if swEn w ∧ rest.isEmpty then announce k (wordAt w 1) (swCatch w) s else s

/-! ### The order of edges (R341, R358) -/

/-- An edge of the engine's schedule, or one that a jump may pass. -/
inductive Passed where
  | finish (k : Nat) (o : OpenInst)
  | catch_ (k : Nat)
  | trip (n : Fin 16)
  | timer (i : Nat)
deriving DecidableEq, Repr

/-- Rank of an edge among those of one instant (R358), then its slot. -/
def Passed.rank : Passed → Nat × Nat
  | .finish k _ => (0, k)
  | .catch_ k => (1, k)
  | .trip n => (2, n.val)
  | .timer i => (3, i)

/-- An edge comes before another: by instant, then in the order of R358. -/
def edgeBefore (e f : Nat × Passed) : Bool :=
  e.1 < f.1 || (e.1 == f.1 && (e.2.rank.1 < f.2.rank.1 || (e.2.rank.1 == f.2.rank.1 && e.2.rank.2 < f.2.rank.2)))

/-- Insert an edge in the order of R358. -/
def insertEdge (e : Nat × Passed) : List (Nat × Passed) → List (Nat × Passed)
  | [] => [e]
  | f :: l => if edgeBefore e f then e :: f :: l else f :: insertEdge e l

/-- The window edges whose instants satisfy a condition, each periodic window once. -/
def slotEdges (s : State) (in_ : Nat → Bool) : List (Nat × Passed) :=
  s.tim.slots.flatMap fun (k, w) =>
    let r := slotRun s k
    let fins := (r.opens.filter (fun o => in_ o.finish)).map fun o => (o.finish, Passed.finish k o)
    let busy := !swPeriodic w && r.opens.any (·.oneShot)
    if swEn w ∧ !busy ∧ in_ (swCatch w) then
      let o : OpenInst := ⟨swCatch w, swCatch w + swDur w, wordAt w 2, swWakeSet w, r.next, false, !swPeriodic w⟩
      fins ++ [(swCatch w, Passed.catch_ k)] ++ (if in_ o.finish then [(o.finish, Passed.finish k o)] else [])
    else fins

/-- Carry out a window edge in its own time. -/
def serveEdge (e : Passed) (s : State) : State :=
  match e with
  | .finish k o => doFinish k o .time s
  | .catch_ k => if catchDue s k then doCatch k .time s else s
  | _ => s

/-- The edges that share an instant with an edge and come before it are carried out first (R358). -/
def serveBefore (t : Nat) (e : Passed) (s : State) : State :=
  forAll (((slotEdges s (· == t)).filter (fun f => edgeBefore f (t, e))).foldr insertEdge []) (fun f s => serveEdge f.2 s) s

/-- CATCH_EDGE (R356). -/
def catchEdge (k : Nat) (s : State) : State :=
  let t := swCatch (slotWords s k)
  if timeOn s ∧ catchDue s k ∧ reached s t then doCatch k .time (serveBefore t (.catch_ k) s) else s

/-- FINISH_EDGE: the earliest pending finish that has come (R356). -/
def finishEdge (k : Nat) (s : State) : State :=
  let o := (slotRun s k).opens.foldl (fun (b : Option OpenInst) o => match b with
    | some c => if o.finish < c.finish then some o else some c
    | none => some o) none
  match o with
  | some o => if timeOn s ∧ reached s o.finish then doFinish k o .time (serveBefore o.finish (.finish k o) s) else s
  | none => s

/-- Whether a stamp lies in an instance of a slot's window, and that instance's number (R348, R357). -/
def inWindow (s : State) (k t : Nat) : Option Nat :=
  let w := slotWords s k
  let r := slotRun s k
  match (r.opens ++ r.closed.toList).find? (fun o => o.start ≤ t && t < o.finish) with
  | some o => some o.num
  | none =>
    if !swEn w then none
    else if swPeriodic w then
      let d : Int := (t : Int) - swCatch w
      let q := d / swPer w
      let n := (r.next : Int) + q
      if 0 ≤ n ∧ d - q * swPer w < swDur w then some n.toNat else none
    else if !r.passed && decide (swCatch w ≤ t) && decide (t < swCatch w + swDur w) then some 0 else none

/-! ### Slot commands (R360) and their registers -/

def regSlot (s : State) : Nat := s.rd (F .timReg 0 13 0)

/-- The next catch of a slot, handed over to its agent already, is withdrawn from it (R360). -/
def withdraw (k : Nat) (s : State) : State :=
  let w := slotWords s k
  let t := swCatch w
  let x := wordAt w 1
  if !(slotRun s k).handed then s
  else match actOf x with
    | 1 => onVec (fun v => { v with due := v.due.filter (fun e => !(e.slot == k && e.instant == t)) }) s
    | 3 => modTrip (Fin.ofNat 16 (bits x 3 0)) (fun y => { y with due := y.due.filter (fun e => !(e.rank == edgeRank true k && e.at_ == t)) }) s
    | 5 => forAll (List.finRange 4) (fun p s => if bit x p.val then modPort p (fun y => { y with due := y.due.erase t }) s else s) s
    | _ => s

/-- Make new words take effect in a slot: words 0 to 9; the status is 0 OK, 1 RESERVED, 2 PAST (R355, R360). -/
def writeSlot (k : Nat) (d : List Nat) (s : State) : State × Nat :=
  if slotReserved d then (s, 1)
  else if swEn d ∧ !swPeriodic d ∧ !cyclesAhead s (swCatch d) 64 then (s, 2)
  else
    let old := slotWords s k
    let r := slotRun s k
    let w := d.take 10 ++ (old.drop 10).take 3 ++ [0, 0, 0]
    let c := swCatch d
    -- first catch at least 64 cycles after the write
    let n := if swEn d ∧ swPeriodic d ∧ !cyclesAhead s c 64 then
        ((3 * s.tb + 64 * 2 ^ 49) - 3 * (c * 2 ^ 32) + 3 * swPer d * 2 ^ 32 - 1) / (3 * swPer d * 2 ^ 32)
      else 0
    let w := if swEn d ∧ swPeriodic d then withInstance (withCatch w (c + n * swPer d)) ((n + 2 ^ 64 - 1) % 2 ^ 64) else w
    let s := dropPreWake (fun x => x = k) (setSlot k w (withdraw k s))
    let s := setRun k { r with next := n, handed := false, woke := false, passed := false, soon := reached s (wakeAt w),
                               opens := r.opens.map (fun o => { o with oneShot := false }) } s
    let s := { s with io := { s.io with announced := s.io.announced.filter fun a =>
                 a.slot ≠ k || r.opens.any (fun o => o.finish = a.instant) } }
    (if swEn w ∧ r.opens.isEmpty then announce k (wordAt w 1) (swCatch w) s else s, 0)

/-- SLOT_READ: DATA takes the slot's words. -/
def slotRead (s : State) : State :=
  let w := slotWords s (regSlot s)
  (forAll (List.range 16) (fun i s => s.wr (F32 .timReg (0x40 + 4 * i)) (wordAt w i)) s).wr (F .timReg 4 3 2) 0

/-- SLOT_WRITE: the slot takes DATA after its checks. -/
def slotWrite (s : State) : State :=
  let d := (List.range 16).map (fun i => s.rd (F32 .timReg (0x40 + 4 * i)))
  let (s, c) := writeSlot (regSlot s) d s
  s.wr (F .timReg 4 3 2) c

/-- A window's DESTROY sets EN to 0 under R360 (R353). -/
def closeWindow (k : Nat) (s : State) : State :=
  let w := slotWords s k
  if swEn w then (writeSlot k (setWords w [(0, setBit (wordAt w 0) 31 false)]) s).1 else s

/-- A read of TIM_REG_IRQQc removes the oldest slot (R361): state and the value read. -/
def irqqPop (c : Fin 4) (s : State) : State × Nat :=
  let d := s.rd (F .timReg (0x800 + 4 * c.val) 23 16) * 2 ^ 16
  match s.tim.irqq[c] with
  | [] => (s, d)
  | k :: q => ({ s with tim := { s.tim with irqq := s.tim.irqq.set c q } }, 2 ^ 31 + d + k)

/-! ### Meanings -/

/-- TRIP_CMD_ARM (R350). -/
def execTripCmdArm (_m : Master) (n : Fin 16) (level : Bool) (s : State) : Answer := .next (tripCmdArm n level s)
/-- TRIP_CMD_CANCEL (R350). -/
def execTripCmdCancel (_m : Master) (n : Fin 16) (s : State) : Answer := .next (tripCmdCancel n s)
/-- TRIP_COMMIT (R350). -/
def execTripCommit (n : Fin 16) (s : State) : Answer := .next (commitTrip n s)
/-- TRIP_EDGE (R351). -/
def execTripEdge (n : Fin 16) (s : State) : Answer := .next (tripEdge n s)
/-- SLOT_READ (R360). -/
def execSlotRead (m : Master) (s : State) : Answer := .next (reaches m .timReg 4 (write32 1) slotRead s)
/-- SLOT_WRITE (R360). -/
def execSlotWrite (m : Master) (s : State) : Answer := .next (reaches m .timReg 4 (write32 2) slotWrite s)
/-- PRE_WAKE (R362). -/
def execPreWake (slot : BitVec 14) (s : State) : Answer := .next (preWake slot.toNat s)
/-- PRECOMMIT_HANDOVER (R359). -/
def execPrecommitHandover (slot : BitVec 14) (s : State) : Answer := .next (precommit slot.toNat s)
/-- CATCH_EDGE (R356). -/
def execCatchEdge (slot : BitVec 14) (s : State) : Answer := .next (catchEdge slot.toNat s)
/-- FINISH_EDGE (R356). -/
def execFinishEdge (slot : BitVec 14) (s : State) : Answer := .next (finishEdge slot.toNat s)
/-- IRQQ_POP (R361). -/
def execIrqqPop (m : Master) (c : CoxId) (s : State) : Answer :=
  .next (reaches m .timReg (0x800 + 4 * c.val) (.read 4) (fun s =>
    let (s, v) := irqqPop c s
    { s with replies := s.replies.set m ⟨0, leBytes 4 v⟩ }) s)

end Sys2Proof.Machine
end

