-- ==== Sys2Proof/Machine/Time.lean ====
section
/-!
DEFINITION. The timebase (11, R337 to R343), the Photo-finish (R344 to R348) and the timers (R365, R366).
-/
namespace Sys2Proof.Machine

def tbF (off hi lo : Nat) : Fld := F .timTb off hi lo
def tbMode (s : State) : Nat := s.rd (tbF 0x040 1 0)

/-- The timebase's range in units of 2^-48 ns: seconds wrap modulo 2^48 (R341). -/
def tbTop : Nat := 2 ^ 48 * 1000000000 * 2 ^ 48

/-! ### Running (R337, R340) -/

/-- Nominal units added by the first k cycles of a group of three. -/
def phaseSum (k : Nat) : Nat := if k = 0 then 0 else if k = 1 then 0xAAAAAAAAAAAA else 0xAAAAAAAAAAAA + 0xAAAAAAAAAAAB

/-- Nominal units of n cycles from a phase, and the groups they complete. -/
def nominal (phase n : Nat) : Nat := (phase + n) / 3 * 2 ^ 49 + phaseSum ((phase + n) % 3) - phaseSum phase
def groupsOf (phase n : Nat) : Nat := (phase + n) / 3

/-- n cycles of the time PLL (R337, R340). -/
def tbAdvance (n : Nat) (s : State) : State :=
  let s := { s with elapsed := s.elapsed + n }
  if !timeOn s ∨ s.mode = modeBoathouse then s
  else
    let a := nominal s.tim.phase n
    let rate := sgn 40 (s.rd (tbF 0x028 39 0))
    let sh := s.rd (tbF 0x040 13 9)
    let work := min ((a + s.tim.slewRem) / 2 ^ sh) s.tim.slew.natAbs
    let step : Int := if s.tim.slew < 0 then -(work : Int) else work
    let rem := if step = s.tim.slew then 0 else (a + s.tim.slewRem) % 2 ^ sh
    let tb := ((s.tb : Int) + a + 2 * rate * groupsOf s.tim.phase n + step) % tbTop
    { s with tb := tb.toNat, tim := { s.tim with phase := (s.tim.phase + n) % 3, slew := s.tim.slew - step, slewRem := rem } }

/-! ### Timers (R365, R366) -/

/-- The next expiry and the period of a timer's entry. -/
def timerAt (e : Entry) : Nat := unstamp96 (e.word 1 + e.word 2 * 2 ^ 32 + e.word 3 * 2 ^ 64)
def timerPeriod (e : Entry) : Nat := e.word 4 + e.word 5 * 2 ^ 32

/-- A live enabled timer. -/
def timerOn (e : Entry) : Bool := e.st == 1 && e.kind == kTimer && bit (e.word 7) 0

/-- An expiry writes its record and rearms the timer, or clears EN (R366). -/
def timerExpire (i : Nat) (s : State) : State :=
  let e := entryAt s i
  let t := timerAt e
  if !timeOn s ∨ !timerOn e ∨ !reached s t then s
  else
    let h := handleOf kTimer e.gen i
    let p := timerPeriod e
    let folded := if p = 0 then 0 else (now16 s - t) / p
    let n := ngetD s.tim.expiries h 0
    let x := stamp96 (t + (folded + 1) * p)
    let e' := if p = 0 then e.withWord 7 0
      else ((e.withWord 1 (x % 2 ^ 32)).withWord 2 (x / 2 ^ 32 % 2 ^ 32)).withWord 3 (x / 2 ^ 64)
    let s := setEntry i e' { s with tim := { s.tim with expiries := nput h ((n + folded + 1) % 2 ^ 32) s.tim.expiries } }
    postRecord ⟨.timer, BitVec.ofNat 32 (e.word 6),
      { word0 := BitVec.ofNat 32 h, type := 0x50, partialRec := false, error := false, last := false, summary := 0,
        word6 := BitVec.ofNat 32 n, word7 := BitVec.ofNat 32 (min folded 65535), payload := [] }⟩ (stamp96 t) s

/-! ### SET and STEP (R341) -/

/-- The edges whose instants a jump from one time to another passes, in the order of R358. -/
def passedEdges (s : State) (lo hi : Nat) : List (Nat × Passed) :=
  let in_ (t : Nat) : Bool := lo < t * 2 ^ 32 && t * 2 ^ 32 ≤ hi
  let trips := (List.finRange 16).filterMap fun n =>
    match (s.tim.trips[n]).armed with
    | some e => if in_ e.at_ then some (e.at_, Passed.trip n) else none
    | none => none
  let timers := s.stk.table.filterMap fun (i, e) =>
    if timerOn e ∧ in_ (timerAt e) then some (timerAt e, Passed.timer i) else none
  (slotEdges s in_ ++ trips ++ timers).foldr insertEdge []

/-- Drive every window edge that an output has been given and whose instant has come. -/
def flushTrips (s : State) : State :=
  forAll (List.finRange 16) (fun n s => forAll (s.tim.trips[n]).due (fun _ s =>
    match firstEdge (s.tim.trips[n]).due with
    | some e => if reached s e.at_ then driveTrip n true e (modTrip n (fun x => { x with due := x.due.erase e }) s) else s
    | none => s) s) s

/-- The frames of TRANSMIT edges that a jump has passed start at once (R341, R390). -/
def passSends (s : State) : State :=
  let at_ (t : Nat) : Nat := if reached s t then now16 s else t
  { s with io := { s.io with
      ports := s.io.ports.map (fun p => { p with due := p.due.map at_ }),
      announced := s.io.announced.map (fun a => { a with instant := at_ a.instant }) } }

/-- What is being sent goes on for as long as it would have, while the timebase jumps. -/
def shiftSends (d : Int) (s : State) : State :=
  { s with io := { s.io with ports := s.io.ports.map (fun p => { p with busy := ((p.busy : Int) + d).toNat }) } }

/-- Cycles that the edge engine takes for an edge: none for NONE, one more for a pre-wake still to come, none for what is not a window's
(R359). -/
def Passed.cycles (e : Passed) (s : State) : Nat :=
  match e with
  | .finish _ o => bnat (actOf o.act != 0)
  | .catch_ k =>
    let w := slotWords s k
    bnat (actOf (wordAt w 1) != 0) + bnat (hasWake w && !(slotRun s k).woke)
  | _ => 0

/-- Carry out one passed edge, behind i cycles of the engine (R341). -/
def carry (i : Nat) (e : Passed) (s : State) : State :=
  match e with
  | .finish k o =>
    match (slotRun s k).opens.find? (fun x => x.num = o.num ∧ x.finish = o.finish) with
    | some x => passSends (flushTrips (doFinish k x (.jump i) s))
    | none => s
  | .catch_ k => passSends (flushTrips (doCatch k (.jump i) s))
  | .trip n =>
    match (s.tim.trips[n]).armed with
    | some a => driveTrip n true a ((modTrip n (fun x => { x with armed := none, committed := false }) s).countSat (tripF n 4 15 0) 1)
    | none => s
  | .timer i => timerExpire i s

/-- A periodic window that ran once moves to its first catch after the new time, and counts those it skipped (R341). -/
def skipMissed (k : Nat) (s : State) : State :=
  let w := slotWords s k
  let r := slotRun s k
  if swEn w ∧ swPeriodic w ∧ reached s (swCatch w) then
    let n := (now16 s - swCatch w) / swPer w + 1
    let w := withStatus (withCatch w (swCatch w + n * swPer w)) 15 0 (min (bits (wordAt w 12) 15 0 + n) 65535)
    let s := setRun k { r with next := (r.next + n) % 2 ^ 64, handed := false, woke := false, soon := reached s (wakeAt w) } (setSlot k w s)
    if r.opens.isEmpty then
      announce k (wordAt w 1) (swCatch w) { s with io := { s.io with announced := s.io.announced.filter (fun a => a.slot ≠ k) } }
    else s
  else s

/-- What a jump has carried out takes place at its time, where the timebase has wrapped behind it (R341). -/
def afterWrap (was : Nat) (s : State) : State :=
  if was ≤ now16 s then s
  else
    let at_ (t : Nat) : Nat := if t ≤ was then now16 s else t
    let s := { s with io := { s.io with ports := s.io.ports.map (fun p => { p with due := p.due.map (fun t => if t = was then now16 s else t)
                                                                                   busy := ((p.busy : Int) + now16 s - was).toNat }) } }
    onVec (fun v => { v with due := v.due.map (fun e => if now16 s < e.instant then { e with instant := at_ e.instant } else e) }) s

/-- The edges that a jump has passed are carried out in order, at the time that it reaches before any wrap, and periodic windows catch up;
then, at the new time, what the jump has come too near to for its point is handed over, or is to be woken, without being late (R341, R359,
R362). -/
def carryPassed (new : Nat) (es : List (Nat × Passed)) (s : State) : State :=
  let s := (es.foldl (fun (acc : State × Nat) e => (carry acc.2 e.2 acc.1, acc.2 + e.2.cycles acc.1)) (s, 0)).1
  let s := forAll (es.filterMap (fun e => match e.2 with | .catch_ k => some k | _ => none)) skipMissed s
  let s := afterWrap (now16 s) { s with tb := new }
  forAll (s.tim.slots.map (·.1)) (fun k s =>
    let near (t : Nat) : Bool := within_ s t 64
    let s := forAll ((slotRun s k).opens.filter (fun o => isPre (actOf o.act) && !o.handed && near o.finish)) (fun o s => handFinish k o s) s
    let s := if catchToHand s k && near (swCatch (slotWords s k)) then handCatch k s else s
    let r := slotRun s k
    if !r.soon && !r.woke && reached s (wakeAt (slotWords s k)) then setRun k { r with soon := true } s else s) s

/-- The timebase takes a new value (R341): scheduled work up to the time that a forward jump reaches, before any wrap,
is carried out. -/
def tbJump (new upTo : Nat) (s : State) : State :=
  let es := passedEdges s s.tb upTo
  let was := now16 s
  let s := { s with tb := max new upTo, tim := { s.tim with slew := 0, slewRem := 0 } }
  let s := shiftSends ((now16 s : Int) - was) s
  let s := (s.count (tbF 0x044 31 16) 1).wr (tbF 0x044 0 0) 1
  carryPassed new es (report .timTb 0 s)

/-- SET (R341). -/
def tbSet (s : State) : State :=
  let x := unstamp96 (s.rd (tbF 0x010 31 0) + s.rd (tbF 0x014 31 0) * 2 ^ 32 + s.rd (tbF 0x018 31 0) * 2 ^ 64) * 2 ^ 32 % tbTop
  tbJump x x s

/-- A step by fraction units: the sum modulo 2^48 seconds (R341). -/
def tbStepBy (d : Int) (s : State) : State :=
  let x : Int := (s.tb : Int) + d * 2 ^ 32
  tbJump (x % (tbTop : Int)).toNat x.toNat s

/-- STEP (R341). -/
def tbStep (s : State) : State := tbStepBy (sgn 64 (s.rd (tbF 0x020 63 0))) s

/-- A write of SLEW adds to the pending slew (R340). -/
def slewWrite (v : Nat) (s : State) : State := { s with tim := { s.tim with slew := s.tim.slew + sgn 64 v * 2 ^ 32 } }

/-- A read of NOW0 captures the timebase for its master (R338): state and the low word. -/
def tbCapture (m : Nat) (s : State) : State × Nat :=
  let x := stamp96 (now16 s)
  ({ s with tim := { s.tim with now := s.tim.now.set (Fin.ofNat 16 m) x } }, x % 2 ^ 32)

/-! ### PPS (R342) and FREQ_IN (R339) -/

/-- FREQ_OK: FREQ_IN is present and in use, in PPS mode (R339). -/
def freqOk (s : State) : State := s.wr (tbF 0x044 2 2) (bnat (s.tim.freqIn && tbMode s == 2))

/-- FREQ_IN appears or disappears. -/
def freqChange (on : Bool) (s : State) : State := freqOk { s with tim := { s.tim with freqIn := on } }

/-- Division rounded to nearest, half up. -/
def divNear (a : Int) (b : Nat) : Int := (2 * a + b) / (2 * b)

/-- The table of PPS_IN, for which R345 names no line: 64 equal taps (notes/assumptions/63.md). -/
def ppsTab : List Int := nominalTab

/-- An asserting edge of PPS_IN (R342). -/
def ppsEdge (tap : Nat) (s : State) : State :=
  if tbMode s ≠ 2 ∨ !timeOn s ∨ padHeld s 114 then s
  else
    let sec : Nat := 1000000000 * 65536
    let f := tapStamp s ppsTab tap % sec
    let e : Int := if 2 * f ≤ sec then f else (f : Int) - sec
    let s := s.setReg ((Blk.timTb).base + 0x050) (wrap 64 e)
    let run := if e.natAbs < 100 * 65536 then s.tim.ppsRun + 1 else 0
    let s := { s with tim := { s.tim with ppsRun := run, ppsAt := some s.elapsed } }
    let s := condition .timTb 1 false s
    let s :=
      if e.natAbs ≥ s.rd (tbF 0x048 19 0) * 1000 * 65536 then tbStepBy (-e) s
      else
        let s := { s with tim := { s.tim with slew := s.tim.slew - e * 2 ^ 32 } }
        let r := sgn 40 (s.rd (tbF 0x028 39 0)) - divNear (e * 2 ^ 32) (1000000000 * 2 ^ s.rd (tbF 0x040 17 14))
        -- a sum outside the 40 bits of RATE has no stated value (notes/assumptions/1.md)
        if -(2 ^ 39 : Int) ≤ r ∧ r < 2 ^ 39 then s.wr (tbF 0x028 39 0) (wrap 40 r)
        else
          let (k, s) := s.fresh
          s.wr (tbF 0x028 39 0) (Config.openWord k).toNat
    if run ≥ 4 ∧ s.rd (tbF 0x044 1 1) = 0 then (s.wr (tbF 0x044 1 1) 1).wr (tbF 0x044 0 0) 1 else s

/-- No PPS edge for 1.5 s (R342). -/
def ppsLost (s : State) : State :=
  if tbMode s = 2 ∧ timeOn s ∧ s.elapsed - s.tim.ppsAt.getD 0 ≥ 2250000000 then
    let s := { s with tim := { s.tim with ppsRun := 0 } }
    condition .timTb 1 true (s.wr (tbF 0x044 1 1) 0)
  else s

/-! ### Event inputs (R344 to R348) -/

def pfF (j : Nat) (off hi lo : Nat) : Fld := F .timPf (0x100 + 16 * j + off) hi lo

/-- The input that an event input's number names. -/
def pfIx (j : Fin 32) : Fin 33 := ⟨j.val, by omega⟩

/-- An edge crosses an input's threshold: it is stamped and enters the filter; a return to the accepted level leaves
the filter empty (R344). -/
def eventEdge (j : Fin 32) (level : Bool) (tap : Nat) (s : State) : State :=
  let x := s.tim.pf[pfIx j]
  if padHeld s 114 ∨ !timeOn s ∨ level = x.level then s
  else modPf (pfIx j) (fun x => { x with
    level := level, cand := if level = x.acc then none else some (level, tapStamp s (lineTab s (pfIx j)) tap, s.elapsed) }) s

/-- The live window handle of a slot, or 0. -/
def windowHandle (s : State) (k : Nat) : Nat :=
  match s.stk.table.find? (fun p => p.2.st == 1 && p.2.kind == kWindow && bits (p.2.word 1) 13 0 == k) with
  | some (i, e) => handleOf kWindow e.gen i
  | none => 0

/-- Write an accepted edge's record (R347), and count those its ring lost, or all where no ring is named (R173, R525). -/
def eventRecord (j : Fin 32) (level : Bool) (stamp win inst : Nat) (s : State) : State :=
  let h := s.rd (pfF j.val 4 31 0)
  if h = 0 then modPf (pfIx j) (fun x => { x with lost := x.lost + 1 }) (s.count (pfF j.val 8 31 0) 1)
  else
    let lost := (s.tim.pf[pfIx j]).lost
    let before := s.rd (pfF j.val 8 31 0)
    let s := postRecord ⟨.photo j, BitVec.ofNat 32 h,
      { word0 := BitVec.ofNat 32 win, type := 0x12, partialRec := false, error := false, last := false, summary := 0,
        word6 := BitVec.ofNat 32 (min lost 65535 * 2 ^ 16 + bnat level * 2 ^ 7 + j.val),
        word7 := BitVec.ofNat 32 inst, payload := [] }⟩ (stamp96 stamp) s
    modPf (pfIx j) (fun x => { x with lost := if s.rd (pfF j.val 8 31 0) = before then 0 else lost + 1 }) s

/-- A filtered edge is accepted (R344), gated (R348) and recorded (R347). -/
def eventAccept (j : Fin 32) (s : State) : State :=
  let x := s.tim.pf[pfIx j]
  match x.cand with
  | none => s
  | some (level, stamp, at_) =>
    if s.elapsed < at_ + s.rd (pfF j.val 0 6 2) ∨ !timeOn s then s
    else
      let s := modPf (pfIx j) (fun x => { x with cand := none, acc := level }) s
      let edge := s.rd (pfF j.val 0 1 0)
      let wanted := if level then bit edge 0 else bit edge 1
      if s.rd (pfF j.val 0 31 31) = 0 ∨ !wanted then s
      else if x.lastAt.any (fun t => at_ < t + 16) then
        modPf (pfIx j) (fun x => { x with lost := x.lost + 1 }) (s.count (pfF j.val 8 31 0) 1)
      else
        let s := modPf (pfIx j) (fun x => { x with lastAt := some at_ }) s
        let k := s.rd (pfF j.val 0 29 16)
        if s.rd (pfF j.val 0 30 30) = 0 then eventRecord j level stamp 0 0 s
        else match inWindow s k stamp with
          | some n => eventRecord j level stamp (windowHandle s k) (n % 2 ^ 32) s
          | none => s.count (pfF j.val 0xC 31 0) 1

/-- A calibration ends: the line that passed swaps into service with its table; one that failed stays out (R345). -/
def lineSwap (j : Fin 33) (cal : LineCal) (s : State) : State :=
  let idle := !(s.tim.pf[j]).line
  calShown j (modPf j (fun x => (x.calibrated idle cal).swapped idle (calPasses cal)) s)

/-! ### Meanings -/

/-- TIMEBASE_CAPTURE (R338). -/
def execTimebaseCapture (m : Master) (s : State) : Answer :=
  let (s, v) := tbCapture m.toNat s
  .next { s with replies := s.replies.set m ⟨0, leBytes 4 v⟩ }
/-- TB_SET (R341). -/
def execTbSet (_m : Master) (s : State) : Answer := .next (tbSet s)
/-- TB_STEP (R341). -/
def execTbStep (_m : Master) (s : State) : Answer := .next (tbStep s)
/-- SLEW_WRITE (R340). -/
def execSlewWrite (_m : Master) (v : W64) (s : State) : Answer := .next (slewWrite v.toNat s)
/-- PPS_EDGE (R342). -/
def execPpsEdge (tap : BitVec 6) (s : State) : Answer := .next (ppsEdge tap.toNat s)
/-- PPS_LOST (R342). -/
def execPpsLost (s : State) : Answer := .next (ppsLost s)
/-- EVENT_EDGE (R344). -/
def execEventEdge (j : Fin 32) (level : Bool) (tap : BitVec 6) (s : State) : Answer := .next (eventEdge j level tap.toNat s)
/-- EVENT_EDGE_ACCEPT (R347). -/
def execEventEdgeAccept (j : Fin 32) (s : State) : Answer := .next (eventAccept j s)
/-- DELAY_LINE_SWAP (R345). -/
def execDelayLineSwap (j : Fin 33) (cal : LineCal) (s : State) : Answer := .next (lineSwap j cal s)
/-- TIMER_EXPIRY (R366). -/
def execTimerExpiry (idx : BitVec 15) (s : State) : Answer := .next (timerExpire idx.toNat s)
/-- FREQ_IN_CHANGE (R339). -/
def execFreqInChange (present : Bool) (s : State) : Answer := .next (freqChange present s)

end Sys2Proof.Machine
end

