-- ==== Sys2Proof/Machine/Power.lean ====
section
/-!
DEFINITION. The power manager while the device runs (14): mode requests and Hold-water entry, power domains, DVFS,
the monitors and the rating governor; and the isolation of an erg group (17, R494).
-/
namespace Sys2Proof.Machine

/-- Update the power manager. -/
def onPow (f : PowState → PowState) (s : State) : State := { s with pow := f s.pow }

/-! ### Answers to requests that no longer wait -/


/-- The requests held for a domain fail (R424). -/
def failHeld (d : Nat) (s : State) : State :=
  let out := s.held.filter (fun h => h.why = .domain d)
  forAll out (fun h s => respond h.req (emptyReply h.req rWakeFail) (hostWriteError h.req rWakeFail s)) { s with held := s.held.filter (fun h => h.why ≠ .domain d) }

/-! ### Power domains (R420 to R426) -/

def domF (d off hi lo : Nat) : Fld := F .pwrDom (16 * d + off) hi lo

/-- The stages that a domain's idle timer may enter: gated, retention, off (R420). -/
def idleStages (d : Nat) : Bool × Bool × Bool :=
  if d < 8 then (true, true, false)
  else if d < 100 then (true, true, true)
  else if d = 100 then (true, true, false)
  else if d = 101 then (true, false, true)
  else if 103 ≤ d ∧ d ≤ 110 then (true, false, true)
  else if d = 116 then (true, false, true)
  else if d = 114 ∨ d = 118 ∨ d = 119 then (false, false, false)
  else (true, false, false)

/-- Domains that FORCE OFF is refused for (R423). -/
def neverOff (d : Nat) : Bool := d < 8 || d == 100 || d == 102 || (111 ≤ d && d ≤ 115) || (117 ≤ d && d ≤ 119)

/-- A memory group holds work: queued DET writes (R129), a march (R155), requests that wait for a handover (R138). -/
def groupBusy (s : State) (d : Nat) : Bool :=
  s.memx.detQ.any (fun q => q.2.any (fun e => memDom e.1 == d))
  || (84 ≤ d && s.memx.march.any (fun m => (bitsOf m.banks.toNat 64).any (fun b => 84 + b / 4 == d)))
  || s.held.any (fun h => match h.why with | .handover b => 84 + b / 4 == d | _ => false)

/-- A domain whose blocks hold work (R420). -/
def domBusy (s : State) (d : Nat) : Bool :=
  s.held.any (fun h => h.why = .domain d)
  || (decide (20 ≤ d ∧ d < 100) && groupBusy s d)
  || (if d < 8 then !coreWaits s (Fin.ofNat 4 (d % 4))
      else if d < 20 then decide (s.rd (shState (d % 4)) > stIdle)
      else if d = 100 then s.stk.regCmd.isSome || !s.stk.coxCmd.isEmpty || !s.stk.waits.isEmpty
      else if d = 101 then (List.finRange 16).any (fun e => (s.stk.engines[e]).cur.isSome || (s.stk.engines[e]).waiting)
      else if d = 102 then !s.held.isEmpty
      else if 103 ≤ d ∧ d ≤ 106 then
        let p := s.io.ports[Fin.ofNat 4 (d - 103)]
        !p.fwd.isEmpty || !p.due.isEmpty || decide (now16 s < p.busy)
      else if 107 ≤ d ∧ d ≤ 110 then (List.finRange 4).any (fun k => lkEn s k && (lkLanes s k).any (fun l => l / 4 == d - 107))
      else if d = 111 then pcieUp s
      else if d = 112 ∨ d = 113 then s.host.recal || s.held.any (fun h => h.why = .ddr)
      else if d = 115 then custodyReady s
      else if d = 116 then s.pow.erg.isSome
      else if d = 117 then s.host.xspi.isSome || custodyReady s || s.held.any (fun h => h.why = .flash 0 || h.why = .flash 1)
      else false)

/-- The stage that a domain's idle timer enters next (R421). -/
def nextStage (s : State) (d : Nat) : Option Nat :=
  let g := s.rd (domF d 4 15 0)
  let r := s.rd (domF d 4 31 16)
  let o := s.rd (domF d 8 31 0)
  let offNext := if o ≠ 0 then some 3 else none
  let retNext := if r ≠ 0 then some 2 else offNext
  match domState s d with
  | 0 => if g ≠ 0 then some 1 else retNext
  | 1 => retNext
  | 2 => offNext
  | _ => none

/-- A shell's STATE follows its stream buffers' domain: OFF once that is off (02, Registers). -/
def shellOff (d v : Nat) (s : State) : State :=
  if 16 ≤ d ∧ d < 20 ∧ v = 3 then s.wr (shState (d - 16)) stOff else s

/-- DOMAIN_IDLE_STAGE (R421, R422, R426). -/
def idleStage (d : Nat) (s : State) : State :=
  if domForce s d ≠ 0 ∨ domBusy s d ∨ s.dom.kept.any (fun p => p.1 = d) then s
  else match nextStage s d with
    | none => s
    | some v =>
      let s := if domState s d = 0 then closePad d s else s
      let s := shellOff d v (setDom d v s)
      { s with dom := { s.dom with byIdle := if s.dom.byIdle.contains d then s.dom.byIdle else s.dom.byIdle ++ [d] } }

/-- RELEASE (R426). -/
def padRelease (d : Nat) (s : State) : State :=
  if !padHeld s d then s
  else if domState s d = 0 then openPad d s
  else { s with dom := { s.dom with rel := if s.dom.rel.contains d then s.dom.rel else s.dom.rel ++ [d] } }

/-- WAKE (R424): a new attempt for a FAILED domain. -/
def domWake (d : Nat) (s : State) : State :=
  if domForce s d = 2 then s
  else if domState s d = 5 then
    { setDom d 4 s with dom := { s.dom with tried := s.dom.tried.filter (· ≠ d) } }
  else startWake d s

/-- FORCE takes a value (R423). -/
def domForceTo (d v : Nat) (s : State) : State :=
  let s := s.wr (domF d 0 1 0) v
  if v = 1 then startWake d s
  else if v = 2 then
    let s := if domState s d = 0 then closePad d s else s
    failHeld d (shellOff d 3 (setDom d 3 { s with dom := { s.dom with byIdle := s.dom.byIdle.filter (· ≠ d) } }))
  else s

/-- A write of PWR_DOMd_CTL (R423, R424, R426). -/
def domCtlWrite (d v : Nat) (s : State) : State :=
  let s := s.wr (domF d 0 5 5) (bits v 5 5)
  let f := bits v 1 0
  let s := if f = 3 ∨ (f = 2 ∧ neverOff d) then configErr .pwrDom (16 * d) s
    else if f = domForce s d then s else domForceTo d f s
  let s := if bit v 4 then domWake d s else s
  if bit v 6 then padRelease d s else s

/-- Writes of a domain's thresholds (R421): each given value replaces its field. -/
def threshWrite (d : Nat) (off : Nat) (g r o : Option Nat) (s : State) : State :=
  let have_ := idleStages d
  let bad (p : Bool) (x : Option Nat) : Bool := !p && (match x with | some v => v ≠ 0 | none => false)
  let err := bad have_.1 g || bad have_.2.1 r || bad have_.2.2 o
  let g := if bad have_.1 g then none else g
  let r := if bad have_.2.1 r then none else r
  let o := if bad have_.2.2 o then none else o
  let gv := g.getD (s.rd (domF d 4 15 0))
  let rv := r.getD (s.rd (domF d 4 31 16))
  let ov := o.getD (s.rd (domF d 8 31 0))
  let l := [gv, rv, ov].filter (· ≠ 0)
  let order := (l.zip (l.drop 1)).all (fun p => p.1 < p.2)
  let s := if order then ((s.wr (domF d 4 15 0) gv).wr (domF d 4 31 16) rv).wr (domF d 8 31 0) ov else s
  if err || !order then configErr .pwrDom (16 * d + off) s else s

/-- DOMAIN_WAKE_TIMEOUT (R424). -/
def domWakeTimeout (d : Nat) (s : State) : State :=
  if domState s d ≠ 4 then s
  else if !s.dom.tried.contains d then { s with dom := { s.dom with tried := s.dom.tried ++ [d] } }
  else
    let s := { s with dom := { s.dom with tried := s.dom.tried.filter (· ≠ d) } }
    let s := failHeld d (report .pwrDom 0 ((setDom d 5 s).countSat (domF d 0xC 31 16) 1))
    -- the jobs whose catch has come and that wait for it end (R69, R424)
    forAll (s.vec.pool.filter (fun j => j.past && (jobNeeds s j).contains d)) (fun j s => endWakeFail j (unpool j.id s)) s

/-! ### DVFS (R429 to R431) -/

def dvF (off hi lo : Nat) : Fld := F .pwrDvfs off hi lo
def curOp (s : State) : Nat := s.rd (dvF 4 2 0)
def voltOp (s : State) : Nat := s.rd (dvF 4 10 8)

/-- The effective target (R430): the request under its caps. -/
def dvfsTarget (s : State) : Nat :=
  let ea := s.mode = modeEasyAll
  let t := if ea then s.rd (F .pwrCtl 0x00C 2 0) else s.rd (dvF 0 2 0)
  let t := if s.rd (F .pwrGov 4 11 11) = 1 then min t 6 else t
  let t := if s.mode = modeHoldWater then min t (s.rd (F .pwrCtl 4 2 0)) else t
  let t := if s.mode = modeHoldWater ∧ s.pow.hwEntry then min t (curOp s) else t
  let t := if s.pow.pfail then min t (s.rd (dvF 0x040 2 0)) else t
  if s.pow.rc then 0 else t

/-- A mode request in progress ends with a status (R407). -/
def endRequest (st : Nat) (s : State) : State :=
  onPow (fun p => { p with req := none, latched := none }) ((s.wr (F .pwrCtl 0 31 31) 0).wr (F .pwrCtl 0 10 8) st)

/-- The DVFS step of a Hold-water entry has ended, or none was needed (R416). -/
def hwDone (s : State) : State :=
  if s.pow.hwEntry then
    let s := onPow (fun p => { p with hwEntry := false, hwJobs := [] }) s
    if s.pow.req = some 4 then endRequest 0 s else s
  else s

/-- VOPk in mV (R429). -/
def vop (s : State) (k : Nat) : Nat := s.rd (dvF (0x020 + 4 * k) 9 0)

/-- The voltage of a point is requested of the VDD_CORE regulator (R430, R432). -/
def requestVolt (t : Nat) (s : State) : State :=
  emit (.regulator (.writeVoltage (vop s t))) (onPow (fun p => { p with step := some t, volt := some t }) s)

/-- The sequencer heads for the target of its registers, if it is not there (R430). -/
def dvfsGo (s : State) : State :=
  let t := s.rd (dvF 4 6 4)
  if curOp s = t ∧ voltOp s = t then hwDone ((onPow (fun p => { p with step := none, volt := none }) s).wr (dvF 4 31 31) 0)
  else
    let s := s.wr (dvF 4 31 31) 1
    if t > curOp s ∧ voltOp s < t then
      (requestVolt t s).wr (dvF 4 29 29) 1
    else if curOp s = t then requestVolt t s
    else onPow (fun p => { p with step := some t, volt := none }) s

/-- Jobs of the Hold-water entry still run (R416). -/
def hwBusy (s : State) : Bool :=
  s.pow.hwEntry && (List.range 4).any (fun n => (run s n).job.any (fun j => s.pow.hwJobs.contains j.id))

/-- TARGET takes a value, and CAPPED says whether it lies below OP (14, Registers). -/
def setTarget (t : Nat) (s : State) : State := (s.wr (dvF 4 6 4) t).wr (dvF 4 28 28) (bnat (decide (t < s.rd (dvF 0 2 0))))

/-- The target is formed anew; a step in progress completes first, and so do the jobs of a Hold-water entry (R416, R430). Boathouse has
no operating point (R405). -/
def dvfsPlan (s : State) : State :=
  if s.mode = modeBoathouse then s
  else
    let s := setTarget (dvfsTarget s) s
    if s.pow.step.isSome ∨ hwBusy s then s else dvfsGo s

/-- A job of a Hold-water entry may have been the last to stop (R416). -/
def hwSettle (s : State) : State := if s.pow.hwEntry then dvfsPlan s else s

/-- A step has ended: the sequencer heads for the target of that moment (R408, R430). -/
def stepEnds (s : State) : State := dvfsPlan (onPow (fun p => { p with step := none, volt := none }) (s.wr (dvF 4 31 29) 0))

/-- Paddle and Race follow the operating point (R406). -/
def modeOfOp (s : State) : State :=
  if s.mode = modePaddle ∨ s.mode = modeRace then s.wr (F .pwrCtl 0 2 0) (if curOp s ≥ 4 then modeRace else modePaddle) else s

/-- A write of PWR_DVFS_OP (R430). -/
def dvfsRequest (v : Nat) (s : State) : State := dvfsPlan (s.wr (dvF 0 2 0) (bits v 2 0))

/-- VOLTAGE_CONFIRMED (R430). -/
def voltageConfirmed (s : State) : State :=
  match s.pow.step, s.pow.volt with
  | some t, some v =>
    let s := (onPow (fun p => { p with volt := none }) ((s.wr (dvF 4 10 8) v).wr (dvF 4 29 29) 0))
    if curOp s = t then stepEnds s else s
  | _, _ => s

/-- A DET job is running (R74, R430). -/
def detJobs (s : State) : Bool :=
  (List.range 4).any (fun n => (run s n).job.any (fun j => jDet (leadOf j.descs)) && s.rd (shState n) ≠ stIdle)

/-- FREQUENCY_SWITCH: the idle channel has locked (R428, R430). -/
def frequencySwitch (s : State) : State :=
  match s.pow.step with
  | some t =>
    if curOp s = t then s
    else if voltOp s < t then s
    else if detJobs s then s.wr (dvF 4 30 30) 1
    else
      let s := modeOfOp (((s.wr (dvF 4 2 0) t).wr (dvF 4 30 30) 0))
      if voltOp s = t then stepEnds s else requestVolt t s
  | none => s

/-- VREG_TIMEOUT: a regulator has not confirmed within VTIMEOUT, or one holds PM_SCL low (R431, R520). The step that waits for a voltage
ends with the target at CUR_OP; a cap that demands a lower frequency still is followed. -/
def vregTimeout (s : State) : State :=
  let s := report .pwrDvfs 0 s
  if s.pow.volt.isSome then
    let s := onPow (fun p => { p with step := none, volt := none }) ((setTarget (curOp s) s).wr (dvF 4 31 29) 0)
    if hwBusy s then s else if dvfsTarget s < curOp s then dvfsPlan s else hwDone s
  else s

/-! ### The rating governor (R434 to R436) -/

/-- Shells that run, or hold a stroke, follow a lower cap, with RATED (R73, R434). -/
def applyCap (s : State) : State :=
  noteSum (forAll (List.range 4) (fun n s =>
    if (s.rd (shState n) = stRunning ∨ s.rd (shState n) = stHeld) ∧ s.rd (shRating n) > ratingCap s then
      let lead := ((run s n).lead.getD n)
      onRun lead (fun q => { q with job := q.job.map (fun j => { j with rated := true, exact := false }) })
        (s.wr (shRating n) (ratingCap s))
    else s) s)

/-- RATING_CAP takes a value (R434). -/
def setCap (v : Nat) (s : State) : State := applyCap ((s.wr (F .pwrGov 4 15 12) v).wr (F .pwrGov 4 10 10) (bnat (decide (v < 8))))
def capNow (s : State) : Nat := s.rd (F .pwrGov 4 15 12)
def lowerCap (s : State) : State := if capNow s > 1 then setCap (capNow s - 1) s else s

/-- TJ in °C. -/
def tjNow (s : State) : Int := sgn 8 (s.rd (F .pwrGov 4 31 24))
def tjThrot (s : State) : Nat := s.rd (F .pwrGov 0 15 8)

/-- RATING_CAP_RAISE (R434). -/
def capRaise (s : State) : State :=
  if tjNow s < (tjThrot s : Int) - 3 ∧ capNow s < 8 then setCap (capNow s + 1) s else s

/-- The current of VDD_CORE as it was read last (R432). -/
def currentPoll (a : Nat) (s : State) : State := s.wr (F .pwrGov 4 23 16) a

/-- The PMBus readings of one regulator's telemetry (R432). -/
def telemetry (a : Nat) (s : State) : State :=
  forAll [.pmReadVout a, .pmReadIout a, .pmReadTemperature a, .pmStatusWord a] (fun c s => emit (.regulator c) s) s

/-- REGULATOR_POLL: the current of VDD_CORE each time, the telemetry of the other regulators each millisecond (R432). -/
def regulatorPoll (a : Nat) (s : State) : State :=
  let s := emit (.regulator .readCurrent) (currentPoll a s)
  if s.elapsed < s.pow.telemetryAt + 1500000 then s
  else forAll Config.pmbusAddrs telemetry (onPow (fun p => { p with telemetryAt := s.elapsed }) s)

/-- CURRENT_SAMPLE (R436). -/
def currentSample (a : Nat) (s : State) : State :=
  let s := currentPoll a s
  if a > s.rd (F .pwrGov 0 31 24) then lowerCap s else s

/-- RATING_RAMP: 32 ns have passed since a running shell's last rise (R436). -/
def ratingRamp (n : Nat) (s : State) : State :=
  if s.rd (shState n) = stRunning ∧ s.rd (shRating n) < allowedRating s [n] then
    noteSum (s.wr (shRating n) (s.rd (shRating n) + 1))
  else s

/-- BALLAST_START: a reserved shell is loaded as far as the limit allows (R436). -/
def ballastStart (n : Nat) (s : State) : State :=
  if s.rd (shState n) = stReserved ∧ (run s n).ballast = 0 then
    noteSum (onRun n (fun q => { q with ballast := allowedRating s [n] }) s)
  else s

/-- The setting of rail k in mV (R433, R509): of VDD_CORE the voltage of the confirmed point, the lower of the old and new ones while a
step is in progress. -/
def railSetting (s : State) (k : Nat) : Nat :=
  if k = 0 then
    let v := vop s (voltOp s)
    s.pow.step.elim v (fun t => min v (vop s t))
  else [0, 850, 850, 1200, 1100, 1800, 3300, 1800].getD k 0

/-- SUPPLY_MONITOR: rail k stands at so many mV (R433). -/
def supplyMonitor (k mv : Nat) (s : State) : State :=
  let v := railSetting s k
  let s := s.wr (F .pwrGov 0x00C k k) (bnat (decide (100 * mv < 92 * v)))
  let s := s.wr (F .pwrGov 0x00C (8 + k) (8 + k)) (bnat (decide (108 * v < 100 * mv)))
  condition .pwrGov 3 (s.rd (F .pwrGov 0x00C 15 8) ≠ 0) (condition .pwrGov 2 (s.rd (F .pwrGov 0x00C 7 0) ≠ 0) s)

/-! ### Mode requests (R406 to R408, R416 to R419) -/

/-- The bits of PWR_CTL_HWCAUSE. -/
def hwBit : ModeCause → Nat
  | .request _ => 1
  | .escalation => 2
  | .overtemp => 0

/-- A step whose frequency has not switched is abandoned; one that has switched completes (R408). -/
def abandonStep (s : State) : State :=
  match s.pow.step with
  | some t =>
    if curOp s = t then s
    else onPow (fun p => { p with step := none, volt := none }) ((s.wr (dvF 4 31 29) 0).wr (dvF 4 6 4) (curOp s))
  | none => s

/-- A Hold-water cause (R406, R408, R416). -/
def enterHoldWater (c : ModeCause) (s : State) : State :=
  let m := s.mode
  if m = modeHoldWater ∨ m = modeEasyAll then s.orBit (F32 .pwrCtl 8) (hwBit c)
  else if m = modePaddle ∨ m = modeRace then
    let s := s.orBit (F32 .pwrCtl 8) (hwBit c)
    let s := driveFault (report .pwrCtl 0 (s.wr (F .pwrCtl 0 2 0) modeHoldWater))
    -- the request in progress, a BOATHOUSE one, is no transition from Hold-water
    let s := if s.pow.req = some 1 then endRequest 4 s else s
    let s := match c with
      | .request _ => onPow (fun p => { p with req := some 4 }) (s.wr (F .pwrCtl 0 31 31) 1)
      | _ => s
    let jobs := (List.range 4).filterMap (fun n => (run s n).job.map Job.id)
    let s := applyCap (cancelJobs (fun _ => true) (safeTrips s))
    hwSettle (onPow (fun p => { p with hwEntry := true, hwJobs := jobs }) (abandonStep s))
  else s

/-- Items of an erg group as blocks (R493); a core not in WAIT is skipped on request (R495). -/
def ergBlocks (s : State) (onReq : Bool) (g : Nat) : List Blk :=
  match g with
  | 0 => ((List.finRange 4).filter (fun c => !onReq || coreWaits s c)).map Blk.cox
  | 1 => (List.finRange 4).map Blk.vecShell
  | 2 => (List.finRange 16).map Blk.crsArr ++ [.crwArr] ++ (List.finRange 4).map Blk.cox ++ (List.finRange 4).map Blk.vecShell
           ++ [.movStk, .timReg]
  | 4 => (List.finRange 4).map Blk.ingLink ++ (List.finRange 4).map Blk.netPort ++ [.hstPcie]
  | 5 => [.timPf]
  | _ => []

/-- Pad domains under test in a group (R494). -/
def ergPads (g : Nat) : List Nat := 114 :: (if g = 4 then (List.range 9).map (· + 103) else [])

/-- A group starts: the blocks are isolated, and jobs on shells under test end with IN_TEST (R494). -/
def ergGroupStart (g : Nat) (s : State) : State :=
  let onReq := s.pow.erg.any ErgRun.onReq
  let bs := ergBlocks s onReq g
  let s := forAll (ergPads g) closePad (setDom 116 0 s)
  let s := { s with flt := { s.flt with underTest := bs } }
  let s := forAll (List.finRange 4) (fun n s =>
    if bs.contains (.vecShell n) then
      if s.rd (shState n.val) ≤ stIdle then s.wr (shState n.val) stInTest
      else
        let lead := (run s n.val).lead.getD n.val
        onRun lead (fun q => match q.job with
          | some j => { q with halt := some (q.halt.getD ⟨vsInTest, j.next, 0, 0⟩) }
          | none => q) s
    else s) s
  let t := s.rd (F .pwrAon 8 47 0)
  onPow (fun p => { p with erg := p.erg.map (fun r => { r with ticks := t }) }) (s.wr (F .pwrErg 8 19 17) g)

/-- ERG_FAIL of the newest record of a group (R495). -/
def ergFailed (s : State) (g : Nat) : Bool :=
  match s.cus.wins.find? (fun w => w.cls = 2 ∧ w.key = g) with
  | some w => leNat ((winPayload s w).take 1) = 1
  | none => false

/-- No work is left that a shutdown would cut off: jobs, descriptors, frames, commits and flash commands have ended (R407, R409,
R419). -/
def workEnded (s : State) : Bool :=
  (List.range 4).all (fun n => (run s n).job.isNone)
  && (List.finRange 16).all (fun e => (s.stk.engines[e]).cur.isNone)
  && (List.finRange 4).all (fun p => decide ((s.io.ports[p]).busy ≤ now16 s))
  && !custodyReady s && s.host.xspi.isNone

/-- The erg runs of Easy-all begin: the groups that the vault schedules, and those that failed (R495); none while PFAIL_N is asserted
(R408). -/
def ergSchedule (s : State) : State :=
  if s.pow.pfail then onPow (fun p => { p with ergDone := true }) s
  else
    let runs := if s.lc = lcEnd then [] else (List.range 6).filter (fun g => bit (s.rd (F .pwrErg 0 5 0)) g || ergFailed s g)
    let s := onPow (fun p => { p with erg := some ⟨List.range 6, runs, false, 0⟩ }) s
    let s := (s.wr (F .pwrErg 8 31 31) 1).wr (F .pwrErg 8 5 0) 0
    if runs.contains 0 then ergGroupStart 0 s else s.wr (F .pwrErg 8 19 17) 7

/-- Easy-all goes on (R419): once the cores are in WAIT and no work is left, MODE reads 5 and DVFS moves to EA_OP; once it is there, the
erg runs begin. That MODE keeps its value until then is a DESIGN CHOICE (notes/assumptions/69.md). -/
def easyProgress (s : State) : State :=
  if s.pow.req ≠ some 3 ∨ !allWait s ∨ !workEnded s then s
  else
    let s := if s.mode = modeEasyAll then s
      else dvfsPlan (onPow (fun p => { p with hwEntry := false, hwJobs := [] }) (s.wr (F .pwrCtl 0 2 0) modeEasyAll))
    if s.pow.erg.isSome ∨ s.pow.ergDone ∨ s.pow.step.isSome then s else ergSchedule s

/-- The end of work lets a Hold-water entry or Easy-all go on (R416, R419). -/
def workSettles (s : State) : State := easyProgress (hwSettle s)

/-- The ageing monitor records its total and may cap DVFS (R437). -/
def ageRecord (s : State) : State :=
  let (k, s) := s.fresh
  let life := Config.projectedLife k % 2 ^ 16
  let s := deviceRecord 3 0 (leBytes 8 (Config.openWord k).toNat) (s.wr (F .pwrGov 8 15 0) life)
  let aged := decide (life < 200) || (s.pow.aged && s.lc ≠ lcDevelop)
  let s := onPow (fun p => { p with aged := aged }) (s.wr (F .pwrGov 4 11 11) (bnat aged))
  dvfsPlan (condition .pwrGov 1 aged s)

/-- A request code of R407 arrives while another is in progress, or from a mode that has no such transition. -/
def refuse (st : Nat) (s : State) : State := s.wr (F .pwrCtl 0 10 8) st

/-- A request is accepted and in progress. -/
def accept (code : Nat) (s : State) : State := onPow (fun p => { p with req := some code }) (s.wr (F .pwrCtl 0 31 31) 1)

/-- A BOATHOUSE request (R407). -/
def reqBoathouse (s : State) : State :=
  if s.pow.req.isSome then refuse 1 s
  else if s.mode ≠ modePaddle ∧ s.mode ≠ modeRace then refuse 4 s
  else if (List.range 4).any (fun n => s.rd (shState n) > stIdle)
      || (List.range 16).any (fun e => s.rd (F .movMvr (0x100 + 4 * e) 31 31) = 1) then refuse 2 s
  else accept 1 s

/-- An EASY_ALL request (R419). -/
def reqEasyAll (s : State) : State :=
  if s.pow.req.isSome then refuse 1 s
  else if s.mode ≠ modePaddle ∧ s.mode ≠ modeRace ∧ s.mode ≠ modeHoldWater then refuse 4 s
  else
    let s := cancelJobs (fun _ => true) (accept 3 s)
    let s := forAll (List.finRange 4) (fun k s => gateAction k (now16 s) false s) s
    easyProgress (ageRecord (onPow (fun p => { p with quiet := true }) s))

/-- A HOLD_WATER request (R407, R416). -/
def reqHoldWater (m : Master) (s : State) : State :=
  if s.pow.req.isSome then refuse 1 s
  else if s.mode = modeHoldWater then refuse 0 (enterHoldWater (.request m) s)
  else if s.mode = modePaddle ∨ s.mode = modeRace then enterHoldWater (.request m) s
  else refuse 4 s

/-- A PADDLE request (R418). -/
def reqPaddle (s : State) : State :=
  if s.pow.req.isSome ∨ s.pow.hwEntry then refuse 1 s
  else if s.mode ≠ modeHoldWater then refuse 4 s
  else if s.rd (F .pwrCtl 8 2 0) ≠ 0 ∨ tjNow s ≥ (tjThrot s : Int) - 3 then refuse 5 s
  else dvfsPlan (applyCap (refuse 0 (s.wr (F .pwrCtl 0 2 0) modePaddle)))

/-- A write of PWR_CTL_MODE.REQ (R407). -/
def modeRequest (m : Master) (code : Nat) (s : State) : State :=
  match code with
  | 0 => s
  | 1 => reqBoathouse s
  | 2 => reqPaddle s
  | 3 => reqEasyAll s
  | 4 => reqHoldWater m s
  | _ => configErr .pwrCtl 0 s

/-- The first Hold-water escalation waiting is taken (R478, R486). -/
def takeEscalation (s : State) : State :=
  match s.flt.reactions.find? (fun r => match r with | .holdWater _ _ => true | _ => false) with
  | some r => enterHoldWater .escalation { s with flt := { s.flt with reactions := s.flt.reactions.erase r } }
  | none => s

/-- MODE_REQUEST_TIMEOUT: 1 ms after the request (R407). -/
def modeTimeout (s : State) : State :=
  if (s.pow.req = some 1 ∨ s.pow.req = some 3) ∧ s.mode ≠ modeEasyAll ∧ !allWait s then
    endRequest 3 (onPow (fun p => { p with quiet := false }) s)
  else s

/-- THERMAL_SAMPLE (R434, R435). -/
def thermalSample (temps : List Int) (s : State) : State :=
  match temps with
  | [] => s
  | t :: l =>
    let tj := l.foldl max t
    let s := s.wr (F .pwrGov 4 31 24) (wrap 8 tj)
    let s := if tj ≥ tjThrot s then lowerCap s else s
    let above := decide (tj ≥ 125)
    let both := above && s.pow.hot
    let s := condition .pwrGov 0 both (onPow (fun p => { p with hot := above }) s)
    if both then enterHoldWater .overtemp s else s

/-- REFRETRY (R413). -/
def refRetry (ok : Bool) (s : State) : State :=
  if s.pow.rc ∧ ok then dvfsPlan (onPow (fun p => { p with rc := false }) s) else s

/-! ### Meanings -/

/-- BOATHOUSE (R407). -/
def execBoathouse (cause : ModeCause) (s : State) : Answer :=
  match cause with
  | .request _ => .next (reqBoathouse s)
  | _ => .next s
/-- PADDLE (R418). -/
def execPaddle (cause : ModeCause) (s : State) : Answer :=
  match cause with
  | .request _ => .next (reqPaddle s)
  | _ => .next s
/-- EASY_ALL (R419). -/
def execEasyAll (cause : ModeCause) (s : State) : Answer :=
  match cause with
  | .request _ => .next (reqEasyAll s)
  | _ => .next s
/-- HOLD_WATER (R416). -/
def execHoldWater (cause : ModeCause) (s : State) : Answer :=
  match cause with
  | .request m => .next (reqHoldWater m s)
  | .escalation => .next (takeEscalation s)
  | .overtemp => .next (if s.rdBit (fLive .pwrGov) 0 then enterHoldWater .overtemp s else s)
/-- MODE_REQUEST_TIMEOUT (R407). -/
def execModeRequestTimeout (s : State) : Answer := .next (modeTimeout s)
/-- REFRETRY (R413). -/
def execRefretry (_m : Master) (ok : Bool) (s : State) : Answer := .next (refRetry ok s)
/-- DOMAIN_IDLE_STAGE (R421). -/
def execDomainIdleStage (d : DomId) (s : State) : Answer := .next (idleStage d.val s)
/-- DOMAIN_WAKE_WRITE (R424). -/
def execDomainWakeWrite (_m : Master) (d : DomId) (s : State) : Answer := .next (domWake d.val s)
/-- DVFS_REQUEST (R430). -/
def execDvfsRequest (_m : Master) (v : W32) (s : State) : Answer := .next (dvfsRequest v.toNat s)
/-- VOLTAGE_CONFIRMED (R430). -/
def execVoltageConfirmed (s : State) : Answer := .next (easyProgress (voltageConfirmed s))
/-- FREQUENCY_SWITCH (R428). -/
def execFrequencySwitch (s : State) : Answer := .next (easyProgress (frequencySwitch s))
/-- VREG_TIMEOUT (R431). -/
def execVregTimeout (s : State) : Answer := .next (easyProgress (vregTimeout s))
/-- REGULATOR_POLL (R432). -/
def execRegulatorPoll (icore : BitVec 8) (s : State) : Answer := .next (regulatorPoll icore.toNat s)
/-- SUPPLY_MONITOR (R433). -/
def execSupplyMonitor (k : Fin 8) (mv : Nat) (s : State) : Answer := .next (supplyMonitor k.val mv s)
/-- THERMAL_SAMPLE (R434). -/
def execThermalSample (temps : Vector (BitVec 8) 8) (s : State) : Answer := .next (thermalSample (temps.toList.map BitVec.toInt) s)
/-- RATING_CAP_RAISE (R434). -/
def execRatingCapRaise (s : State) : Answer := .next (capRaise s)
/-- CURRENT_SAMPLE (R436). -/
def execCurrentSample (amps : BitVec 8) (s : State) : Answer := .next (currentSample amps.toNat s)
/-- RATING_RAMP (R436). -/
def execRatingRamp (sh : ShellId) (s : State) : Answer := .next (ratingRamp sh.val s)
/-- BALLAST_START (R436). -/
def execBallastStart (sh : ShellId) (s : State) : Answer := .next (ballastStart sh.val s)
/-- JOB_COMPLETE (R76). -/
def execJobComplete (sh : ShellId) (time : StrokeTime) (s : State) : Answer :=
  .next (workSettles (jobComplete sh.val time.cycles (match (run s sh.val).job with | some j => strokeWaits sh.val j time.waits s | none => s)))
/-- JOB_HALT (R53). -/
def execJobHalt (sh : ShellId) (s : State) : Answer := .next (workSettles (jobHalt sh.val s))
/-- DISCARD (R55). -/
def execDiscard (m : Master) (sh : ShellId) (s : State) : Answer :=
  .next (reaches m (.vecShell sh) 8 (write32 2) (fun s => workSettles (discardDrain sh.val s)) s)
/-- CANCEL_STOP (R58). -/
def execCancelStop (sh : ShellId) (s : State) : Answer := .next (workSettles (cancelStop sh.val s))

end Sys2Proof.Machine
end

