-- ==== Sys2Proof/Machine/Stakeboat.lean ====
section
/-!
DEFINITION. The Stakeboat's commands (05, R163, R169 to R175), common to MOV_STK_CMD and the handle units.
-/
namespace Sys2Proof.Machine

/-- What a command gives: RESULT, CODE, and for a QUERY the entry's words. -/
structure StkResult where
  result : Nat
  code : Nat
  words : Option (List Nat)
deriving DecidableEq, Repr

/-- Every job armed on a destroyed window ends with CANCELLED, RESUMABLE 0; a late one is armed no longer (R66, R68, R353). -/
def endArmed (k : Nat) (s : State) : State :=
  forAll (s.vec.pool.filter (fun j => j.slot = some k && !j.past)) (fun j s =>
    endPooled { j with started := false } vsCancelled (unpool j.id s)) s

/-- DESTROY with what it ends (R170, R353). -/
def stkDestroy (h : Nat) (s : State) : State × StkResult :=
  let c := destroyCode s h
  if c ≠ 0 then (s, ⟨0, c, none⟩)
  else
    let e := entryOf s h
    let s := destroyEntry h s
    let s := if e.kind = kWindow then endArmed (bits (e.word 1) 13 0) (closeWindow (bits (e.word 1) 13 0) s) else s
    (s, ⟨0, cOk, none⟩)

/-- QUERY (R174). -/
def stkQuery (h : Nat) (s : State) : State × StkResult :=
  let c := checkHandle s (hKind h) h
  if c ≠ 0 then (s, ⟨0, c, none⟩) else (s, ⟨h, cOk, some (entryWords (entryOf s h))⟩)

/-- RECLAIM: only of a RETIRED entry (R170, R174); one that meets an uncorrectable error in its entry retires it and fails
(R171). -/
def stkReclaim (i : Nat) (ue : Bool) (s : State) : State × StkResult :=
  if ue then (tableUe i s, ⟨0, cStale, none⟩)
  else if (entryAt s i).st ≠ 2 then (s, ⟨0, cIndexBusy, none⟩) else (setEntry i ⟨0, 0, 0, 0, []⟩ s, ⟨0, cOk, none⟩)

/-- A command takes its place in the order of the Stakeboat (R163); ue: its entry is met with an uncorrectable error first
(R171). -/
def stkPerform (c : StkCmd) (ue : Bool) (s : State) : State × StkResult :=
  match c.op with
  | 1 =>
    let i := if c.atIdx then c.index else lowestFree 0 s.stk.table
    let code := createCode s c
    if ue ∧ i < 32768 ∧ (code = cOk ∨ code = cIndexBusy) then (tableUe i s, ⟨0, cStale, none⟩)
    else
      let (s, h, code) := createEntry c s
      (s, ⟨h, code, none⟩)
  | 2 => stkDestroy c.arg (ueHandle ue c.arg s)
  | 3 => stkQuery c.arg (ueHandle ue c.arg s)
  | 4 => stkReclaim c.index ue s
  | _ => (s, ⟨0, cOk, none⟩)

def stkF (off hi lo : Nat) : Fld := F .movStk off hi lo

/-- A write of MOV_STK_CMD (R174): samples its inputs and begins. -/
def stkCmdWrite (v : Nat) (s : State) : State :=
  let op := bits v 31 28
  if s.rd (stkF 0xC 31 31) = 1 then configErr .movStk 0 s
  else if op = 0 then s
  else if op ≥ 5 then configErr .movStk 0 s
  else
    let w := (List.range 7).map (fun j => s.rd (F32 .movStk (0x24 + 4 * j)))
    let c : StkCmd := ⟨op, bit v 27, bits v 14 0, s.rd (F32 .movStk 4), w⟩
    let s := (activity 100 s).wr (stkF 0xC 31 31) 1
    { s with stk := { s.stk with regCmd := some c } }

/-- The command of MOV_STK_CMD ends: BUSY clears, RESULT and CODE become valid, a QUERY fills the staging words. -/
def stkRegDone (ue : Bool) (s : State) : State :=
  match s.stk.regCmd with
  | none => s
  | some c =>
    let (s, r) := stkPerform c ue { s with stk := { s.stk with regCmd := none } }
    let s := (s.wr (F32 .movStk 8) r.result).setReg ((Blk.movStk).base + 0xC) r.code
    match r.words with
    | some ws => forAll (List.range 8) (fun j s => s.wr (F32 .movStk (0x20 + 4 * j)) (wordAt ws j)) s
    | none => s

end Sys2Proof.Machine
end

