-- ==== Sys2Proof/Machine/CoxBase.lean ====
section
/-!
DEFINITION. The Cox cores: their release (14, R412; 15, R454) and the operations on one core.
-/
namespace Sys2Proof.Machine

/-- A core of the device. -/
def core (s : State) (c : CoxId) : Core := s.cox.cores[c]
/-- Replace a core. -/
def setCore (c : CoxId) (k : Core) (s : State) : State := { s with cox := { s.cox with cores := s.cox.cores.set c k } }
/-- Change a core. -/
def onCore (c : CoxId) (f : Core → Core) (s : State) : State := setCore c (f (core s c)) s

/-- The oldest command of a core's handle unit takes its place in the order of the Stakeboat; its results are on their way to the
unit's ports (R163, R174, R231). -/
def stkCoxPerform (c : CoxId) (ue : Bool) (s : State) : State :=
  match ngetD s.stk.coxCmd c.val [] with
  | [] => s
  | cmd :: rest =>
    let s := { s with stk := { s.stk with coxCmd := if rest.isEmpty then ndel c.val s.stk.coxCmd else nput c.val rest s.stk.coxCmd } }
    let (s, r) := stkPerform cmd ue s
    let writes := [(0x260, r.result), (0x262, r.code)] ++ (match r.words with
      | some ws => (List.range 8).map (fun j => (0x268 + j, wordAt ws j))
      | none => [])
    let mark (l : List Flight) : List Flight :=
      match l.span (fun f => !(f.slow && f.unit == 15)) with
      | (a, f :: b) => a ++ { f with slow := false, writes := writes } :: b
      | (a, []) => a
    onCore c (fun k => { k with flight := mark k.flight }) s

/-- The fields of COX_COREn_EXC_STATE. -/
def excF (c : CoxId) (hi lo : Nat) : Fld := F (.cox c) 0x200 hi lo
def curLevel (s : State) (c : CoxId) : Nat := s.rd (excF c 2 0)
def waiting (s : State) (c : CoxId) : Bool := s.rd (excF c 6 6) = 1
def catching (s : State) (c : CoxId) : Bool := s.rd (excF c 7 7) = 1

/-- A core has nothing left to do for any broadcast: its TLB is empty (R316). -/
def bcastFree (c : CoxId) (s : State) : State :=
  let bs := s.cox.bcasts.map (fun b => { b with left := b.left.filter (· ≠ c.val) })
  { s with cox := { s.cox with bcasts := bs.filter (fun b => !b.left.isEmpty) } }

/-- A core at its release (R412, R454). -/
def coreAt (det : Bool) (b : StartBlk) : Core :=
  { Core.idle with
    on := true, pc := b.entry, g := Core.idle.g.set 63 (BitVec.ofNat 64 b.stack), maskLev := 3, det := det, vbase := b.vbase,
    ssp := b.ssp, fpenv := b.fpenv }

/-- Release a core with a start block: DET takes effect, EXC_STATE is clear (R267, R454). -/
def releaseCore (c : CoxId) (b : StartBlk) (s : State) : State :=
  setCore c (coreAt (s.rd (F (.cox c) 0x100 0 0) = 1) b) (s.setReg ((Blk.cox c).base + 0x200) 0)

/-- A core stops: released no more. -/
def stopCore (c : CoxId) (s : State) : State := setCore c Core.idle (s.setReg ((Blk.cox c).base + 0x200) 0)

end Sys2Proof.Machine
end

