-- ==== Sys2Proof/Machine/Resets.lean ====
section
/-!
DEFINITION. Block resets, their shadow and the wipe of the handle table (17, R481, R482; 05, R172, R173), and the
chip reset (00, R6; 14, R406; 18, R514).
-/
namespace Sys2Proof.Machine

/-- Update the fault state. -/
def onFlt (f : FaultState → FaultState) (s : State) : State := { s with flt := f s.flt }

/-! ### The wipe of the handle table (R172, R173) -/

/-- Registers that bind a handle (R168), with CHARG and TOKEN: block and offset. -/
def bindingRegs : List (Blk × Nat) :=
  (List.range 16).flatMap (fun q => [(.vecSched, 4 * q), (.vecSched, 0x0C0 + 4 * q)])
  ++ (List.finRange 4).map (fun k => (.ingLink k, 0x00C))
  ++ (List.finRange 4).flatMap (fun n => [(.netPort n, 4), (.netPort n, 8), (.netPort n, 0xC), (.netPort n, 0x10)])
  ++ (List.range 32).map (fun j => (.timPf, 0x104 + 16 * j)) ++ [(.movMvr, 0), (.cusLc, 8)]

/-- A Mover engine without channels. -/
def idleEngine : Engine := ⟨[], [], none, [], 0, 0, none, [], none, false, [], false⟩

/-- BUSY and RECORD_WAIT of an engine fall; INDEX, the channel last served, stays (05, Registers). -/
def engineStops (e : Fin 16) (s : State) : State := s.wr (F .movMvr (0x100 + 4 * e.val) 31 30) 0

/-- The table and the ring state are wiped, after the commands in progress; every agent lets go of its handles, and the records of
ingest, network and Photo-finish that wait for a ring are discarded and counted (R173). -/
def stkWipe (s : State) : State :=
  let s := stkRegDone false s
  let s := forAll (List.finRange 4) (fun c s => forAll (ngetD s.stk.coxCmd c.val []) (fun _ s => stkCoxPerform c false s) s) s
  let wins := s.stk.table.filterMap fun (_, e) => if e.st == 1 && e.kind == kWindow then some (bits (e.word 1) 13 0) else none
  let s := forAll wins closeWindow s
  let s := onVec (fun v => { v with
    pool := [], shells := v.shells.map (fun r => { r with stack := [], cancel := r.cancel || r.job.isSome
                                                          job := r.job.map (fun j => { j with ring := 0 }) }) }) s
  let s := unreserveIdle (forAll (List.range 4) (fun n s => s.wr (shDepth n) 0) s)
  let s := { s with cus := { s.cus with queue := s.cus.queue.map (fun q => { q with handle := 0 }) } }
  let s := forAll s.stk.waits (fun w s => dropCount w.offer.producer s) s
  let s := forAll (s.stk.rings.flatMap (fun p => p.2.recs.filter (!·.written))) (fun x s => dropCount x.producer s) s
  let who := s.stk.waits.map RingWait.who
  let s := { s with stk := { s.stk with table := [], rings := [], waits := [], engines := Vector.replicate 16 idleEngine } }
  let s := forAll who (fun w s => waiterGoes w false s) s
  let s := forAll (List.finRange 16) engineStops s
  let s := forAll bindingRegs (fun p s => s.setReg (p.1.base + p.2) 0) s
  { s with regs := (s.regs.filter fun p =>
      ¬ ((Blk.movStk).base + 0x1000 ≤ p.1 ∧ p.1 < (Blk.movStk).base + 0x2000)
      ∧ ¬ ((Blk.movRing 0).base ≤ p.1 ∧ p.1 < (Blk.movRing 3).base + 0x10000)) }

/-! ### Block reset (R481) -/

/-- Registers of a block that its block reset owns return to their reset values (R6). -/
def resetBlockRegs (b : Blk) (s : State) : State :=
  { s with regs := s.regs.filter fun p => match regAt p.1 with
    | some (x, r, _, _) => x ≠ b || r.lvl ≠ .block
    | none => true }

/-- A shell's block reset ends the jobs that use it, suspended ones among them, with SHELL_RESET and clears its registers (R78,
R120). -/
def shellReset (n : Fin 4) (s : State) : State :=
  let lead := (run s n.val).lead.getD n.val
  let s := match (run s lead).job with
    | some j =>
      let (c, s) := openCycles j s
      let s := if s.rd (shState lead) = stHeld then condition (shBlk (heldShell s lead)) 0 false s else s
      endRunning j { noEnd 0x26 with elements := j.next, cycles := c } j.flags false s
    | none => s
  let used (j : Job) : Bool := j.shells.contains n.val
  let s := forAll (List.range 4) (fun m s =>
    let out := (run s m).stack.filter used
    if out.isEmpty then s
    else
      let s := onRun m (fun r => { r with stack := r.stack.filter (fun j => !used j) }) s
      forAll out (fun j s => endPooled j 0x26 s) (s.wr (shDepth m) (run s m).stack.length)) s
  hwSettle (resetBlockRegs (.vecShell n) (loseRegs n s))

/-- The banks of an array block are filled with zeros (R481). -/
def fillArray (k : Fin 16) (s : State) : State :=
  let inK (a : Nat) : Bool := inCourse a && (courseBank s a).1 / 64 == k.val
  { s with mem := s.mem.filter (fun p => !inK p.1), ecc := s.ecc.filter (fun p => !inK p.1)
           memx := { s.memx with detQ := s.memx.detQ.filter (fun p => p.1 / 64 ≠ k.val) } }

/-- A block returns to idle and its memories are filled (R481). -/
def blockIdle (b : Blk) (s : State) : State :=
  match b with
  | .crsArr k => fillArray k s
  | .crwArr => fillZero crewBase crewSize s
  | .crsScrub => { s with memx := { s.memx with demand0 := [] } }
  | .crwScrub => { s with memx := { s.memx with demand1 := [] } }
  | .crwCtl => forAll s.memx.ownNext (fun p s => s.wr (ownFld p.1 5 5) 0) { s with memx := { s.memx with ownNext := [] } }
  | .crwMarch => { s with memx := { s.memx with march := none } }
  | .movStk => stkWipe s
  | .movMvr => forAll (List.finRange 16) (fun e s => engineStops e
      (onEngine e (fun g => { g with cur := none, ended := none, failing := none, cancel := false, waiting := false }) s)) s
  | .vecSched => unreserveIdle (onVec (fun v => { v with due := [], qhold := [] })
      (forAll s.vec.pool (fun j s => unbindH (jClass (leadOf j.descs)) (unpool j.id s)) s))
  | .vecShell n => shellReset n s
  | .cox c => stopCore c s
  | .ingLink k => if lkEn s k then modLink k (fun _ => freshLink) (s.wr (lkState k) 1) else s
  | .netPort n => modPort n (fun x => { x with fwd := [], due := [] }) s
  | .netPair p => { s with io := { s.io with seen := s.io.seen.set p [] } }
  | .hstPcie => (s.wr (F .hstPcie 4 0 0) 0)
  | .hstDdr => { s.wr (F .hstDdr 4 0 0) 0 with host := { s.host with recal := false, retrain := false } }
  | .hstXspi => { s.wr (F .hstXspi 4 31 31) 0 with host := { s.host with xspi := none } }
  | .timReg => dropPreWake (fun _ => true) { s with tim := { s.tim with slots := [], runs := [] } }
  | .timPf => { s with tim := { s.tim with pf := s.tim.pf.map (fun x => { x with cand := none }) } }
  | _ => s

/-- A block reset begins, with its shadow (R481, R482); a PCIe link that was up is down (R487). -/
def blockResetStart (b : Blk) (s : State) : State :=
  let down := b == .hstPcie && pcieUp s
  let s := resetBlockRegs b (blockIdle b s)
  let s := onFlt (fun f => { f with resets := if f.resets.contains b then f.resets else f.resets ++ [b]
                                    shadows := if f.shadows.contains b then f.shadows else f.shadows ++ [b] }) s
  if down then condition .hstPcie 0 true s else s

/-- The block that an operand names. -/
def blkOf (b : BlkId) : Option Blk := blkAt b.subsys.toNat b.window.toNat

/-- Whether a reaction is a block reset of a block. -/
def Reaction.resets (b : Blk) (r : Reaction) : Bool := match r with | .blockReset src => src.blk = b | _ => false

/-- BLOCK_RESET: the reset that REACT 3 events of the block have called for is taken; those that come before it ends are absorbed by
it (R478, R481). -/
def takeBlockReset (b : Blk) (s : State) : State :=
  if s.flt.reactions.any (·.resets b) then
    let s := onFlt (fun f => { f with reactions := f.reactions.filter (fun r => !r.resets b) }) s
    if s.flt.resets.contains b then s else blockResetStart b s
  else s

/-- The reset ends; a core is released again from its start block (R454, R481). -/
def blockResetOver (b : Blk) (s : State) : State :=
  let s := onFlt (fun f => { f with resets := f.resets.filter (· ≠ b), ends := (b, s.elapsed) :: f.ends.filter (fun e => e.1 ≠ b) }) s
  match b with
  | .cox c => match s.cox.starts[c] with
    | some k => releaseCore c k (bcastFree c s)
    | none => bcastFree c s
  -- a shell whose reset has ended stands IDLE, or RESERVED for its windows (02, Registers)
  | .vecShell n => s.wr (shState n.val) (
      if s.stk.waits.any (fun w => match w.who with | .shell m _ => m = n | _ => false) then stRecordWait
      else if !(run s n.val).reserved.isEmpty then stReserved
      else if domState s (16 + n.val) = 3 then stOff else stIdle)
  | _ => s

/-- SHADOW_END: 64 fabric cycles after the reset ended (R482). -/
def shadowEnd (b : Blk) (s : State) : State :=
  if s.flt.resets.contains b then s else onFlt (fun f => { f with shadows := f.shadows.filter (· ≠ b) }) s

/-! ### Chip reset (R6, R406, R439, R514) -/

/-- A source as LASTRESET orders several: subsystem, block, bit (R485). -/
def srcOrder (x : Src) : Nat := x.blk.place.1 * 65536 + x.blk.place.2 * 256 + x.bit

/-- The life-cycle state that the fuse pairs give (R456). -/
def fuseState (fuses : Nat) : Nat :=
  if bit fuses 3 then lcEnd else if bit fuses 2 then lcReturn else if bit fuses 1 then lcField else if bit fuses 0 then lcDevelop
  else lcTest

/-- Draw a new NONCE (R459). -/
def newNonce (s : State) : State :=
  forAll (List.range 8) (fun i s =>
    let (k, s) := s.fresh
    s.wr (F32 .cusLc (0x020 + 4 * i)) (Config.nonceWord k).toNat) s

/-- DEVID is words 1 to 4 of the OTP items (R492 gives no map: notes/assumptions/6.md). -/
def otpItemWord (s : State) (item : Nat) : Nat :=
  s.cus.otp.foldl (fun a p => if Config.otpItem p.1 = item then a ||| p.2.toNat else a) 0

/-- The registers whose reset value OTP gives (16, Registers), read anew. -/
def otpRegs (s : State) : State :=
  let s := (s.wr (F .cusLc 0 2 0) (fuseState s.cus.fuses)).wr (F .cusAuth 8 6 0) s.cus.rollback
  forAll (List.range 4) (fun i s => s.wr (F32 .cusLc (0x010 + 4 * i)) (otpItemWord s (1 + i))) s

/-- A chip reset with its start cause and the source that LASTRESET records. What is kept: non-volatile stores, the
registers of higher levels, the levels of the balls, and what lies outside the device. -/
def chipReset (cause : Nat) (src : Option (Src × Nat)) (s : State) : State :=
  let r := State.reset
  let regs := s.regs.filter fun p => match regAt p.1 with
    | some (_, row, _, _) => row.lvl = .power || row.lvl = .launch
    | none => false
  let s' : State := { r with
    pending := s.pending, regs := regs, mem := s.mem, ecc := s.ecc, ddrErr := s.ddrErr, replies := s.replies, out := s.out
    elapsed := s.elapsed, freeCtr := s.freeCtr, ddrEpoch := s.ddrEpoch
    flash0 := s.flash0, flash1 := s.flash1, flashSize0 := s.flashSize0, flashSize1 := s.flashSize1
    tim := { r.tim with freqIn := s.tim.freqIn
                        pf := s.tim.pf.map (fun x => { r.tim.pf[0] with level := x.level, acc := x.level }) }
    host := { r.host with perst := s.host.perst }
    cox := { r.cox with irqIn := s.cox.irqIn }
    cus := { r.cus with fuses := s.cus.fuses, keyHash := s.cus.keyHash, rollback := s.cus.rollback, otp := s.cus.otp
                        pfail := s.cus.pfail, pfailAt := s.cus.pfailAt, cutN := s.cus.cutN, cutFrom := s.cus.cutFrom, wp := s.cus.wp, oldBlk := s.cus.oldBlk
                        seq := s.cus.seq }
    pow := { r.pow with pfail := s.pow.pfail, hup := s.pow.hup, pulled := s.pow.pulled, testmode := s.pow.testmode, crystal := s.pow.crystal, aged := s.pow.aged
                        railEn := s.pow.railEn, railGood := s.pow.railGood, launch := some cause
                        -- step 1 that has failed twice stays stopped until PORST_N is asserted (R512)
                        stopped := s.pow.stopped && s.pow.railGood != 15, railRetry := s.pow.railRetry }
    dbg := s.dbg }
  -- the ball's condition goes on (R480)
  let s' := if s.pow.pfail then (otpRegs s').orBit (fLive .pwrGov) 4 else otpRegs s'
  match src with
  | some (x, k) => s'.wr (F32 .pwrFlt 0x010) (srcWord x k)
  | none => s'

/-- CHIP_RESET: the chip reset that REACT 4 events have called for; of those of the first event's cycle the lowest source is recorded
(R478, R485). -/
def takeChipReset (s : State) : State :=
  let l := s.flt.reactions.filterMap fun r => match r with | .chipReset x k t => some (x, k, t) | _ => none
  match l with
  | [] => s
  | p :: t =>
    let m := (t.filter (fun b => b.2.2 = p.2.2)).foldl (fun a b => if srcOrder b.1 < srcOrder a.1 then b else a) p
    chipReset m.2.1 (some (m.1, m.2.1)) s

/-- PORST_ASSERT (R514): the rail enables go low. -/
def porstAssert (s : State) : State :=
  -- the power cut, if it was one, is over: what the vault has written of it stands (R474, R475)
  let s := chipReset 0 none { s with cus := { s.cus with pfail := false }, pow := { s.pow with pfail := false } }
  onPow (fun p => { p with porst := true, railEn := 0, railGood := 0, stopped := false, railRetry := false }) s

/-! ### Meanings -/

/-- BLOCK_RESET (R481). -/
def execBlockReset (b : BlkId) (s : State) : Answer :=
  match blkOf b with
  | some b => .next (takeBlockReset b s)
  | none => .next s
/-- SHADOW_END (R482). -/
def execShadowEnd (b : BlkId) (s : State) : Answer :=
  match blkOf b with
  | some b => .next (shadowEnd b s)
  | none => .next s
/-- CHIP_RESET (R406). -/
def execChipReset (s : State) : Answer := .next (takeChipReset s)
/-- PORST_ASSERT (R514). -/
def execPorstAssert (s : State) : Answer := .next (porstAssert s)

end Sys2Proof.Machine
end

