-- ==== Sys2Proof/Machine/Irq.lean ====
section
/-!
DEFINITION. The interrupt sources of the Cox cores as COX_COREn_IRQ_PEND shows them (08, R277, R278; 17, R479).
-/
namespace Sys2Proof.Machine

/-- The levels at which a ring is pending for a core: bit k - 1 for level k (R187, R277). -/
def ringPend (s : State) (c : CoxId) : Nat :=
  let lo := (Blk.movStk).base + 0x1000 + 0x400 * c.val
  (s.regs.filter (fun p => lo ≤ p.1 && p.1 < lo + 0x400)).foldl (fun m p =>
    (bitsOf p.2.toNat 32).foldl (fun m b =>
      let lev := s.rd (ringFld ((p.1 - lo) / 4 * 32 + b) 0xC 3 2)
      if lev = 0 then m else m ||| 2 ^ (lev - 1)) m) 0

/-- The lowest ring pending for a core, MOV_STK_PFIRSTc (05, Registers). -/
def ringFirst (s : State) (c : CoxId) : Option Nat :=
  let lo := (Blk.movStk).base + 0x1000 + 0x400 * c.val
  (s.regs.filter (fun p => lo ≤ p.1 && p.1 < lo + 0x400)).findSome? fun p =>
    ((bitsOf p.2.toNat 32).head?).map fun b => (p.1 - lo) / 4 * 32 + b

/-- A failed bank is routed to a core: to the Cox that owns it, else to that of RETFAIL_ROUTE (R158). -/
def retfailFor (s : State) (c : CoxId) : Bool :=
  let v := s.reg ((Blk.crwCtl).base + 0x110)
  (bitsOf v 64).any fun n =>
    let o := s.rd (ownFld n 3 0)
    (if o < 4 then o else s.rd (F .crwCtl 0x104 1 0)) == c.val

/-- A set FAULT_STATUS bit of a block has a REACT and is routed to a core (R479). -/
def faultFrom (s : State) (c : CoxId) (react_ : Nat) (b : Blk) : Bool :=
  let st := s.reg (faultReg b 0)
  st != 0 && bit (s.reg (faultReg b 0x14)) c.val && (bitsOf st 32).any (fun j => reactOf s ⟨b, j⟩ == react_)

def faultFor (s : State) (c : CoxId) (react_ : Nat) : Bool := allBlks.any (faultFrom s c react_)

/-- IRQIN: the latched edges of inputs in edge mode, the levels of the others (R277, R278). -/
def irqInPend (s : State) (c : CoxId) : Nat :=
  let mode := s.reg ((Blk.cox c).base + 0x210)
  let lev := s.cox.irqIn ^^^ bits mode 15 8
  let edge := bits mode 7 0
  (s.rd (F (.cox c) 0x208 15 8) &&& edge) ||| (lev &&& (0xFF - edge))

/-- COX_COREn_IRQ_PEND (08, Registers). -/
def irqPend (s : State) (c : CoxId) : Nat :=
  bnat (faultFor s c 2) * 2 ^ 16 + irqInPend s c * 2 ^ 8 + s.rd (F (.cox c) 0x208 7 7) * 2 ^ 7
  + bnat (faultFor s c 1) * 2 ^ 6 + bnat (retfailFor s c) * 2 ^ 5 + s.rd (F (.cox c) 0x110 31 31) * 2 ^ 4
  + bnat (!(core s c).inbox.isEmpty) * 2 ^ 3 + ringPend s c

/-- The highest level at which an interrupt is asserted for a core; 0 for none (R277, R278). -/
def irqLevel (s : State) (c : CoxId) : Nat :=
  let p := irqPend s c
  let lv := s.reg ((Blk.cox c).base + 0x20C)
  let at_ (on : Bool) (l : Nat) : Nat := if on then l else 0
  let ring := if bit p 2 then 3 else if bit p 1 then 2 else bnat (bit p 0)
  let l := [ring, at_ (bit p 3) ((core s c).mailLev % 4), at_ (bit p 4) (s.rd (F (.cox c) 0x100 9 8)), at_ (bit p 5) (bits lv 1 0),
    at_ (bit p 6) (bits lv 3 2), at_ (bit p 7) (bits lv 5 4)]
    ++ (List.range 8).map (fun j => at_ (bit p (8 + j)) (bits lv (7 + 2 * j) (6 + 2 * j)))
  l.foldl Nat.max 0

/-- An NMI is pending for a core. -/
def nmiPend (s : State) (c : CoxId) : Bool := faultFor s c 2

/-- IRQ_INj takes a level; its asserting edge is latched where the input is in edge mode (R278). -/
def irqInput (j : Fin 8) (level : Bool) (s : State) : State :=
  let was := bit s.cox.irqIn j.val
  let s := { s with cox := { s.cox with irqIn := setBit s.cox.irqIn j.val level } }
  if was = level then s
  else forAll (List.finRange 4) (fun c s =>
    let mode := s.reg ((Blk.cox c).base + 0x210)
    let asserts := level != bit mode (8 + j.val)
    if asserts ∧ bit mode j.val then s.wr (F (.cox c) 0x208 (8 + j.val) (8 + j.val)) 1 else s) s

/-- IRQ_INPUT (R278). -/
def execIrqInput (j : Fin 8) (level : Bool) (s : State) : Answer := .next (irqInput j level s)

end Sys2Proof.Machine
end

