-- ==== Sys2Proof/Machine/Lifecycle.lean ====
section
/-!
DEFINITION. Life-cycle transitions, the RETURN token and OTP programming (16, R456 to R462; 17, R492).
-/
namespace Sys2Proof.Machine

/-- Bytes of the header of a slot in the boot flash (R444): slot 0 A, slot 1 B. -/
def slotBytes (s : State) (slot off n : Nat) : List Byte := flashBytes s 0 (slot * 0x4000000 + off) n

/-- Whether an ECDSA P-384 signature r, s over a message verifies with a PUBKEY of 96 bytes (R442, R459). -/
def sigOk (pubkey msg sig : List Byte) : Bool :=
  ecdsaVerify (sha384 msg) (beNat (pubkey.take 48)) (beNat (pubkey.drop 48)) (beNat (sig.take 48)) (beNat (sig.drop 48))

/-- The slot that runs, PWR_LCH_STATUS.SLOT (15, Registers). -/
def runningSlot (s : State) : Nat := s.rd (F .pwrLch 0 1 0)

/-- The bytes that a RETURN token signs (R459): DEVID, NONCE, 0x03. -/
def tokenMsg (s : State) : List Byte :=
  (List.range 12).flatMap (fun i => leBytes 4 (s.rd (F32 .cusLc (0x010 + 4 * i)))) ++ [0x03]

/-- The token that CUS_LC_TOKEN's region holds: state after its read, and the 96 bytes. -/
def readToken (s : State) : State × Option (List Byte) :=
  match regionAt s (s.rd (F32 .cusLc 8)) with
  | .error _ => (s, none)
  | .ok r =>
    if r.len < 96 ∨ !r.rd then (s, none)
    else
      let g := memRead 14 accRead r.base 96 s
      (g.st, if g.code = 0 then some g.data else none)

/-- Whether a token verifies with the image key whose hash is in OTP: the PUBKEY of the slot that runs (R459). -/
def tokenOk (s : State) (sig : List Byte) : Bool :=
  let pk := slotBytes s (runningSlot s) 0x0A0 96
  decide (runningSlot s < 2) && sha384 pk == s.cus.keyHash && sigOk pk (tokenMsg s) sig

/-- Transitions of R458, their token apart. -/
def lcAllowed (from_ dest : Nat) : Bool :=
  (from_ == lcTest && (dest == lcDevelop || dest == lcField)) || (from_ == lcDevelop && dest == lcField)
  || (from_ == lcField && dest == lcReturn) || (decide (from_ < lcEnd) && dest == lcEnd)

/-- CUS_LC_STAT.RESULT. -/
def lcResult (v : Nat) (s : State) : State := s.wr (F .cusLc 0xC 2 0) v

/-- The wipe of memory that a transition makes at its chip reset (R457). -/
def wipeOnChip (s : State) : State :=
  let keep (a : Nat) : Bool := !inCourse a && !inCrew a
  { s with mem := s.mem.filter (fun p => keep p.1), ecc := s.ecc.filter (fun p => keep p.1) }

/-- The transition is made: fuses, read-back, chip reset with CAUSE 4 (R457). -/
def lcMake (target : Nat) (verified : Bool) (s : State) : State :=
  if verified then
    wipeOnChip (chipReset 4 none (onCus (fun c => { c with fuses := setBit c.fuses (target - 1) true }) s))
  else report .cusLc 0 (lcResult 5 s)

/-- A write of CUS_LC TARGET (R457 to R459). -/
def lifecycleRequest (target : Nat) (verified : Bool) (s : State) : State :=
  if s.rd (F .cusLc 0xC 31 31) = 1 then lcResult 4 s
  else if !lcAllowed s.lc target then lcResult 1 s
  else if s.cus.pfail then lcResult 3 s
  else if s.lc = lcField ∧ target = lcReturn then
    let (s, sig) := readToken s
    if sig.any (tokenOk s) then lcMake target verified s else newNonce (lcResult 2 s)
  else lcMake target verified s

/-- OTPPROG (R492): OTP bits are only ever set; the items they belong to are read at the next Launch. -/
def otpProgram (word v : Nat) (s : State) : State :=
  onCus (fun c => { c with otp := nput word (BitVec.ofNat 32 (v ||| (ngetD c.otp word 0).toNat)) c.otp }) s

/-- Step 3 of Launch: the OTP items that OTPPROG has programmed are read (R439, R456, R462, R463). -/
def otpRead (s : State) : State :=
  let w (i : Nat) : Nat := otpItemWord s i
  let hash := (List.range 12).flatMap (fun i => leBytes 4 (w (5 + i)))
  let roll := popCount (w 17) + popCount (w 18)
  otpRegs (onCus (fun c => { c with
    keyHash := (c.keyHash.zip hash).map (fun p => p.1 ||| p.2)
    rollback := min 64 (max c.rollback roll)
    fuses := c.fuses ||| (w 19 % 16) }) s)

/-- LIFECYCLE_REQUEST (R457, R458). -/
def execLifecycleRequest (_m : Master) (target : BitVec 3) (o : OtpOutcome) (s : State) : Answer :=
  .next (lifecycleRequest target.toNat o.verified s)

end Sys2Proof.Machine
end

