-- ==== Sys2Proof/Machine/Erg.lean ====
section
/-!
DEFINITION. Erg runs: their start on request, the end of a group and its record (17, R493 to R496).
-/
namespace Sys2Proof.Machine

def ergF (hi lo : Nat) : Fld := F .pwrErg 8 hi lo

/-- Stated coverage of a group in 0.01 % (R493). -/
def ergCoverage (g : Nat) : Nat := [9700, 9650].getD g 10000

/-- An ERG record's payload (R496). -/
def ergRecord (s : State) (g result : Nat) (run : ErgRun) (r : ErgOutcome) : List Byte :=
  leBytes 4 (2 ^ 24 + g * 2 ^ 16 + result) ++ leBytes 4 r.durationUs.toNat
  ++ leBytes 4 (r.tested.toNat * 2 ^ 24 + min r.fails.length 255 * 2 ^ 16 + ergCoverage g)
  ++ leBytes 4 (s.lc * 2 ^ 20 + bnat run.onReq * 2 ^ 16 + curOp s) ++ leBytes 8 (run.ticks % 2 ^ 48) ++ leBytes 8 0
  ++ (r.fails.take 16).flatMap (fun f => leBytes 8 (f.1.toNat * 2 ^ 56 + f.2.toNat))

/-- The Crew groups that are not retained hold zeros after the destructive test (R493). -/
def ergCrew (s : State) : State :=
  forAll ((List.range 64).filter (fun b => !(retainedBanks s).contains b)) (fun b s => fillWrite (crewBase + b * 65536) 65536 s) s

/-- A tested block at the end of its group: block reset, or idle and unchanged where its memories were preserved (R494). -/
def ergRestore (onReq : Bool) (b : Blk) (s : State) : State :=
  if onReq then blockResetStart b s
  else match b with
    | .movStk | .timReg => s
    | .crwArr => if retainedBanks s = [] then blockResetStart b s else ergCrew s
    | _ => blockResetStart b s

/-- The blocks under test are so no longer. -/
def ergIsolationEnds (onReq : Bool) (s : State) : State :=
  let bs := s.flt.underTest
  forAll bs (ergRestore onReq) (onFlt (fun f => { f with underTest := [] }) s)

/-- The run ends (R495). -/
def ergEnds (s : State) : State :=
  let s := ((s.wr (ergF 31 31) 0).wr (ergF 26 24) 0).wr (ergF 19 17) 7
  onPow (fun p => { p with erg := none, ergDone := p.ergDone || p.erg.any (fun r => !r.onReq) }) s

/-- The next group starts, or is passed over. -/
def ergNext (rest : List Nat) (run : ErgRun) (s : State) : State :=
  let s := onPow (fun p => { p with erg := some { run with left := rest } }) s
  match rest with
  | [] => ergEnds s
  | g :: _ => if run.runs.contains g then ergGroupStart g s else s.wr (ergF 19 17) 7

/-- The result of a group: PASS, FAIL, PARTIAL or SKIPPED (R496). -/
def ergResult (ran : Bool) (r : ErgOutcome) : Nat :=
  if !ran then 3 else if !r.fails.isEmpty then 1 else if r.skipped then 2 else 0

/-- An outcome with nothing in it, of a group that did not run. -/
def ergNothing : ErgOutcome := ⟨0, true, 0, []⟩

/-- ERG_GROUP_DONE (R494, R496). -/
def ergGroupDone (r : ErgOutcome) (s : State) : State :=
  match s.pow.erg with
  | none => s
  | some run => match run.left with
    | [] => s
    | g :: rest =>
      let ran := run.runs.contains g
      let r := if ran then r else ergNothing
      let res := ergResult ran r
      let s := if ran then ergIsolationEnds run.onReq s else s
      let s := deviceRecord 2 g (ergRecord s g res run r) s
      let s := if res = 1 then report .pwrErg 0 (s.orBit (ergF 5 0) g) else s
      ergNext rest run s

/-- PFAIL_N stops the group that runs, without a record, and the runs not yet begun (R408, R496). -/
def ergAbandon (s : State) : State :=
  match s.pow.erg with
  | none => s
  | some run => ergEnds (ergIsolationEnds run.onReq s)

/-! ### PFAIL_N (R408, R433, R474, R514, R515) -/

/-- The device takes PFAIL_N as asserted, or as negated. -/
def pfailOn (s : State) : State :=
  dvfsPlan (ergAbandon (condition .pwrGov 4 true (vaultPfail (onPow (fun p => { p with pfail := true }) s))))
def pfailOff (s : State) : State := dvfsPlan (condition .pwrGov 4 false (vaultPfailEnd (onPow (fun p => { p with pfail := false }) s)))

/-- The device acts on the level of the ball, which is low by either cause (R515), but not while PORST_N is asserted: what changes
then is found when PORST_N negates (R514; notes/assumptions/69.md). -/
def pfailLevel (s : State) : State :=
  let low := s.pow.hup || s.pow.pulled
  if s.pow.porst || low = s.pow.pfail then s else if low then pfailOn s else pfailOff s

/-- Erg runs on request are allowed (R461, R495). -/
def ergAllowed (s : State) : Bool :=
  (s.lc == lcTest || s.lc == lcDevelop || s.lc == lcReturn) && s.mode != modeLaunch && s.mode != modeBoathouse

/-- A write of PWR_ERG_CMD.START, or ERGSTART (R495). -/
def ergStart (groups : Nat) (s : State) : State :=
  if s.rd (ergF 31 31) = 1 then s.wr (ergF 26 24) 2
  else if !ergAllowed s then s.wr (ergF 26 24) 1
  else match bitsOf groups 6 with
    | [] => s.wr (ergF 26 24) 0
    | g :: l =>
      let s := onPow (fun p => { p with erg := some ⟨g :: l, g :: l, true, 0⟩ }) s
      ergGroupStart g ((((s.wr (ergF 31 31) 1).wr (ergF 26 24) 0).wr (ergF 5 0) 0))

/-- PFAIL_ASSERT (R474): the supervisor pulls the ball low. -/
def execPfailAssert (s : State) : Answer := .next (pfailLevel (onPow (fun p => { p with pulled := true }) s))
/-- PFAIL_NEGATE (R474): the ball goes high, as neither the device nor the supervisor pulls it. -/
def execPfailNegate (s : State) : Answer := .next (pfailLevel (onPow (fun p => { p with hup := false, pulled := false }) s))
/-- HUP_SENSE_FALL (R515): the device pulls PFAIL_N low. -/
def execHupSenseFall (s : State) : Answer := .next (pfailLevel (onPow (fun p => { p with hup := true }) s))
/-- ERG_START (R495). -/
def execErgStart (_m : Master) (v : W32) (s : State) : Answer := .next (ergStart (bits v.toNat 5 0) s)
/-- ERG_GROUP_DONE (R496). -/
def execErgGroupDone (result : ErgOutcome) (s : State) : Answer := .next (ergGroupDone result s)

end Sys2Proof.Machine
end

