-- ==== Sys2Proof/Machine/RegBus.lean ====
section
/-!
DEFINITION. Register space as the bus reaches it (00, R5 to R12): what a read returns, what a write does, the halves
of 64-bit registers, and the vault mirror (16, R469).
-/
namespace Sys2Proof.Machine

/-! ### Reads -/

/-- A FAULT_STATUS bit whose UMP bit is set is set in a block (R488). -/
def umpSet (s : State) : Bool := allBlks.any fun b => s.reg (faultReg b 0) &&& s.reg (faultReg b 0xC) != 0

/-- The WAKEFAIL_VREG condition (R413): from the failed wake until a wake or a Launch completes. -/
def vregFailed (s : State) : Bool := (s.mode == modeBoathouse || s.mode == modeLaunch) && s.rd (F .pwrAon 4 25 25) == 1

/-- PWR_FLT_UMP_STAT.CAUSE (R488; 17, Registers). -/
def umpCause (s : State) : Nat :=
  bnat (s.mode == modeLaunch) * 2 ^ 31 + bnat (s.mode == modeHoldWater) * 2 ^ 30 + bnat (vregFailed s) * 2 ^ 29
  + s.rd (F .pwrFlt 0 2 2) * 2 ^ 28 + bnat (umpSet s) * 2 ^ 27 + bnat s.flt.mismatch * 2 ^ 26

/-- Valid and locked entries of a TLB, COX_COREn_TLB_STAT (09, Registers). -/
def tlbStat (s : State) (c : CoxId) : Nat :=
  let k := core s c
  bnat (!k.walks.isEmpty) * 2 ^ 25 + k.tlb.length * 2 ^ 16 + (k.tlb.filter (fun p => p.2.lock)).length

/-- The value that a register shows (R5): stored bits, and the fields that follow other state. -/
def regValue (m : Master) (b : Blk) (o a : Nat) (s : State) : Nat :=
  let v := s.reg a
  match b with
  | .pwrFlt => if o = 0 then putBits v 0 0 (bnat s.flt.pairFault) else if o = 4 then umpCause s else v
  | .timTb =>
    if o = 4 then bits s.tim.now[m] 63 32 else if o = 8 then bits s.tim.now[m] 95 64
    else if o = 0x030 then wrap 64 (s.tim.slew / 2 ^ 32) else v
  | .cox c =>
    if o = 0x208 then irqPend s c else if o = 0x310 then tlbStat s c
    else if o = 0xF020 then putBits v 6 4 (s.rd (F (.cox c) 0x204 2 0)) else v
  | .vecSched =>
    if o = 0x084 then (s.vec.pool.filter (fun j => j.slot.isSome)).length * 2 ^ 16 + s.vec.pool.length else v
  | .movStk =>
    if o = 0x010 then freeRings s * 2 ^ 16 + freeEntries s
    else if 0x040 ≤ o ∧ o < 0x050 then
      match ringFirst s (Fin.ofNat 4 ((o - 0x040) / 4)) with
      | some r => 2 ^ 31 + r
      | none => 0
    else v
  | .movRing k =>
    let r := 2048 * k.val + o / 32
    if o % 32 = 0x1C ∧ ringLive s r then putBits v 3 3 (bnat (decide (hwmBytes s r ≤ occupancy s r))) else v
  | .cusVlt =>
    if o = 4 then putBits v 10 8 s.cus.queue.length else if o = 0xC then holdupNow s
    else if o = 0x01C then putBits v 15 0 (jFree s / 64) else v
  | _ => v

/-- A read of a whole register with what the read itself does (R338, R361). -/
def regTake (m : Master) (b : Blk) (o a : Nat) (s : State) : State × Nat :=
  match b with
  | .timTb => if o = 0 then tbCapture m.val s else (s, regValue m b o a s)
  | .timReg => if 0x800 ≤ o ∧ o < 0x810 then irqqPop (Fin.ofNat 4 ((o - 0x800) / 4)) s else (s, regValue m b o a s)
  | _ => (s, regValue m b o a s)

/-! ### Writes -/

/-- Two addresses of a Course group change places when its hash bit changes (R123, R124). -/
def rehashAddr (a : Nat) : Nat :=
  let idx := a / 8 / 1024
  (idx * 1024 + (a / 8 % 1024 ^^^ (idx % 1024))) * 8 + a % 8

/-- The contents of a group stay in their banks when its hash bit changes, so they move among the addresses (R124). -/
def rehash (g : Nat) (s : State) : State :=
  let inG (a : Nat) : Bool := a / 2 ^ 20 == g && inCourse a
  let cells := s.mem.filter (fun p => inG p.1)
  let pats := s.ecc.filter (fun p => inG p.1)
  { s with mem := cells.foldl (fun l p => nput (rehashAddr p.1) p.2 l) (ndelRange (g * 2 ^ 20) (2 ^ 20) s.mem)
           ecc := pats.foldl (fun l p => nput (rehashAddr p.1) p.2 l) (ndelRange (g * 2 ^ 20) (2 ^ 20) s.ecc)
           memx := { s.memx with detQ := s.memx.detQ.map fun q =>
             (q.1, q.2.map fun e => (if inG e.1 then rehashAddr e.1 else e.1, e.2)) } }

/-- A write of CRS_CTL_HASH (R123, R124). -/
def hashWrite (a mask v : Nat) (s : State) : State :=
  let old := s.reg a
  let s := plainWrite a mask v s
  forAll (bitsOf (old ^^^ s.reg a) 64) rehash s

/-- A write of a register of a fault set (R477 to R480, R488). -/
def faultWrite (b : Blk) (a o v : Nat) (s : State) : State :=
  if o = 0 then
    let s := plainWrite a (2 ^ 32 - 1 - s.reg (faultReg b 4)) v s
    -- a bit cleared within NMI_WAIT escalates nothing (R486)
    onFlt (fun f => { f with nmi := f.nmi.filter (fun w => w.src.blk ≠ b || s.rdBit (fStatus b) w.src.bit) }) s
  else
    let s := plainWrite a (2 ^ 32 - 1) v s
    if o = 0xC ∧ s.reg (faultReg b 0) &&& s.reg (faultReg b 0xC) ≠ 0 then driveFault s else s

/-- Clear a field together with a W1C bit that a write clears. -/
def clearsWith (f : Fld) (i v : Nat) (s : State) : State := if bit v i then s.wr f 0 else s

/-- A physical outcome that a plain register write leaves open: a free truth value. -/
def freeBool (s : State) : Bool × State :=
  let (k, s) := s.fresh
  ((Config.openWord k).getLsbD 0, s)

/-- A write of a register of PWR (14, 17). -/
def pwrWrite (m : Master) (b : Blk) (o a mask v : Nat) (s : State) : State :=
  let plain := plainWrite a mask v s
  match b with
  | .pwrCtl =>
    if o = 0 then modeRequest m (bits v 6 4) s
    else if o = 4 then (if s.mode = modeHoldWater then dvfsPlan (applyCap plain) else plain)
    else if o = 0xC then (if s.mode = modeEasyAll then dvfsPlan plain else plain)
    else plain
  | .pwrAon =>
    if o = 0x060 then
      if bit v 0 then (let (ok, s) := freeBool s; refRetry ok s) else s
    else plain
  | .pwrDom =>
    if o = 0x800 then plain
    else if o % 16 = 0 then domCtlWrite (o / 16) v s
    else if o % 16 = 4 then threshWrite (o / 16) 4 (some (bits v 15 0)) (some (bits v 31 16)) none s
    else if o % 16 = 8 then threshWrite (o / 16) 8 none none (some v) s
    else s
  | .pwrDvfs => if o = 0 then dvfsRequest v s else if o = 0x040 then dvfsPlan plain else plain
  | .pwrFlt =>
    if o = 0 then
      let toggled := s.rd (F .pwrFlt 0 1 1) = 0 ∧ plain.rd (F .pwrFlt 0 1 1) = 1
      let s := if toggled then onFlt (fun f => { f with phase := false }) plain else plain
      if s.rd (F .pwrFlt 0 2 2) = 1 then driveFault s else s
    else plain
  | .pwrErg => if o = 4 then ergStart (bits v 5 0) s else plain
  | _ => plain

/-- A write of a register of CUS (16). -/
def cusWrite (b : Blk) (o a mask v : Nat) (s : State) : State :=
  let plain := plainWrite a mask v s
  match b with
  | .cusLc => if o = 4 then (let (ok, s) := freeBool s; lifecycleRequest (bits v 2 0) ok s) else plain
  | .cusAuth =>
    if o = 0 then match bits v 1 0 with
      | 1 => let (ok, s) := freeBool s; advanceRollback ok s
      | 2 => preferSlot false s
      | 3 => preferSlot true s
      | _ => s
    else plain
  | .cusVlt => if o = 0 then commitRequest v s else if o = 8 then vaultBlocksWrite s plain else plain
  | _ => plain

/-- A write of a register of TIM (11). -/
def timWrite (b : Blk) (o a mask v : Nat) (s : State) : State :=
  let plain := plainWrite a mask v s
  match b with
  | .timTb =>
    if o = 0x030 then
      let old := wrap 64 (s.tim.slew / 2 ^ 32)
      slewWrite ((old &&& (2 ^ 64 - 1 - mask)) ||| (v &&& mask)) s
    else if o = 0x040 then
      let s := freqOk plain
      match bits v 3 2 with
      | 1 => tbSet s
      | 2 => tbStep s
      | _ => s
    else plain
  | .timPf => if 0x100 ≤ o ∧ o < 0x300 ∧ o % 16 = 4 then bindReg .timPf o (· != 0) v s else plain
  | .timTrip =>
    if o % 32 = 0x18 then
      let n := Fin.ofNat 16 (o / 32)
      match bits v 1 0 with
      | 1 => tripCmdArm n (bit v 2) s
      | 2 => tripCmdCancel n s
      | _ => s
    else plain
  | .timReg =>
    if o = 4 then match bits v 1 0 with
      | 1 => slotRead s
      | 2 => slotWrite s
      | _ => s
    else plain
  | _ => plain

/-- A write of a register of COX or VEC (07, 08, 02). -/
def coreWrite (b : Blk) (o a mask v : Nat) (s : State) : State :=
  let plain := plainWrite a mask v s
  match b with
  | .cox c =>
    if o = 0x110 then clearsWith (F (.cox c) 0x110 23 16) 31 v plain
    else if o = 0x118 then clearsWith (F (.cox c) 0x118 15 0) 31 v plain
    else if o = 0x208 then
      plainWrite a mask (putBits v 15 8 (bits v 15 8 &&& bits (s.reg ((Blk.cox c).base + 0x210)) 7 0)) s
    else plain
  | .vecSched =>
    if o < 0x040 then queueBind (Fin.ofNat 16 (o / 4)) v s
    else if o = 0x080 then cancelJobs (fun j => jClass (leadOf j.descs) == v) s
    else if 0x0C0 ≤ o ∧ o < 0x100 then bindReg .vecSched o (fun _ => true) v s
    else plain
  | .vecShell n =>
    if o = 8 then
      if bit v 1 then workSettles (discardDrain n.val s) else if bit v 0 then retryDrain n.val s else s
    else plain
  | _ => plain

/-- A write of a register of XBR, CRS, CRW or HST (13, 04). A CMD in the write that sets SPLIT is given while SPLIT is set: a
DESIGN CHOICE, since R153 does not say (notes/assumptions/67.md). -/
def memWriteReg (b : Blk) (o a mask v : Nat) (s : State) : State :=
  let plain := plainWrite a mask v s
  let ctl (crew : Bool) : State :=
    if o = 0x218 then clearsWith (F b 0x218 7 0) 31 v plain
    else if o = 0x254 ∧ bits v 1 0 ≠ 0 then testCmd crew (bits v 1 0) plain
    else plain
  match b with
  | .xbrCtl => if o = 0x050 then clearsWith (F .xbrCtl 0x050 15 8) 31 v plain else plain
  | .crsCtl => if o = 0 then hashWrite a mask v s else ctl false
  | .crwCtl =>
    if o < 0x100 then ownerWrite (o / 4) v s
    else if o = 0x288 then clearsWith (F .crwCtl 0x288 23 16) 31 v plain
    else ctl true
  | .crwMarch => if o = 8 then marchCtl v s else plain
  | .hstDdr => if o = 0x218 then clearsWith (F .hstDdr 0x218 7 0) 31 v plain else plain
  | .hstPcie =>
    if o = 0x018 then hostMessage v s
    else if 0x4000 ≤ o ∧ o < 0xC000 ∧ o % 16 = 0xC then
      if bit v 0 then plain else msixUnmask ((o - 0x4000) / 16) s
    else plain
  | .hstXspi => if o = 4 then xspiCommand v s else plain
  | _ => plain

/-- A write of a register of MOV, ING or NET (05, 12). -/
def moveWrite (b : Blk) (o a mask v : Nat) (s : State) : State :=
  let plain := plainWrite a mask v s
  match b with
  | .movStk => if o = 0 then stkCmdWrite v s else plain
  | .movRing k =>
    let r := 2048 * k.val + o / 32
    if o % 32 = 0x10 then prodWrite r v s
    else if o % 32 = 0x14 then consWrite r v s
    else if o % 32 = 0xC ∧ s.rd (ringFld r 0xC 31 30) = 2 then ringConfigErr r 0xC (plainWrite a (2 ^ 30 - 1) v s)
    else plain
  | .movMvr =>
    if o = 4 then match bits v 3 0 with
      | 1 => onChannel channelEnable s
      | 2 => onChannel channelDisable s
      | 3 => onChannel channelResume s
      | 4 => onChannel channelSkip s
      | 5 => onChannel channelCancel s
      | 0 => s
      | _ => configErr .movMvr 4 s
    else plain
  | .ingLink k => if o = 0 then linkCfg k v s else if o = 0xC then bindReg b 0xC (· != 0) v s else plain
  | .netPort _ =>
    if o = 4 ∨ o = 0x10 then bindReg b o (· != 0) v s
    else if o = 8 ∨ o = 0xC then bindReg b o (fun _ => true) v s
    else plain
  | _ => plain

/-- A write of the bits of a mask of the register at an offset of a block, with all it does. -/
def regGive (m : Master) (b : Blk) (o a mask v : Nat) (s : State) : State :=
  if 0xF000 ≤ o ∧ faultHome b = b then
    let fb := errBlk b o
    faultWrite fb a (o - faultOff fb) v s
  else match b.place.1 with
    | 0 => pwrWrite m b o a mask v s
    | 1 => cusWrite b o a mask v s
    | 2 => timWrite b o a mask v s
    | 4 | 5 => coreWrite b o a mask v s
    | 3 | 6 | 7 | 11 => memWriteReg b o a mask v s
    | _ => moveWrite b o a mask v s

/-! ### Accesses (R9 to R11) -/

/-- The vault mirror's window (R469). -/
def inMirror (a : Nat) : Bool := 0x11100000 ≤ a && a < 0x11140000

/-- Register space, and the block whose window an address lies in (R4, R9). -/
def inRegs (a : Nat) : Bool := 0x10000000 ≤ a && a < 0x1C000000
def regBlk (a : Nat) : Option Blk := blkAt (a / 0x1000000 % 256 - 16) (a / 0x10000 % 256)

/-- A byte of the mirror: beyond a key's payload, 0 (R469). -/
def mirrorByte (s : State) (a : Nat) : Byte :=
  (ngetD s.cus.mirror ((a - 0x11100000) / 0x1000) []).getD (a % 0x1000) 0

/-- The captured high half of a master, taken from a list of halves. -/
def halfOf (m : Master) (a : Nat) (l : List (Nat × Nat × Nat)) : Option Nat :=
  (l.find? (fun h => h.1 = m.val ∧ h.2.1 = a)).map (fun h => h.2.2)
/-- The list without a master's half of a register. -/
def dropHalf (m : Master) (a : Nat) (l : List (Nat × Nat × Nat)) : List (Nat × Nat × Nat) :=
  l.filter (fun h => ¬ (h.1 = m.val ∧ h.2.1 = a))

/-- A register-space read of n bytes: state, response, value. -/
def regRead (m : Master) (a n : Nat) (s : State) : State × Nat × Nat :=
  if !sizeOk a n then (s, rTarget, 0)
  else if inMirror a then
    if s.cus.mirrorBad.contains ((a - 0x11100000) / 8) then (report .cusVlt 1 s, rUe, 0)
    else (s, rOkay, leNat ((List.range n).map (fun i => mirrorByte s (a + i))))
  else match regBlk a with
    | none => let (s, c) := decodeError m.val false a s; (s, c, 0)
    | some _ => match regAt a with
      | none => if n = 8 ∧ (regAt (a + 4)).isSome then (s, rTarget, 0) else (s, rOkay, 0)
      | some (b, row, ra, _) =>
        let o := ra % 0x10000
        if n = 8 then
          if row.wide then (let (s, v) := regTake m b o ra s; (s, rOkay, v)) else (s, rTarget, 0)
        else if !row.wide then (let (s, v) := regTake m b o ra s; (s, rOkay, v))
        else if a = ra then
          let (s, v) := regTake m b o ra s
          ({ s with halfRead := (m.val, ra, v / 2 ^ 32) :: dropHalf m ra s.halfRead }, rOkay, v % 2 ^ 32)
        else match halfOf m ra s.halfRead with
          | some h => ({ s with halfRead := dropHalf m ra s.halfRead }, rOkay, h)
          | none => (s, rOkay, regValue m b o ra s / 2 ^ 32)

/-- A register-space write of n bytes: state and response. A held low half stays until its master writes the high half
(R11); that a whole 64-bit write and a block reset leave it held is a DESIGN CHOICE (notes/assumptions/16.md). -/
def regWrite (m : Master) (a n v : Nat) (s : State) : State × Nat :=
  if !sizeOk a n then (s, rTarget)
  else if inMirror a then (s, rOkay)
  else match regBlk a with
    | none => decodeError m.val true a s
    | some _ => match regAt a with
      | none => if n = 8 ∧ (regAt (a + 4)).isSome then (s, rTarget) else (s, rOkay)
      | some (b, row, ra, _) =>
        let o := ra % 0x10000
        if n = 8 then
          if row.wide then (regGive m b o ra (2 ^ 64 - 1) (v % 2 ^ 64) s, rOkay) else (s, rTarget)
        else if !row.wide then (regGive m b o ra (2 ^ 32 - 1) (v % 2 ^ 32) s, rOkay)
        else if a = ra then ({ s with halfWrite := (m.val, ra, v % 2 ^ 32) :: dropHalf m ra s.halfWrite }, rOkay)
        else match halfOf m ra s.halfWrite with
          | some lo =>
            (regGive m b o ra (2 ^ 64 - 1) (v % 2 ^ 32 * 2 ^ 32 + lo)
              { s with halfWrite := dropHalf m ra s.halfWrite }, rOkay)
          | none => (regGive m b o ra (2 ^ 64 - 2 ^ 32) (v % 2 ^ 32 * 2 ^ 32) s, rOkay)

end Sys2Proof.Machine
end

