-- ==== Sys2Proof/Machine/Bus.lean ====
section
/-!
DEFINITION. Transactions on the crossbar (13, R391 to R399, R404; 04, R125, R128, R129, R136 to R142): what a request
waits for, what it does at its target, and its response.
-/
namespace Sys2Proof.Machine

/-! ### Atomic operations (R9, R141, R147) -/

/-- Whether an address lies in a target other than Crew memory (R4, R9). -/
def otherTarget (s : State) (a : Nat) : Bool :=
  inCourse a || inDdr s a || rangeIn romBase romSize a 1 || rangeIn pcieBase pcieSize a 1
    || rangeIn (flashBase 0) s.flashSize0 a 1 || rangeIn (flashBase 1) s.flashSize1 a 1
    || (inRegs a && (inMirror a || (regBlk a).isSome))

/-- An atomic operation: state, response, old value. An unaligned one gets an error response at any address (R10, R141). -/
def atomicOp (m a n : Nat) (f : Nat → Nat) (s : State) : State × Nat × Nat :=
  if inCrew a || !sizeOk a n then chipAtomic inStep m a n f s
  else if otherTarget s a then (s, rUnsupported, 0)
  else (let (s, c) := decodeError m true a s; (s, c, 0))

/-! ### What a request waits for -/

/-- Outbound reads outstanding (R397). -/
def outbound (s : State) : Nat := (s.held.filter (fun h => h.why = .host)).length

/-- What stops a request at the domain of its target: it has failed, or it wakes (R424). -/
def portStop (a : Nat) (s : State) : Option (Except HoldWhy Nat) :=
  (portDomains s a).findSome? fun d =>
    if domState s d = 5 then some (.ok rWakeFail) else if domState s d = 4 then some (.error (.domain d)) else none

/-- What stops a request at its target, if anything (R125, R138, R402, R404, R411, R424, R481, R494). -/
def stops (h : Held) (s : State) : Option (Except HoldWhy Nat) :=
  let q := h.req
  let a := q.addr.toNat
  let n := q.size
  let blkHeld (b : Blk) : Option (Except HoldWhy Nat) := if s.flt.resets.contains b then some (.error (.block b)) else none
  if rangeIn 0 courseSize a n || rangeIn crewBase crewSize a n then chipStop h s
  else if badAtomic q then none
  else if rangeIn ddrBase (ddrSize s) a n then
    (blkHeld .hstDdr <|> portStop a s) <|> if ddrServes s then none else some (.error .ddr)
  else if inRegs a then
    match regBlk a with
    | some b => if s.flt.underTest.contains b then some (.ok rInTest) else blkHeld b
    | none => none
  else if rangeIn (flashBase 0) s.flashSize0 a n || rangeIn (flashBase 1) s.flashSize1 a n then
    let cs := if a < flashBase 1 then 0 else 1
    (blkHeld .hstXspi <|> portStop a s) <|> if q.isRead ∧ flashBusy s cs then some (.error (.flash cs)) else none
  else if rangeIn pcieBase pcieSize a n then
    if s.flt.underTest.contains .hstPcie then some (.ok rInTest)
    else (blkHeld .hstPcie <|> portStop a s) <|>
      if !q.isRead ∨ !pcieUp s then none
      else if 64 ≤ outbound s then some (.error .hostFull)
      else if h.host = .silent then some (.error .host) else none
  else none

/-! ### What a request does -/

/-- A read at its target; one that the host completes brings what it completes with (R396, R399). -/
def doRead (q : Req) (host : HostReply) (n : Nat) (s : State) : State × Reply :=
  let a := q.addr.toNat
  if inRegs a then
    let (s, c, v) := regRead q.master a n s
    (s, ⟨c, leBytes n v⟩)
  else if rangeIn pcieBase pcieSize a n ∧ pcieUp s then
    match host with
    | .unsupported => (s, emptyReply q rPcieUr)
    | .abort => (s, emptyReply q rPcieCa)
    | .silent => (s, emptyReply q rPcieTimeout)
    | .data =>
      let (k, s) := s.fresh
      (s, ⟨rOkay, (List.range n).map (fun i => Config.hostByte k (hostAddr s a + i))⟩)
  else
    let g := memRead q.master.val accRead a n s
    (g.st, ⟨g.code, g.data⟩)

/-- A write at its target. -/
def doWrite (q : Req) (d : List Byte) (s : State) : State × Nat :=
  let a := q.addr.toNat
  if inRegs a then regWrite q.master a d.length (leNat d) s else memWrite q.master.val a d s

/-- A request that nothing stops is performed: state and response. -/
def perform (h : Held) (s : State) : State × Reply :=
  let q := h.req
  if rangeIn 0 courseSize q.addr.toNat q.size || rangeIn crewBase crewSize q.addr.toNat q.size then chipPerform h s
  else match q.op with
    | .read n => doRead q h.host n s
    | .write d => let (s, c) := doWrite q d s; (s, ⟨c, []⟩)
    | .add n _ | .swap n _ =>
      let (s, c, old) := atomicOp q.master.val q.addr.toNat n q.op.atomic s
      (s, ⟨c, leBytes n old⟩)

/-- All targets. -/
def busTarget : Target := ⟨stops, perform⟩

/-- A request makes the crossbar run, and the domain of its target (R421). -/
def busRuns (q : Req) (s : State) : State := forAll (102 :: portDomains s q.addr.toNat) activity s

/-- Transactions of a master that are outstanding (R394). -/
def outstanding (s : State) (m : Master) : Nat := (s.held.filter (fun h => h.req.master = m)).length

/-! ### Requests that waited -/

/-- The requests that waited for a reason are served, and those that followed them. -/
def serveHeld (why : HoldWhy) (s : State) : State := serveBy busTarget why s.held.length s

/-- The requests that followed others of their ID have their turn where those are answered (R394). -/
def inOrder (s : State) : State := serveHeld .order s

/-- A pad hold may have opened: the flash command, the DDR5 accesses and the window reads that waited for it go on (R426). -/
def padsServe (s : State) : State :=
  let s := xspiStart (custodyStart s)
  let s := if ddrServes s && s.held.any (fun h => h.why = .ddr) then serveHeld .ddr s else s
  forAll [0, 1] (fun cs s => if !flashBusy s cs && s.held.any (fun h => h.why = .flash cs) then serveHeld (.flash cs) s else s) s

/-! ### Requests as they are issued (R394) -/

/-- A request arrives: it follows those of its ID to its target, a sleeping group being woken meanwhile (R125), or has its
turn. -/
def arrives (h : Held) (s : State) : State :=
  if behind s s.held h.req then
    match stops h s with
    | some (.error (.domain d)) => hold h (.domain d) s
    | _ => hold h .order s
  else turnOf busTarget h (busRuns h.req s)

/-- A master issues a request: it has at most 64 outstanding; a register write may end the wait of others, whose followers
then have their turn (R394). -/
def issueReq (q : Req) (det : Bool) (host : HostReply) (s : State) : State :=
  if 64 ≤ outstanding s q.master then s
  else
    let s := arrives ⟨q, det, host, .order, startQos s q, false⟩ s
    if inRegs q.addr.toNat then padsServe (inOrder s) else s

/-! ### Conflicts (R128, R132, R142) -/

/-- The fabric runs: in Boathouse its clock is stopped (R405). -/
def busOn (s : State) : Bool := s.mode != modeBoathouse

/-- The write action of a command as a bus operation. -/
def writeOp : WriteAct → BusOp
  | .store d => .write d
  | .add n v => .add n v
  | .swap n v => .swap n v

/-- A write transaction; det: a DET write-out, which uses the queues of the Course banks (R129). -/
def busWrite (m : Master) (tag : BitVec 6) (addr : BitVec 44) (act : WriteAct) (waits : Nat) (det : Bool) (s : State) : State :=
  if busOn s then issueReq ⟨m, tag, addr, writeOp act⟩ det .data (countWaits m.val addr.toNat waits false s) else s

/-- An inbound host request through a BAR (R398). -/
def pcieInbound (bar : Fin 3) (off : Nat) (act : HostAct) (s : State) : State :=
  let size := match bar.val with
    | 0 => 0x10000000
    | 1 => 0x8000000
    | _ => 2 ^ (30 + s.rd (F .hstPcie 0 7 4))
  let base := match bar.val with
    | 0 => 0x10000000
    | 1 => 0
    | _ => ddrBase
  if !pcieUp s ∨ !busOn s ∨ size ≤ off then s
  else
    let op := match act with
      | .read n => BusOp.read n
      | .write d => BusOp.write d
    issueReq ⟨11, 0, BitVec.ofNat 44 (base + off), op⟩ false .data s

/-- An outbound read has had no completion within CPLTO (R396). -/
def cplTimeout (m : Master) (tag : BitVec 6) (s : State) : State :=
  match s.held.find? (fun h => h.why = .host ∧ h.req.master = m ∧ h.req.tag = tag) with
  | some h => serveHeld .hostFull (respond h.req (emptyReply h.req rPcieTimeout) { s with held := s.held.erase h })
  | none => s

/-! ### Meanings -/

/-- REGISTER_WRITE (R5). -/
def execRegisterWrite (m : Master) (addr : BitVec 44) (wide : Bool) (v : W64) (s : State) : Answer :=
  .next (if busOn s then issueReq ⟨m, 0, addr, .write (leBytes (if wide then 8 else 4) v.toNat)⟩ false .data s else s)
/-- BUS_READ (R394). -/
def execBusRead (m : Master) (tag : BitVec 6) (addr : BitVec 44) (n : Nat) (waits : Nat) (det : Bool) (host : HostReply)
    (s : State) : Answer :=
  .next (if busOn s then issueReq ⟨m, tag, addr, .read n⟩ det host (countWaits m.val addr.toNat waits det s) else s)
/-- BUS_WRITE (R394). -/
def execBusWrite (m : Master) (tag : BitVec 6) (addr : BitVec 44) (act : WriteAct) (waits : Nat) (det : Bool) (s : State) :
    Answer := .next (busWrite m tag addr act waits det s)
/-- PCIE_INBOUND (R398). -/
def execPcieInbound (bar : Fin 3) (off : Nat) (act : HostAct) (s : State) : Answer := .next (pcieInbound bar off act s)
/-- PCIE_COMPLETION_TIMEOUT (R396). -/
def execPcieCompletionTimeout (m : Master) (tag : BitVec 6) (s : State) : Answer := .next (cplTimeout m tag s)

end Sys2Proof.Machine
end

