-- ==== Sys2Proof/Machine/CoxAlu.lean ====
section
/-!
DEFINITION. What the arithmetic units of a Cox compute (06, R221 to R231; 10, R321 to R335): values, flags, latencies.
Values are 64-bit numbers.
-/
namespace Sys2Proof.Machine

def w64 : Nat := 2 ^ 64
def min64 : Nat := 2 ^ 63
/-- Bits [31:0] sign-extended to 64 bits. -/
def sx32 (x : Nat) : Nat := wrap 64 (sgn 32 x)
def lo32 (x : Nat) : Nat := x % 2 ^ 32

/-! ### ALU0 and ALU1 (R221, R321, R322) -/

/-- N and Z of a 64-bit result, with C and V. -/
def nzcv (q : Nat) (c v : Bool) : Nat := bnat (bit q 63) * 8 + bnat (q == 0) * 4 + bnat c * 2 + bnat v
/-- A signed value lies outside w bits. -/
def outside (w : Nat) (i : Int) : Bool := decide (i < -(2 ^ (w - 1) : Nat) ∨ (2 ^ (w - 1) : Nat) ≤ i)

/-- A 64-bit sum with a carry in. -/
def aluAdd (x y c : Nat) : Nat × Nat :=
  let q := (x + y + c) % w64
  (q, nzcv q (decide (w64 ≤ x + y + c)) (outside 64 (sgn 64 x + sgn 64 y + c)))
/-- A 64-bit difference with a borrow in. -/
def aluSub (x y c : Nat) : Nat × Nat :=
  let q := wrap 64 ((x : Int) - y - c)
  (q, nzcv q (decide (x < y + c)) (outside 64 (sgn 64 x - sgn 64 y - c)))
/-- A 32-bit sum or difference, sign-extended. -/
def alu32 (sub : Bool) (x y : Nat) : Nat × Nat :=
  let a := lo32 x
  let b := lo32 y
  let q := if sub then wrap 32 ((a : Int) - b) else (a + b) % 2 ^ 32
  let c := if sub then decide (a < b) else decide (2 ^ 32 ≤ a + b)
  let v := outside 32 (if sub then sgn 32 a - sgn 32 b else sgn 32 a + sgn 32 b)
  (sx32 q, bnat (bit q 31) * 8 + bnat (q == 0) * 4 + bnat c * 2 + bnat v)
/-- A sum or difference saturated as a signed value. -/
def aluSat (sub : Bool) (x y : Nat) : Nat × Nat :=
  let i : Int := if sub then sgn 64 x - sgn 64 y else sgn 64 x + sgn 64 y
  let v := outside 64 i
  let q := if v then (if i < 0 then min64 else min64 - 1) else wrap 64 i
  let c := if sub then decide (x < y) else decide (w64 ≤ x + y)
  (q, nzcv q c v)
def plainQ (q : Nat) : Nat × Nat := (q, nzcv q false false)

/-- An ALU operation: Q and FLAGS; c is FLAGS.C of the unit as it stands before the group. -/
def aluOp (off x t c : Nat) : Nat × Nat :=
  match off with
  | 8 => aluAdd x t 0
  | 9 => aluSub x t 0
  | 10 => aluAdd x t c
  | 11 => aluSub x t c
  | 12 => alu32 false x t
  | 13 => alu32 true x t
  | 14 => aluSat false x t
  | 15 => aluSat true x t
  | 16 => plainQ (x &&& t)
  | 17 => plainQ (x ||| t)
  | 18 => plainQ (x ^^^ t)
  | 19 => plainQ (x &&& (w64 - 1 - t))
  | 20 => plainQ (if sgn 64 x ≤ sgn 64 t then x else t)
  | 21 => plainQ (if sgn 64 x ≤ sgn 64 t then t else x)
  | 22 => plainQ (min x t)
  | 23 => plainQ (max x t)
  | 24 => let q := if bit t 63 then (w64 - t) % w64 else t
          (q, nzcv q false (t == min64))
  | 25 => let q := (w64 - t) % w64
          (q, nzcv q (t != 0) (t == min64))
  | _ => plainQ t

/-! ### SHIFT and MUL (R222, R223, R323) -/

def shiftOp (off x y t : Nat) : Nat :=
  let n := t % 64
  let m := t % 32
  match off with
  | 8 => x * 2 ^ n % w64
  | 9 => x / 2 ^ n
  | 10 => wrap 64 (sgn 64 x / (2 ^ n : Nat))
  | 11 => x * 2 ^ n % w64 + x / 2 ^ (64 - n)
  | 12 => x / 2 ^ n + x * 2 ^ (64 - n) % w64
  | 13 => sx32 (lo32 x * 2 ^ m % 2 ^ 32)
  | 14 => lo32 x / 2 ^ m
  | 15 => wrap 64 (sgn 32 x / (2 ^ m : Nat))
  | 16 => (x * w64 + y) * 2 ^ n / w64 % w64
  | _ => (x * w64 + y) / 2 ^ n % w64

/-- The product: Q and Q2. -/
def mulOp (off x t : Nat) : Nat × Nat :=
  let full (i : Int) : Nat × Nat := (wrap 64 i, wrap 128 i / w64)
  match off with
  | 8 => full (x * t : Nat)
  | 9 => full (sgn 64 x * sgn 64 t)
  | 10 => full (sgn 64 x * (t : Int))
  | 11 => (lo32 x * lo32 t, 0)
  | _ =>
    let q := wrap 64 (sgn 32 x * sgn 32 t)
    (q, if bit q 63 then w64 - 1 else 0)

/-! ### DIV (R224, R324) -/

/-- Quotient, remainder and FLAGS: DZ 2, OV 1. -/
def divOp (off x t : Nat) : Nat × Nat × Nat :=
  let signed (w : Nat) (a b : Int) : Nat × Nat × Nat :=
    if b = 0 then (w64 - 1, wrap 64 a, 2)
    else if a = -(2 ^ (w - 1) : Nat) ∧ b = -1 then (wrap 64 a, 0, 1)
    else (wrap 64 (a.tdiv b), wrap 64 (a.tmod b), 0)
  match off with
  | 8 => if t = 0 then (w64 - 1, x, 2) else (x / t, x % t, 0)
  | 9 => signed 64 (sgn 64 x) (sgn 64 t)
  | 10 => if lo32 t = 0 then (w64 - 1, sx32 x, 2) else (sx32 (lo32 x / lo32 t), sx32 (lo32 x % lo32 t), 0)
  | _ => signed 32 (sgn 32 x) (sgn 32 t)

/-! ### BITS (R231) -/

def clz64 (t : Nat) : Nat := if t = 0 then 64 else 63 - Nat.log2 t
def ctz64 (t : Nat) : Nat := ((List.range 64).find? (fun i => bit t i)).getD 64
def popc64 (t : Nat) : Nat := ((List.range 64).filter (fun i => bit t i)).length
def brev64 (t : Nat) : Nat := (List.range 64).foldl (fun a i => a + bnat (bit t i) * 2 ^ (63 - i)) 0
/-- Low bits of x at the set bits of a mask, and back. -/
def pdep64 (x mask : Nat) : Nat := ((bitsOf mask 64).zipIdx).foldl (fun a p => a + bnat (bit x p.2) * 2 ^ p.1) 0
def pext64 (x mask : Nat) : Nat := ((bitsOf mask 64).zipIdx).foldl (fun a p => a + bnat (bit x p.1) * 2 ^ p.2) 0
/-- One bit of the reflected CRC-32C, polynomial 0x82F63B78. -/
def crcBit (c : Nat) : Nat := if c % 2 = 1 then c / 2 ^^^ 0x82F63B78 else c / 2
/-- A CRC-32C state advanced over bytes, without inversion. -/
def crcBytes (c : Nat) (bs : List Byte) : Nat := bs.foldl (fun c b => (List.range 8).foldl (fun c _ => crcBit c) (c ^^^ b.toNat)) c

def bitsOp (off x y t : Nat) : Nat :=
  let lsb := bits t 5 0
  let wd := bits t 11 6 + 1
  match off with
  | 8 => clz64 t
  | 9 => ctz64 t
  | 10 => popc64 t
  | 11 => brev64 t
  | 12 => beNat (leBytes 8 t)
  | 13 => x / 2 ^ lsb % 2 ^ wd
  | 14 => wrap 64 (sgn wd (x / 2 ^ lsb))
  | 15 => putBits x (lsb + wd - 1) lsb (y % 2 ^ wd)
  | 16 => pdep64 x t
  | 17 => pext64 x t
  | _ => crcBytes (lo32 x) (leBytes 8 t)

/-! ### DEC (R227, R333 to R335) -/

/-- A packed-decimal operand's value; none when it is invalid. -/
def decVal (x : Nat) : Option Int :=
  let ds := (List.range 15).map (fun i => bits x (4 * i + 7) (4 * i + 4))
  if ds.any (fun d => decide (d > 9)) || bits x 3 0 > 1 then none
  else
    let m : Nat := ((ds.zipIdx).foldl (fun a p => a + p.1 * 10 ^ p.2) 0)
    some (if x % 2 = 1 then -(m : Int) else m)
/-- The low 15 digits of a magnitude with a sign; a zero is positive. -/
def decPack (i : Int) : Nat :=
  let m := i.natAbs % 10 ^ 15
  (List.range 15).foldl (fun a d => a + m / 10 ^ d % 10 * 2 ^ (4 * d + 4)) 0 + bnat (decide (i < 0) && m != 0)
/-- A value of at most 15 digits, or its low digits with OVERFLOW. -/
def decFit (i : Int) : Nat × Nat := (decPack i, bnat (decide (10 ^ 15 ≤ i.natAbs)))

/-- Q and FLAGS: DEC_INVALID 2, OVERFLOW 1. -/
def decOp (off x t : Nat) : Nat × Nat :=
  match off, decVal x, decVal t with
  | 8, some a, some b => decFit (a + b)
  | 9, some a, some b => decFit (a - b)
  | 10, _, v => (t, if v.isSome then 0 else 2)
  | 11, _, some b => decFit (-b)
  | 12, _, some b => (wrap 64 b, 0)
  | 13, _, _ => decFit (sgn 64 t)
  | _, _, _ => (0, 2)

/-! ### FPU0, FPU1 and the floating-point compares (R225 to R230, R325 to R332) -/

/-- What a floating-point operation gives: result, flags (DENORM_IN 32 to NX 1), the cause it raises. -/
structure FpOut where
  q : Nat
  flags : Nat
  cause : Option Nat
deriving DecidableEq, Repr

/-- A zero of an operand's sign, for a subnormal; another operand unchanged (R328). -/
def flushed (f : Fmt) (x : Nat) : Nat := if isSubnormal f x then bnat (bit x (f.w - 1)) * f.sbit else x
/-- A tiny result of a format becomes a zero of its sign with UF and NX (R328). -/
def flushOut (g : Fmt) (r : Nat × Nat) : Nat × Nat :=
  if r.2 &&& flUF != 0 || isSubnormal g r.1 then (bnat (bit r.1 (g.w - 1)) * g.sbit, r.2 ||| flUF ||| flNX) else r

/-- An operation under FPENV: operands of one format, result of another or none (compare, to integer), the operation on
unflushed operands. SUBN 0 flushes, SUBN 1 asks for assistance; then the trap enables (R328, R329, R331). -/
def fpUnder (f : Fmt) (g : Option Fmt) (env : Nat) (xs : List Nat) (op : List Nat → Nat × Nat) : FpOut :=
  let tiny (r : Nat × Nat) : Bool := match g with
    | some g => r.2 &&& flUF != 0 || isSubnormal g r.1
    | none => false
  let inFlush : Nat × Nat :=
    let r := op (xs.map (flushed f))
    let r := match g with
      | some g => flushOut g r
      | none => r
    (r.1, r.2 ||| (if xs.any (isSubnormal f) then flDI else 0))
  let raw := op xs
  let assist := bit env 16 && !xs.any (isNan f) && (xs.any (isSubnormal f) || tiny raw)
  let r := if !bit env 16 || assist then inFlush else (raw.1, raw.2 &&& (flIV + flDZ + flOF + flNX))
  ⟨r.1, r.2, if assist then some 0x19 else if r.2 % 32 &&& bits env 7 3 != 0 then some 0x18 else none⟩

/-- An operand or result of binary32 lies in bits [31:0]. -/
def fpIn (f : Fmt) (x : Nat) : Nat := x % 2 ^ f.w

/-- FPU0 (R225). -/
def fpu0Op (off x y t env : Nat) : FpOut :=
  let f := if off < 16 then f64 else f32
  let rm := bits env 1 0
  let a := fpIn f x
  let b := fpIn f t
  let c := fpIn f y
  let at_ (l : List Nat) (i : Nat) : Nat := l.getD i 0
  match off % 8 with
  | 0 => fpUnder f (some f) env [a, b] (fun l => fpAdd f rm false false (at_ l 0) (at_ l 1))
  | 1 => fpUnder f (some f) env [a, b] (fun l => fpAdd f rm false true (at_ l 0) (at_ l 1))
  | 2 => fpUnder f (some f) env [a, b] (fun l => fpMul f rm false (at_ l 0) (at_ l 1))
  | 3 => fpUnder f (some f) env [a, b, c] (fun l => fpFma f rm false false (at_ l 0) (at_ l 1) (at_ l 2))
  | 4 => fpUnder f (some f) env [a, b, c] (fun l => fpFma f rm false true (at_ l 0) (at_ l 1) (at_ l 2))
  | 5 => fpUnder f (some f) env [a, b] (fun l => fpMinMax f false false (at_ l 0) (at_ l 1))
  | _ => fpUnder f (some f) env [a, b] (fun l => fpMinMax f false true (at_ l 0) (at_ l 1))

/-- An integer result of a conversion, as a 64-bit value. -/
def asInt (r : Int × Nat) : Nat × Nat := (wrap 64 r.1, r.2)

/-- FPU1 (R226, R327). -/
def fpu1Op (off x t env : Nat) : FpOut :=
  let rm := bits env 1 0
  let h (l : List Nat) : Nat := l.getD 0 0
  let top (w : Nat) : Int := (2 ^ w : Nat)
  let ofInt (f : Fmt) (i : Int) : FpOut := fpUnder f (some f) env [] (fun _ => fpOfInt f rm i 0)
  match off with
  | 8 => fpUnder f64 (some f64) env [x, t] (fun l => fpDiv f64 rm false (h l) (l.getD 1 0))
  | 9 => fpUnder f64 (some f64) env [t] (fun l => fpSqrt f64 rm false (h l))
  | 10 => fpUnder f32 (some f32) env [lo32 x, lo32 t] (fun l => fpDiv f32 rm false (h l) (l.getD 1 0))
  | 11 => fpUnder f32 (some f32) env [lo32 t] (fun l => fpSqrt f32 rm false (h l))
  | 12 => fpUnder f64 (some f32) env [t] (fun l => fpConvert f64 f32 rm false false (h l))
  | 13 => fpUnder f32 (some f64) env [lo32 t] (fun l => fpConvert f32 f64 rm false false (h l))
  | 14 => fpUnder f64 none env [t] (fun l => asInt (fpToInt f64 rm false (h l) 0 (-(top 63)) (top 63 - 1) 0))
  | 15 => fpUnder f64 none env [t] (fun l => asInt (fpToInt f64 rm false (h l) 0 0 (top 64 - 1) 0))
  | 16 => ofInt f64 (sgn 64 t)
  | 17 => ofInt f64 t
  | 18 => fpUnder f32 none env [lo32 t] (fun l => asInt (fpToInt f32 rm false (h l) 0 (-(top 31)) (top 31 - 1) 0))
  | 19 => ofInt f32 (sgn 32 t)
  | 20 => fpUnder f64 none env [t] (fun l => asInt (fpToInt f64 rm false (h l) 0 (-(top 31)) (top 31 - 1) 0))
  | 21 => ofInt f64 (sgn 32 t)
  | 22 => fpUnder f64 (some f64) env [t] (fun l => fpRoundInt f64 rm (h l))
  | _ => fpUnder f32 (some f32) env [lo32 t] (fun l => fpRoundInt f32 rm (h l))

/-- A floating-point compare: equal, less, less or equal, unordered; a signalling NaN raises IV, and in the ordered
compares any NaN does (DEDUCED: R326, R330 and the example of 06; notes/assumptions/30.md). -/
def fpCmp (f : Fmt) (rel x t : Nat) : Nat × Nat :=
  let un := isNan f x || isNan f t
  let o := cmpV (unpack f x) (unpack f t)
  let res := match rel with
    | 0 => o == some .eq
    | 1 => o == some .lt
    | 2 => o == some .lt || o == some .eq
    | _ => un
  let iv := isSnan f x || isSnan f t || (un && (rel == 1 || rel == 2))
  (bnat res, if iv then flIV else 0)

/-- CMP (R228, R330): the condition with flags and cause. -/
def cmpOp (off x t env : Nat) : FpOut :=
  let int_ (b : Bool) : FpOut := ⟨bnat b, 0, none⟩
  match off with
  | 8 => int_ (x == t)
  | 9 => int_ (x != t)
  | 10 => int_ (decide (sgn 64 x < sgn 64 t))
  | 11 => int_ (decide (sgn 64 x ≤ sgn 64 t))
  | 12 => int_ (decide (x < t))
  | 13 => int_ (decide (x ≤ t))
  | 14 => int_ (x &&& t != 0)
  | 15 => int_ (lo32 x == lo32 t)
  | 16 => int_ (decide (sgn 32 x < sgn 32 t))
  | 17 => int_ (decide (lo32 x < lo32 t))
  | _ =>
    let f := if off < 22 then f64 else f32
    fpUnder f none env [fpIn f x, fpIn f t] (fun l => fpCmp f ((off - 18) % 4) (l.getD 0 0) (l.getD 1 0))

/-! ### Latencies (R221 to R231) -/

/-- Issue cycles from a trigger to the first group that reads the result (R205). -/
def latency (unit off : Nat) : Nat :=
  match unit with
  | 0 => if off = 0xB then 2 else 1
  | 7 => if off < 10 then 40 else 24
  | 8 => if off % 8 < 3 then 4 else if off % 8 < 5 then 5 else 2
  | 9 => if off < 10 then 22 else if off < 12 then 14 else 4
  | 10 => if off < 10 then 2 else if off < 12 then 1 else if off = 12 then 4 else 6
  | 16 => if off = 8 then 3 else 4
  | 17 => 2
  | 18 => if off < 16 then 1 else 2
  | _ => 1

end Sys2Proof.Machine
end

