-- ==== Sys2Proof/Machine/CoxPorts.lean ====
section
/-!
DEFINITION. Gheut bundles and ports (06, R197 to R235): decoding a bundle, the port space, what a port reads.
-/
namespace Sys2Proof.Machine

/-! ### Bundles (R197 to R202) -/

/-- What a move moves: an immediate, or a port with its modifier 0 whole, 1 low half sign-extended, 2 zero-extended (R201); or its
encoding is reserved: modifier 11, or reserved bits of a long move (R199, R201). -/
inductive MvSrc where
  | imm (v : Nat)
  | port (p md : Nat)
  | reserved
deriving DecidableEq, Repr

/-- A move: guard, destination port, source, slot (R200). -/
structure Mv where
  inv : Bool
  pred : Nat
  dest : Nat
  src : MvSrc
  slot : Nat
deriving DecidableEq, Repr

/-- A bundle at its address: header bits, moves in rising rank, and whether its header is reserved (R198, R199). -/
structure Bun where
  va : Nat
  pair : Bool
  lend : Bool
  serial : Bool
  bad : Bool
  moves : List Mv
deriving DecidableEq, Repr

/-- The source field (R201). -/
def mvSrcOf (x : Nat) : MvSrc :=
  if bit x 13 then .imm (wrap 64 (sgn 13 x)) else if bits x 12 11 = 3 then .reserved else .port (bits x 10 0) (bits x 12 11)

/-- A 30-bit move (R200). -/
def mvOf (slot x : Nat) : Mv := ⟨bit x 29, bits x 28 25, bits x 24 14, mvSrcOf x, slot⟩
/-- A long move: guard and destination, value, whether its reserved bits are set (R199). -/
def longOf (slot guard dest v : Nat) (bad : Bool) : Mv := ⟨bit guard 4, guard % 16, dest, if bad then .reserved else .imm v, slot⟩
/-- Slots 0 to 3 of a bundle (R197). -/
def mvSlot (w i : Nat) : Nat := bits w (119 - 30 * i) (90 - 30 * i)
/-- IMM32 as EXT gives it (R199). -/
def imm32 (ext v : Nat) : Nat := if ext = 0 then sx32 v else if ext = 1 then v else v * 2 ^ 32

/-- A bundle of 128 bits at an address (R198, R199). -/
def bundleOf (va w : Nat) : Bun :=
  let mk (bad : Bool) (ms : List Mv) : Bun := ⟨va, bit w 127, bit w 126, bit w 123, bad || bits w 122 120 != 0, ms⟩
  let short (n : Nat) : List Mv := (List.range n).map (fun i => mvOf i (mvSlot w i))
  match bits w 125 124 with
  | 0 => mk false (short 4)
  | 1 => mk false (short 2 ++ [longOf 2 (bits w 59 55) (bits w 54 44) (imm32 (bits w 33 32) (bits w 31 0))
      (bits w 43 34 != 0 || bits w 33 32 == 3)])
  | 2 => mk false (short 1 ++ [longOf 1 (bits w 89 85) (bits w 84 74) (bits w 63 0) (bits w 73 64 != 0)])
  | _ => mk true []

/-! ### The port space (R207, R209 to R231) -/

def unitOf (p : Nat) : Nat := (p - 0x80) / 32
def offOf (p : Nat) : Nat := (p - 0x80) % 32
def portOf (unit off : Nat) : Nat := 0x80 + 32 * unit + off

/-- Access that a port allows: none (ILLEGAL_PORT), or whether it is restricted to privilege S (R210, R211). -/
abbrev PortRight := Option Bool

def rightOf (free s : List Nat) (o : Nat) : PortRight := if free.contains o then some false else if s.contains o then some true else none
/-- The offsets lo to hi. -/
def span (lo hi : Nat) : List Nat := (List.range (hi + 1 - lo)).map (· + lo)

/-- Read ports. -/
def readRight (p : Nat) : PortRight :=
  if p < 0x55 then some false
  else if p < 0x80 ∨ 0x2E0 ≤ p then none
  else
    let o := offOf p
    match unitOf p with
    | 0 => rightOf ([0, 1, 2, 4, 7, 0xA] ++ span 0xC 0xF) [3, 5, 6, 8, 9] o
    | 1 => rightOf [3] [4] o
    | 2 => rightOf (span 0 4) [] o
    | 3 | 4 | 8 => rightOf [0, 2] [] o
    | 5 | 12 | 13 | 14 | 18 => rightOf [0] [] o
    | 6 => rightOf [0, 1] [] o
    | 7 | 16 => rightOf [0, 1, 2] [] o
    | 9 | 17 => rightOf (span 0 3) [] o
    | 10 | 11 => rightOf [0, 2, 3] [] o
    | 15 => rightOf [] ([0, 2] ++ span 8 15) o
    | _ => none

/-- Write ports, triggers included. -/
def writeRight (p : Nat) : PortRight :=
  if p < 0x50 then some false
  else if p < 0x80 ∨ 0x2E0 ≤ p then none
  else
    let o := offOf p
    match unitOf p with
    | 0 => rightOf [0, 1, 7, 8, 0xF] ([3, 4, 5, 6] ++ span 9 0xE ++ [0x10, 0x11]) o
    | 1 => rightOf (span 8 0xD) [1, 0xE] o
    | 2 => rightOf [8, 9] [] o
    | 3 | 4 => rightOf (0 :: span 8 26) [] o
    | 5 => rightOf ([0, 1] ++ span 8 17) [] o
    | 6 => rightOf (0 :: span 8 12) [] o
    | 7 => rightOf (0 :: span 8 11) [] o
    | 8 => rightOf ([0, 1] ++ span 8 14 ++ span 16 22) [] o
    | 9 => rightOf (0 :: span 8 23) [] o
    | 10 => rightOf ([0, 1] ++ span 8 13) [] o
    | 11 => rightOf ([0, 1] ++ span 8 25) [] o
    | 12 | 13 => rightOf ([0, 1] ++ span 8 23) [] o
    | 14 => rightOf [0, 8] [] o
    | 15 => rightOf [] (span 0 8) o
    | 16 => rightOf [0, 1, 8] [9, 10] o
    | 17 => rightOf [0, 8, 9] [1] o
    | 18 => rightOf ([0, 1] ++ span 8 18) [] o
    | _ => none

/-- A trigger port (R209). -/
def isTrigger (p : Nat) : Bool := 0x80 ≤ p && p < 0x2E0 && 8 ≤ offOf p
/-- A RUDDER trigger (R217, R235). -/
def isRudder (p : Nat) : Bool := 0xA8 ≤ p && p ≤ 0xAE
def pLoopStart : Nat := 0xC8

def Bun.rudder (b : Bun) : Bool := b.moves.any (fun m => isRudder m.dest)
def Bun.loopStart (b : Bun) : Bool := b.moves.any (fun m => m.dest == pLoopStart)

/-! ### Operand ports, banked by level (R272) -/

def bankIx (unit off : Nat) : Nat := unit * 8 + off
/-- The bank of the current level. -/
def bankNow (s : State) (c : CoxId) : Fin 5 := Fin.ofNat 5 (curLevel s c)
/-- An operand or configuration port as a trigger samples it: 64 bits. -/
def operandPort (s : State) (c : CoxId) (unit off : Nat) : Nat := ngetD ((core s c).banks[bankNow s c]) (bankIx unit off) 0 % w64
def setOperand (c : CoxId) (unit off v : Nat) (s : State) : State :=
  onCore c (fun k => { k with banks := k.banks.set (bankNow s c) (nput (bankIx unit off) v k.banks[bankNow s c]) }) s

/-! ### What a port reads -/

/-- FEAT0 to FEAT3 of silicon revision B0 (R234). -/
def featWord (i : Nat) : Nat := [0x7FFFF, 0x12082F, 0x440421000853, 0x301B0].getD i 0
/-- STATUS: DET, SUA, U (R215). -/
def statusWord (k : Core) : Nat := bnat k.det * 8 + bnat k.sua * 2 + bnat k.user
/-- A result or flags port as the last completed operation left it. -/
def resPort (k : Core) (p : Nat) : Nat := ngetD k.res p 0
/-- TLB_INV_DONE: no broadcast of this core is in progress (R214). -/
def tlbInvDone (s : State) (c : CoxId) : Bool := !s.cox.bcasts.any (fun b => b.from_ == c.val)
/-- Timebase bits [95:32] and [31:0], as R179 lays them out. -/
def tbHigh (s : State) : Nat := stamp96 (now16 s) / 2 ^ 32
def tbLow (s : State) : Nat := stamp96 (now16 s) % 2 ^ 32

/-- The 64-bit value of a source port; va: address of the bundle that holds the move (R207 to R231). -/
def readPort (s : State) (c : CoxId) (va p : Nat) : Nat :=
  let k := core s c
  let lev : Fin 5 := bankNow s c
  let loopAt (i : Nat) (f : LoopLev → Nat) : Nat := ((k.loops[i]?).map f).getD 0
  if h : p < 64 then (k.g[p]).toNat
  else if p = 0x40 then 1
  else if p < 0x50 then bnat (bit k.preds (p - 0x40))
  else match p with
    | 0x50 => 0
    | 0x51 => w64 - 1
    | 0x52 => va
    | 0x53 => k.quarters / 4 % w64
    | 0x54 => bits (stamp96 (now16 s)) 79 16
    | 0x82 => bnat (!k.cacheOps.isEmpty) * 2 + bnat (tlbInvDone s c)
    | 0x83 => if lev = 4 then 4 else k.maskLev
    | 0x84 => statusWord k
    | 0x85 => k.vbase
    | 0x86 => k.xlate
    | 0x87 => k.fpenv
    | 0x88 => k.causes[lev].1
    | 0x89 => k.causes[lev].2
    | 0x8A => c.val
    | 0xA3 => k.link
    | 0xA4 => k.ssp
    | 0xC0 => loopAt 0 (·.count)
    | 0xC1 => loopAt 1 (·.count)
    | 0xC2 => k.loops.length
    | 0xC3 => loopAt 0 (·.start)
    | 0xC4 => loopAt 1 (·.start)
    | 0x1C3 => operandPort s c 10 1
    | 0x1E3 => operandPort s c 11 1
    | 0x2A2 => k.inbox.length
    | 0x2A3 => k.mailLev
    | _ => if 0x8C ≤ p ∧ p ≤ 0x8F then featWord (p - 0x8C) else resPort k p

/-- The value that a move moves (R201). -/
def mvValue (s : State) (c : CoxId) (va : Nat) (m : Mv) : Nat :=
  match m.src with
  | .imm v => v
  | .reserved => 0
  | .port p md =>
    let v := readPort s c va p
    if md = 1 then sx32 v else if md = 2 then lo32 v else v

/-- A guard as the predicates stand before the group (R200, R203). -/
def guardOn (k : Core) (m : Mv) : Bool := (m.pred == 0 || bit k.preds m.pred) != m.inv

end Sys2Proof.Machine
end

