-- ==== Sys2Proof/Machine/CoxMem.lean ====
section
/-!
DEFINITION. The memory side of a Cox: translation and the TLB (09), caches, store buffer and fetch (07).
-/
namespace Sys2Proof.Machine

/-! ### Exceptions in waiting (08, R273) -/

/-- A group-kind or fetch-kind exception with its FAULT_ADDR. -/
def groupExc (cause addr unit whr : Nat) : Exc := ⟨cause, addr % 2 ^ 48, false, unit, whr, false, false, false, 0, 0, 0, 0, 0⟩

/-- An exception becomes due; a completion exception beside one that is due already sets its MULTI (R276, R280). -/
def raise (c : CoxId) (e : Exc) (s : State) : State :=
  onCore c (fun k => { k with exc := some (match k.exc with
    | some x => { x with multi := x.multi || e.completion }
    | none => e) }) s

/-- A software trap becomes due; a completion exception of the same boundary is its MULTI (R274, R280). -/
def raiseTrap (c : CoxId) (e : Exc) (s : State) : State :=
  onCore c (fun k => { k with exc := some { e with multi := (k.exc.map (·.completion)).getD false } }) s

/-! ### Deterministic mode (R266) -/

/-- A deterministic core counts an event: WALK 30, OUTSIDE 29, HOLD 28, SBFULL 27. -/
def detEvent (c : CoxId) (cause : Nat) (s : State) : State :=
  if (core s c).det then
    report (.cox c) 0 ((((s.wr (F (.cox c) 0x118 cause cause) 1).wr (F (.cox c) 0x118 31 31) 1)).countSat (F (.cox c) 0x118 15 0) 1)
  else s

/-- An access of a deterministic core outside Crew memory. -/
def detOutside (c : CoxId) (pa : Nat) (s : State) : State := if inCrew pa then s else detEvent c 29 s

/-! ### Accesses of the core -/

def inSpace (pa : Nat) : Bool := 0x10000000 ≤ pa && pa < 0x1C000000

/-- A read: state, response, data, address of the first uncorrectable word. -/
def cpuRead (c : CoxId) (pa n : Nat) (s : State) : Got :=
  if inSpace pa then
    let (s, code, v) := regRead (Fin.ofNat 16 c.val) pa n s
    ⟨s, code, leBytes n v, pa⟩
  else memRead c.val accRead pa n s

/-- A write: state and response. -/
def cpuWrite (c : CoxId) (pa : Nat) (bs : List Byte) (s : State) : State × Nat :=
  if inSpace pa then regWrite (Fin.ofNat 16 c.val) pa bs.length (leNat bs) s
  else memWrite c.val pa bs s

/-- An error response to a store or write-back waits to be reported (R260). -/
def storeError (c : CoxId) (addr resp n kind : Nat) (s : State) : State :=
  onCore c (fun k => { k with sbErr := k.sbErr ++ [⟨addr, resp, Nat.log2 n, kind⟩] }) s

/-! ### Translation (R297 to R304) -/

/-- Kinds of access; shadow-stack accesses have rights of their own (R296). -/
inductive CpuAcc where
  | fetch | load | store | ssLoad | ssStore
deriving DecidableEq, Repr

/-- A physical address with its MEM attribute, a miss to be walked, or a cause. -/
inductive Tx where
  | ok (pa mem : Nat)
  | miss
  | fault (cause : Nat)
deriving DecidableEq, Repr

def CpuAcc.shadow : CpuAcc → Bool
  | .ssLoad | .ssStore => true
  | _ => false
/-- The cause of an access with no translation. -/
def CpuAcc.none_ : CpuAcc → Nat
  | .fetch => 1
  | .load | .store => 0x10
  | _ => 0x0D
def CpuAcc.writes : CpuAcc → Bool
  | .store | .ssStore => true
  | _ => false

/-- The rights of a page: TYPE 0 S, 1 U, 2 SS (R295, R296, R303). -/
def rightsCause (acc : CpuAcc) (user sua : Bool) (type : Nat) (xn w : Bool) : Option Nat :=
  match acc with
  | .fetch => if xn || type == 2 then some 4 else if user != (type == 1) then some 3 else none
  | .load | .store =>
    if acc.writes && !w then some 0x12
    else if user then (if type == 1 then none else some 0x12)
    else if type == 1 then (if sua then none else some 0x12)
    else if type == 2 && acc.writes then some 0x12 else none
  | _ => if type == 2 && (w || !acc.writes) then none else some 0x0D

def entSize (e : TlbEnt) : Nat := bits e.v 53 48
/-- An entry matches an address (R304). -/
def entHits (va : Nat) (e : TlbEnt) : Bool := bits e.v 47 12 / 2 ^ (entSize e - 12) == bits va 47 12 / 2 ^ (entSize e - 12)
/-- Physical address through an entry. -/
def entPa (va : Nat) (e : TlbEnt) : Nat := (bits e.p 43 12 * 4096 + va % 2 ^ entSize e) % 2 ^ 44

/-- Translation of an address under a value of XLATE and a privilege (R298, R299, R304). -/
def translate (k : Core) (xl : Nat) (user : Bool) (acc : CpuAcc) (va : Nat) : Tx :=
  if bit xl 0 then
    if va / 2 ^ 48 ≠ 0 then .fault acc.none_
    else match k.tlb.filter (fun p => entHits va p.2) with
      | [] => if bit xl 3 then .miss else .fault acc.none_
      | [(_, e)] =>
        match rightsCause acc user k.sua (bits e.p 54 53) (bit e.p 55) (bit e.p 52) with
        | some x => .fault x
        | none => .ok (entPa va e) (bits e.p 51 50)
      | _ => .fault (if acc.shadow then 0x0D else 0x13)
  else if va / 2 ^ 44 ≠ 0 then .fault acc.none_
  else if acc.shadow then (if inCrew va then .ok va 1 else .fault 0x0D)
  else if user then .fault (if acc == .fetch then 3 else 0x12)
  else .ok va 1

/-! ### The walker (R300 to R313) -/

/-- What a walk ends in (R310): a leaf as the two words of R305, no translation, or a walk fault: KIND, RESP, LEVEL, address. -/
inductive WalkOut where
  | leaf (v p : Nat)
  | nothing
  | bad (kind resp level addr : Nat)
deriving DecidableEq, Repr

/-- Format of a table entry (R300, R301, R302, R310). -/
def entryBad (level sh e : Nat) : Bool :=
  if bit e 1 then
    let sz := bits e 11 6
    bits e 63 56 != 0 || bits e 49 44 != 0 || bits e 5 2 != 0 || sz < sh || sz > sh + 8 ||
      bits e 54 53 == 3 || bits e 51 50 == 3 || bits e 43 12 * 4096 % 2 ^ sz != 0
  else bits e 63 44 != 0 || bits e 11 2 != 0 || level == 3

/-- A target that holds tables (R310). -/
def tableCapable (c : CoxId) (s : State) (a : Nat) : Bool :=
  let cap := s.reg ((Blk.cox c).base + 0x300)
  (inCourse a && bit cap 0) || (inCrew a && bit cap 1) || (inDdr s a && bit cap 2)

/-- The walk from a level down; sh: log2 of the level's slot span. -/
def walkFrom (c : CoxId) (va : Nat) : List (Nat × Nat) → Nat → State → State × WalkOut
  | [], _, s => (s, .nothing)
  | (level, sh) :: rest, base, s =>
    let a := base + 8 * bits va (sh + 8) sh
    if !tableCapable c s a then (s, .bad 1 0 level a)
    else
      let g := memRead c.val accRead a 8 s
      if g.code = rUe then (g.st, .bad 2 0 level a)
      else if g.code ≠ 0 then (g.st, .bad 3 g.code level a)
      else
        let e := leNat g.data
        if !bit e 0 then (g.st, .nothing)
        else if entryBad level sh e then (g.st, .bad 4 0 level a)
        else if bit e 1 then
          let sz := bits e 11 6
          (g.st, .leaf (2 ^ 63 + sz * 2 ^ 48 + bits va 47 0 / 2 ^ sz * 2 ^ sz) (e / 4096 * 4096))
        else walkFrom c va rest (bits e 43 12 * 4096) g.st

/-- A walk from a root (R309). -/
def walkTables (c : CoxId) (root va : Nat) (s : State) : State × WalkOut :=
  walkFrom c va [(0, 39), (1, 30), (2, 21), (3, 12)] root s

/-- Root of the tables under a value of XLATE (R297). -/
def rootOf (xl : Nat) : Nat := bits xl 43 12 * 4096

/-- Whether an odd number of the bits listed are set. -/
def parity (x : BitVec 16) (l : List Nat) : Bool := l.foldl (fun a i => a != x.getLsbD i) false

/-- One step of the LFSR with the polynomial x^16 + x^15 + x^13 + x^4 + 1, in one of the four usual forms: taps fed back to the low or
to the high end, or the polynomial added as a bit leaves the low or the high end (R307; which, notes/assumptions/1.md). -/
def lfsrStep (form : Fin 4) (x : BitVec 16) : BitVec 16 :=
  match form with
  | 0 => x <<< 1 ||| BitVec.ofNat 16 (bnat (parity x [15, 14, 12, 3]))
  | 1 => x >>> 1 ||| BitVec.ofNat 16 (bnat (parity x [0, 1, 3, 12]) * 2 ^ 15)
  | 2 => x >>> 1 ^^^ (if x.getLsbD 0 then 0xD008 else 0)
  | 3 => x <<< 1 ^^^ (if x.getLsbD 15 then 0xA011 else 0)

/-- The LFSR after n core cycles (R307). -/
def lfsrAfter : Nat → BitVec 16
  | 0 => 0xACE1
  | n + 1 => lfsrStep Config.lfsrForm (lfsrAfter n)

/-- The index that a fill takes (R307). -/
def fillIndex (k : Core) : Nat :=
  match (List.range 256).find? (fun i => (nget i k.tlb).isNone) with
  | some i => i
  | none =>
    let x := (lfsrAfter (k.quarters / 4)).toNat % 256
    ((List.range 256).map (fun d => (x + d) % 256)).find? (fun i => !((nget i k.tlb).map (·.lock)).getD false) |>.getD x

/-- A leaf fills the TLB (R307); one that the TLB holds word for word already, from another walk of its page, is no second entry: that
is no conflict of R319. -/
def tlbFill (c : CoxId) (v p : Nat) (s : State) : State :=
  onCore c (fun k => if k.tlb.any (fun e => e.2.v == v && e.2.p == p) then k else { k with tlb := nput (fillIndex k) ⟨v, p, false⟩ k.tlb }) s

/-- A walk starts: it is counted, and an event of a deterministic core (R266; 09, Registers). -/
def noteWalk (c : CoxId) (s : State) : State := detEvent c 30 (s.count (F64 (.cox c) 0x318) 1)

/-- A miss asks for a walk (R309, R311 to R313), counted as it starts. -/
def startWalk (c : CoxId) (w : Walk) (s : State) : State :=
  if (core s c).walks.contains w then s
  else noteWalk c (onCore c (fun k => { k with walks := k.walks ++ [w] }) s)

/-- WALK_INFO of a walk fault. -/
def walkInfo (fetch : Bool) (kind resp level : Nat) : Nat := resp * 2 ^ 8 + level * 2 ^ 4 + bnat fetch * 8 + kind

/-! ### Caches (R251 to R253) -/

def lineOf (pa : Nat) : Nat := pa / 64
/-- Lines of the set that a line belongs to: 64 KiB, 4 ways. -/
def sameSet {α : Type} (line : Nat) (m : NMap α) : NMap α := m.filter (fun p => p.1 % 256 == line % 256)

/-- A read of n bytes meets a word of a line that holds an error. -/
def Line.meets (l : Line) (pa n : Nat) : Bool := l.bad.any (fun w => decide (pa % 64 < 8 * w + 8) && decide (8 * w < pa % 64 + n))

/-- Words of a line that has just been written back have poison, or in DDR5 check symbols that read as uncorrectable (R253); an
armed mask that met the write is seen in them (R152). -/
def poisonWords (line : Nat) (bad : List Nat) (s : State) : State :=
  forAll bad (fun w s =>
    let a := line * 64 + 8 * w
    if inCourse a || inCrew a then setPattern a (patternOf s a ^^^ poison) s
    else if inDdr s a then { s with ddrErr := nput (line * 64) [0, 1] s.ddrErr } else s) s

/-- Write a line back to its memory, words that hold an error with poison, which is a store error of KIND 2 (R251, R253, R260). -/
def writeBackLine (c : CoxId) (line : Nat) (l : Line) (s : State) : State :=
  if l.dirty then
    let (s, code) := cpuWrite c (line * 64) l.data s
    if code ≠ 0 then storeError c (line * 64) code 64 1 s
    else if l.bad.isEmpty then s
    else storeError c (line * 64) 0 64 2 (poisonWords line l.bad s)
  else s

/-- Make room in a line's set of the data cache: pseudo-LRU picks the way (notes/assumptions/1.md). -/
def dcRoom (c : CoxId) (line : Nat) (s : State) : State :=
  let set := sameSet line (core s c).dcache
  if set.length < 4 then s
  else
    let (k, s) := s.fresh
    match set[(Config.plruWay k).val]? with
    | some (i, l) => writeBackLine c i l (onCore c (fun k => { k with dcache := ndel i k.dcache }) s)
    | none => s

def dcPut (c : CoxId) (line : Nat) (l : Line) (s : State) : State :=
  onCore c (fun k => { k with dcache := nput line l k.dcache }) s

/-- Bring a line into the data cache: state, response, address of a failing word. -/
def dcFill (c : CoxId) (line : Nat) (s : State) : State × Nat × Nat :=
  match nget line (core s c).dcache with
  | some _ => (s, 0, 0)
  | none =>
    let g := cpuRead c (line * 64) 64 s
    if g.code ≠ 0 then (g.st, g.code, g.at_) else (dcPut c line ⟨g.data, false, []⟩ (dcRoom c line g.st), 0, 0)

/-- A clean line whose error a read meets is dropped, to be fetched again; no register counts the correction (R253). -/
def dcHeal (c : CoxId) (pa n : Nat) (s : State) : State :=
  match nget (lineOf pa) (core s c).dcache with
  | some l => if !l.dirty && l.meets pa n then onCore c (fun k => { k with dcache := ndel (lineOf pa) k.dcache }) s else s
  | none => s

def lineBytes (l : List Byte) (pa n : Nat) : List Byte := (l.drop (pa % 64)).take n

/-- Overwrite bytes of a line. -/
def lineWrite (l : List Byte) : List (Nat × Byte) → List Byte
  | [] => l
  | (o, b) :: rest => lineWrite (l.set o b) rest

/-- Stores reach a line: it is dirty, and a word written whole holds no error any more. -/
def Line.store (l : Line) (bs : List (Nat × Byte)) : Line :=
  ⟨lineWrite l.data bs, true, l.bad.filter (fun w => (List.range 8).any (fun i => !(bs.any (fun b => b.1 == 8 * w + i))))⟩

/-- A store covers part of a word of the line that holds an error. -/
def Line.partly (l : Line) (bs : List (Nat × Byte)) : Bool :=
  (l.store bs).bad.any (fun w => bs.any (fun b => b.1 / 8 == w))

/-- Clean a line, and drop it where the operation invalidates (R216). -/
def dcMaintain (c : CoxId) (clean inval : Bool) (line : Nat) (s : State) : State :=
  match nget line (core s c).dcache with
  | none => s
  | some l =>
    let s := if clean then writeBackLine c line l s else s
    if inval then onCore c (fun k => { k with dcache := ndel line k.dcache }) s
    else if clean then dcPut c line { l with dirty := false } s else s

def icPut (c : CoxId) (line : Nat) (bs : List Byte) (s : State) : State :=
  let set := sameSet line (core s c).icache
  let (s, out) := if set.length < 4 then (s, none) else (let (k, s) := s.fresh; (s, (set[(Config.plruWay k).val]?).map (·.1)))
  onCore c (fun k => { k with icache := nput line ⟨bs, false, []⟩ (match out with
    | some i => ndel i k.icache
    | none => k.icache) }) s

/-! ### The store buffer (R257 to R261) -/

/-- A part of a store: physical address, bytes, MEM, whether it is cacheable. -/
structure StPart where
  pa : Nat
  bs : List Byte
  mem : Nat
  cached : Bool
deriving DecidableEq, Repr

def StPart.block (p : StPart) : Nat := p.pa / 64
def putOffs (pa : Nat) (bs : List Byte) (m : NMap Byte) : NMap Byte :=
  (bs.zipIdx).foldl (fun m b => nput (pa % 64 + b.2) b.1 m) m

/-- Whether a part merges into the newest entry (R257, R303): not in deterministic mode, nor for device memory or register
space; own: the entry is the store's own. -/
def merges (k : Core) (own : Bool) (p : StPart) (e : SbEnt) : Bool :=
  e.block == p.block && e.mem == p.mem && e.cached == p.cached && (own || (!k.det && p.mem != 0 && !inSpace p.pa))

/-- A store's part enters the buffer. -/
def sbPart (k : Core) (own : Bool) (p : StPart) (sb : List SbEnt) : List SbEnt :=
  match sb.getLast? with
  | some e =>
    if merges k own p e then sb.dropLast ++ [{ e with bytes := putOffs p.pa p.bs e.bytes }]
    else sb ++ [⟨p.block, putOffs p.pa p.bs [], p.cached, p.mem, k.cyc⟩]
  | none => [⟨p.block, putOffs p.pa p.bs [], p.cached, p.mem, k.cyc⟩]

/-- A store enters the buffer: one entry for each block it touches. -/
def sbStore (k : Core) (ps : List StPart) (sb : List SbEnt) : List SbEnt :=
  (ps.zipIdx).foldl (fun sb p => sbPart k (p.2 != 0) p.1 sb) sb

/-- Contiguous runs of an entry's bytes: offset and bytes. -/
def runsOf : NMap Byte → List (Nat × List Byte)
  | [] => []
  | (o, b) :: m =>
    match runsOf m with
    | (p, bs) :: rest => if p = o + 1 then (o, b :: bs) :: rest else (o, [b]) :: (p, bs) :: rest
    | [] => [(o, [b])]

/-- A clean line whose error a store of part of a word meets is dropped, to be fetched again (R253). -/
def dcMend (c : CoxId) (e : SbEnt) (s : State) : State :=
  match nget e.block (core s c).dcache with
  | some l => if !l.dirty && l.partly e.bytes then onCore c (fun k => { k with dcache := ndel e.block k.dcache }) s else s
  | none => s

/-- An entry is written to its target, or into the data cache, which allocates on a write miss; an error response leaves its
bytes unwritten and waits to be reported (R251, R253, R257, R260). -/
def drainEntry (c : CoxId) (e : SbEnt) (s : State) : State :=
  let first := e.block * 64 + ((e.bytes.head?).map (·.1)).getD 0
  if e.cached then
    let (s, code, _) := dcFill c e.block (dcMend c e s)
    if code ≠ 0 then storeError c first code e.bytes.length 0 s
    else match nget e.block (core s c).dcache with
      | some l => dcPut c e.block (l.store e.bytes) s
      | none => s
  else
    (runsOf e.bytes).foldl (fun s r =>
      let (s, code) := cpuWrite c (e.block * 64 + r.1) r.2 s
      if code = 0 then s else storeError c (e.block * 64 + r.1) code r.2.length 0 s) s

/-! ### Loads (R230, R254 to R263) -/

/-- An entry holds a byte of a physical address. -/
def SbEnt.byte (e : SbEnt) (pa : Nat) : Option Byte := if e.block = pa / 64 then nget (pa % 64) e.bytes else none
def SbEnt.touches (e : SbEnt) (as : List Nat) : Bool := as.any (fun a => (e.byte a).isSome)
/-- The physical addresses of a load's bytes. -/
def bytesAt (parts : List (Nat × Nat × Nat)) : List Nat := parts.flatMap (fun p => (List.range p.2.2).map (p.2.1 + ·))

/-- Data of a part from the data cache or its target: state, data, cause of a failure with response and address. -/
def readPart (c : CoxId) (cached : Bool) (pa n : Nat) (s : State) : State × List Byte × Option (Nat × Nat × Nat) :=
  if cached then
    let (s, code, at_) := dcFill c (lineOf pa) (dcHeal c pa n s)
    if code ≠ 0 then (s, List.replicate n 0, some (if code = rUe then 0x14 else 0x15, code, if code = rUe then at_ else pa))
    else match nget (lineOf pa) (core s c).dcache with
      | some l => if l.meets pa n then (s, List.replicate n 0, some (0x14, rUe, pa / 8 * 8)) else (s, lineBytes l.data pa n, none)
      | none => (s, List.replicate n 0, none)
  else
    let g := cpuRead c pa n s
    if g.code = rUe then (g.st, List.replicate n 0, some (0x14, g.code, g.at_))
    else if g.code ≠ 0 then (g.st, List.replicate n 0, some (0x15, g.code, pa))
    else (g.st, g.data, none)

/-- The parts of a load in turn, up to one that fails. -/
def readParts (c : CoxId) (parts : List (Nat × Nat × Nat)) (cached : Nat → Bool) (s : State) :
    State × List Byte × Option (Nat × Nat × Nat) :=
  parts.foldl (fun (acc : State × List Byte × Option (Nat × Nat × Nat)) p =>
    let (s, d, bad) := acc
    match bad with
    | some _ => (s, d ++ List.replicate p.2.2 0, bad)
    | none => let (s, d', b) := readPart c (cached p.2.1) p.2.1 p.2.2 s
              (s, d ++ d', b)) (s, [], none)

/-- Q of a load (R229): OP 0 LD8U, 1 LD8S, 2 LD16U, 3 LD16S, 4 LD32U, 5 LD32S, 6 LD64. -/
def loadSize (op : Nat) : Nat := 2 ^ (op / 2)
def loadValue (op : Nat) (d : List Byte) : Nat :=
  let v := leNat d
  if op % 2 = 1 then wrap 64 (sgn (8 * loadSize op) v) else v

/-- A load in flight with what it has read: its result, or the exception that it raises at its hold point. -/
def Flight.reads (f : Flight) (l : LoadOp) (data : List Byte) (bad : Option (Nat × Nat × Nat)) : Flight :=
  let f := { f with load := some { l with data := data, late := false }, writes := [(portOf f.unit 0, loadValue l.op data)] }
  match bad with
  | some (x, resp, a) => { f with exc := some x, eaddr := a, whr := if x = 0x15 then resp else f.whr }
  | none => f

/-- An entry that a load overlaps is older than the load. -/
def SbEnt.before (e : SbEnt) (f : Flight) (l : LoadOp) : Bool := decide (e.at_ < f.start) && e.touches (bytesAt l.parts)

/-- Loads of a deterministic core that waited for the stores they overlap read their targets once these have drained (R259). -/
def lateLoads (c : CoxId) (s : State) : State :=
  let (s, l) := (core s c).flight.foldl (fun (acc : State × List Flight) f =>
    match f.load with
    | some l =>
      if l.late && !(core acc.1 c).sb.any (fun e => e.before f l) then
        let (s, d, bad) := readParts c l.parts (fun _ => false) acc.1
        (s, acc.2 ++ [f.reads l d bad])
      else (acc.1, acc.2 ++ [f])
    | none => (acc.1, acc.2 ++ [f])) (s, [])
  onCore c (fun k => { k with flight := l }) s

/-- Some load in flight has not read yet. -/
def anyLate (k : Core) : Bool := k.flight.any (fun f => ((f.load.map (·.late)).getD false))

/-- The oldest entry drains; a load that waited for it reads (R257, R259). -/
def drainOldest (c : CoxId) (s : State) : State :=
  match (core s c).sb with
  | [] => s
  | e :: rest =>
    let s := drainEntry c e (onCore c (fun k => { k with sb := rest }) s)
    if anyLate (core s c) then lateLoads c s else s

/-- The n oldest entries drain. -/
def drainFirst (c : CoxId) : Nat → State → State
  | 0, s => s
  | n + 1, s => drainFirst c n (drainOldest c s)

def drainAll (c : CoxId) (s : State) : State := drainFirst c (core s c).sb.length s

/-- A deterministic core's entries for Crew banks are written 4 issue cycles after their stores (R257). -/
def drainDue (c : CoxId) : Nat → State → State
  | 0, s => s
  | n + 1, s =>
    match (core s c).sb with
    | e :: _ => if (core s c).det && inCrew (e.block * 64) && e.at_ + 4 ≤ (core s c).cyc then drainDue c n (drainOldest c s) else s
    | [] => s

/-- Every load that waits reads, after the entries that it waits for (R280). -/
def finishLate (c : CoxId) (s : State) : State :=
  let k := core s c
  let n := (k.sb.zipIdx).foldl (fun n e => if k.flight.any (fun f => match f.load with
    | some l => l.late && e.1.before f l
    | none => false) then e.2 + 1 else n) 0
  drainFirst c n s

/-- What a load found: data, a failure as cause, response and address, whether it hit the data cache or a store, whether it is still
to read. -/
structure Loaded where
  data : List Byte
  bad : Option (Nat × Nat × Nat)
  hit : Bool
  late : Bool
deriving DecidableEq, Repr

/-- Bytes read, with those of the buffered entries over them, the newest last. -/
def overStores (sb : List SbEnt) (as : List Nat) (d : List Byte) : List Byte :=
  (as.zip d).map (fun p => ((sb.filterMap (fun e => e.byte p.1)).getLast?).getD p.2)

/-- A load's data: one entry that holds every byte forwards them; entries it overlaps otherwise drain first. A deterministic core writes
its entries in cycles of their own: those for Crew banks are laid over what is read, and with another among them the load reads after
they have drained; then the data cache or the target (R230, R255, R257, R259). parts: virtual address, physical address, length;
cached: by part. -/
def loadData (c : CoxId) (parts : List (Nat × Nat × Nat)) (cached : Nat → Bool) (s : State) : State × Loaded :=
  let as := bytesAt parts
  let k := core s c
  let hits := (k.sb.zipIdx).filter (fun e => e.1.touches as)
  let fwd := match hits with
    | [(e, _)] => as.all (fun a => (e.byte a).isSome)
    | _ => false
  if fwd then (s, ⟨as.map (fun a => ((hits.head?.bind (fun e => e.1.byte a))).getD 0), none, true, false⟩)
  else if k.det && !hits.all (fun e => inCrew (e.1.block * 64)) then (s, ⟨[], none, false, true⟩)
  else
    let there (p : Nat × Nat × Nat) : Bool := ((nget (lineOf p.2.1) k.dcache).map (fun l => l.dirty || !l.meets p.2.1 p.2.2)).getD false
    let hit := hits.isEmpty && parts.all (fun p => cached p.2.1 && there p)
    let s := if k.det then s else drainFirst c ((hits.getLast?.map (·.2 + 1)).getD 0) s
    let r := readParts c parts cached s
    (r.1, ⟨if k.det then overStores (hits.map (·.1)) as r.2.1 else r.2.1, r.2.2, hit, false⟩)

/-- The oldest entry drains in its turn: a deterministic core's entry for a Crew bank not before its cycle (R257). -/
def drainTurn (c : CoxId) (s : State) : State :=
  match (core s c).sb with
  | e :: _ => if (core s c).det && inCrew (e.block * 64) && decide ((core s c).cyc < e.at_ + 4) then s else drainOldest c s
  | [] => s

/-! ### The timing of a deterministic core's Crew accesses (R263, R265) -/

/-- An access to a Crew bank that the core owns with QUIET set, its address, where it is translated, by a locked entry (R265). -/
def detSure (s : State) (c : CoxId) (va : Option Nat) (pa : Nat) : Bool :=
  inCrew pa && s.rd (ownFld (crewBank pa).1 3 0) == c.val && s.rd (ownFld (crewBank pa).1 4 4) == 1
  && (nget (crewBank pa).1 s.memx.ownNext).isNone
  && (!bit (core s c).xlate 0 || va.all (fun va => (core s c).tlb.any (fun e => entHits va e.2 && e.2.lock)))

/-- No other access to the bank is too near: 2 cycles, 6 after a store that leaves part of a word (R265). -/
def spaced (l : List BankAcc) (bank at_ : Nat) : Bool :=
  l.all (fun a => a.bank != bank || ((a.at_ + 2 ≤ at_ || at_ + 2 ≤ a.at_) && (!a.narrow || at_ < a.at_ || a.at_ + 6 ≤ at_)))

/-- The 32-byte accesses of the parts of a load or store (R263), at a cycle: the accesses with them, and whether all are spaced. -/
def bankAccesses (at_ : Nat) (narrow : Bool) (parts : List (Nat × Nat × Nat)) (l : List BankAcc) : List BankAcc × Bool :=
  ((parts.map (fun p => p.2.1 / 32)).eraseDups.map (fun b => (crewBank (b * 32)).1)).foldl
    (fun acc b => (acc.1 ++ [⟨b, at_, narrow⟩], acc.2 && spaced acc.1 b at_)) (l, true)

/-- A data access of a deterministic core is noted, and whether the conditions of R265 hold for it; again: a load that catch-up triggers,
which makes no lookup (R289). -/
def detAccess (c : CoxId) (at_ : Nat) (narrow again : Bool) (parts : List (Nat × Nat × Nat)) (s : State) : State × Bool :=
  let k := core s c
  if k.det then
    let (l, free) := bankAccesses at_ narrow parts (k.accs.filter (fun a => k.cyc ≤ a.at_ + 6))
    (onCore c (fun k => { k with accs := l }) s,
     free && parts.all (fun p => detSure s c (if again then none else some p.1) p.2.1 && !bit k.codeBanks (crewBank p.2.1).1))
  else (s, false)

/-! ### Fetch (R236, R240 to R242, R248, R249, R264) -/

/-- An exception of a fetch that the physical access raised: FETCH_UE or FETCH_BUS (R273). -/
def fetchExc (g : Got) (pa : Nat) : Exc :=
  if g.code = rUe then { groupExc 5 g.at_ 0 0 with phys := true } else { groupExc 6 pa 0 g.code with phys := true }

/-- A bundle as a read of its 16 bytes gave it. -/
def fetched (g : Got) (pa : Nat) : Fetched := if g.code = 0 then .got (leNat g.data) else .bad (fetchExc g pa)

/-- A walk that ended badly for this access, as an exception of the group that needs it (R311). -/
def walkExc (k : Core) (w : Walk) (addr unit whr : Nat) : Option Exc :=
  (k.faulted.find? (fun f => f.walk == w)).map (fun f => { groupExc f.cause addr unit whr with winfo := f.info, waddr := f.addr })

/-- XLATE and privilege under which fetch works: those before the write, for a shadow bundle (R248). -/
def fetchState (k : Core) : Nat × Bool := k.shadow.getD (k.xlate, k.user)

def heldAt (k : Core) (va : Nat) : Option Fetched := (k.queue.find? (fun q => q.1 = va)).map (·.2)

/-- The bundle at the program counter is in the queue and the first of a pair (R243). -/
def pairHeld (k : Core) : Bool :=
  match heldAt k k.pc with
  | some (.got w) => (bundleOf k.pc w).pair && !k.det
  | _ => false

/-- The bundles that fetch wants in the queue of four (R240): no further than a shadow or a delay bundle, with its pair, after which
it begins anew (R245, R248). -/
def fetchWindow (k : Core) : List Nat :=
  if k.shadow.isSome || k.xfer.isSome then k.pc :: (if pairHeld k then [k.pc + 16] else [])
  else (List.range 4).map (fun i => k.pc + 16 * i)

/-- The addresses that a level's copy takes: the first four bundles of its body (R249). -/
def LoopLev.slots (l : LoopLev) : List Nat := (List.range 4).map (fun i => l.start + 16 * i)
def LoopLev.holds (l : LoopLev) (va : Nat) : Bool := l.copy.any (fun b => b.1 == va)
/-- The bundle at an address enters the level's copy. -/
def LoopLev.takes (l : LoopLev) (va : Nat) : Bool := l.slots.contains va && !l.holds va

/-- The bundles of the loop copy that a return still fetches (R288): up to four, the last with LEND. -/
def copyWants (k : Core) : List Nat :=
  match k.catchup, k.loops with
  | some _, l :: _ => l.slots.filter l.takes
  | _, _ => []

/-- What fetch found is held with its bundle, where that is still wanted (R242, R312). -/
def keepBundle (c : CoxId) (va : Nat) (f : Fetched) (s : State) : State :=
  let k := core s c
  if (fetchWindow k ++ copyWants k).contains va ∧ (heldAt k va).isNone then
    onCore c (fun k => { k with queue := k.queue ++ [(va, f)] }) s
  else s

/-- An instruction-cache line that holds the bundle; one whose error the read meets is dropped, to be fetched again (R253). -/
def icHit (c : CoxId) (pa : Nat) (s : State) : State × Option Nat :=
  match nget (lineOf pa) (core s c).icache with
  | some l => if l.meets pa 16 then (onCore c (fun k => { k with icache := ndel (lineOf pa) k.icache }) s, none)
    else (s, some (leNat (lineBytes l.data pa 16)))
  | none => (s, none)

/-- Fetch of a bundle at a physical address: from the instruction cache, or, in deterministic mode, from a Crew bank under the
conditions of R265; else fetch begins to wait for it (R240, R241). -/
def fetchPa (c : CoxId) (va pa mem : Nat) (s : State) : State × Option Fetched :=
  let k := core s c
  let s := if k.det ∧ inCrew pa then onCore c (fun k => { k with codeBanks := setBit k.codeBanks (crewBank pa).1 true }) s else s
  if k.det && detSure s c (some va) pa then
    let g := cpuRead c pa 16 s
    (g.st, some (fetched g pa))
  else
    let cached := mem == 2 && !k.det && !inSpace pa
    let (s, hit) := if cached then icHit c pa s else (s, none)
    match hit with
    | some w => (s, some (.got w))
    | none => if k.miss.isSome then (s, none) else (onCore c (fun k => { k with miss := some ⟨va, pa, cached⟩ }) (detOutside c pa s), none)

/-- Fetch of a bundle: it is translated, a miss walked, a fault held with it (R312). -/
def fetchOne (c : CoxId) (va : Nat) (s : State) : State × Option Fetched :=
  let k := core s c
  match translate k (fetchState k).1 (fetchState k).2 .fetch va with
  | .fault x => (s, some (.bad (groupExc x va 0 0)))
  | .miss => (startWalk c ⟨va, 0, rootOf (fetchState k).1⟩ s, none)
  | .ok pa mem => fetchPa c va pa mem s

/-- A bundle from the queue, or fetched into it. -/
def fetchTo (c : CoxId) (va : Nat) (s : State) : State × Option Fetched :=
  match heldAt (core s c) va with
  | some f => (s, some f)
  | none =>
    match fetchOne c va s with
    | (s, some f) => (keepBundle c va f s, some f)
    | (s, none) => (s, none)

/-- Bundles in order, up to one that fetch waits for or that faults. -/
def fetchFrom (c : CoxId) : List Nat → State → State
  | [], s => s
  | va :: l, s =>
    match fetchTo c va s with
    | (s, some (.got _)) => fetchFrom c l s
    | (s, _) => s

/-- What fetch delivers in a core cycle (R240): of the bundles that it wants, those of the aligned 32-byte block of the first that the queue
does not hold; a deterministic core's fetch that one bundle; none behind a bundle that it cannot read. -/
def blockWanted (k : Core) : List Nat :=
  match (fetchWindow k).find? (fun va => match heldAt k va with
    | some (.got _) => false
    | _ => true) with
  | some va => if (heldAt k va).isSome then [] else if k.det then [va] else (fetchWindow k).filter (fun x => va ≤ x && x / 32 == va / 32)
  | none => []

/-- Fetch runs ahead by one delivery a cycle into the queue of 4 bundles (R240); a bundle delivered in a cycle may issue in it: a DESIGN
CHOICE (notes/assumptions/62.md). -/
def fetchAhead (c : CoxId) (s : State) : State :=
  let s := onCore c (fun k => { k with queue := k.queue.filter (fun q => (fetchWindow k ++ copyWants k).contains q.1) }) s
  match blockWanted (core s c) with
  | [] => s
  | va :: l =>
    let s := fetchFrom c (va :: l) s
    if (core s c).det then s else fetchFrom c ((fetchWindow (core s c)).filter (fun x => va ≤ x && x / 32 == va / 32)) s

/-- The missing line or block arrives (R241): a line fills the instruction cache, unless a word of it cannot be read; then, as for a
block that is not cacheable, only what was read of the bundle itself is held (R146, R242). -/
def lineArrives (c : CoxId) (s : State) : State :=
  match (core s c).miss with
  | none => s
  | some m =>
    let s := onCore c (fun k => { k with miss := none }) s
    let own := cpuRead c m.pa 16 s
    if m.cached then
      let g := cpuRead c (m.pa / 64 * 64) 64 s
      if g.code = 0 then icPut c (lineOf m.pa) g.data g.st
      else if g.code = rUe then keepBundle c m.va (fetched own m.pa) g.st
      else keepBundle c m.va (.bad (fetchExc g m.pa)) g.st
    else keepBundle c m.va (fetched own m.pa) own.st

/-! ### Walks (R309 to R313, R316) -/

/-- Whether an access is cacheable (R251). -/
def cacheable (k : Core) (pa mem : Nat) : Bool := mem == 2 && !k.det && !inSpace pa

/-- PREFETCH: a walk for a miss, a fill for a cacheable page; nothing else (R313). -/
def prefetchLine (c : CoxId) (va : Nat) (s : State) : State :=
  let k := core s c
  match translate k k.xlate k.user .load va with
  | .ok pa mem => if cacheable k pa mem then (dcFill c (lineOf pa) s).1 else s
  | .miss => startWalk c ⟨va, 2, rootOf k.xlate⟩ s
  | .fault _ => s

/-- A walk ended with no translation or a fault: held with the bundle or for the group that asked, dropped for a prefetch. -/
def walkFails (c : CoxId) (w : Walk) (cause info addr : Nat) (s : State) : State :=
  match w.kind with
  | 0 =>
    if w.root = rootOf (fetchState (core s c)).1 then
      keepBundle c w.va (.bad { groupExc cause w.va 0 0 with winfo := info, waddr := addr }) s
    else s
  | 1 => onCore c (fun k => { k with faulted := k.faulted ++ [⟨w, cause, info, addr⟩] }) s
  | _ => s

/-- The outcome of a walk that is not discarded (R310); one of a prefetch leaves a log only if it is a translation (R313). -/
def walkResult (c : CoxId) (w : Walk) (s : State) : State :=
  match walkTables c w.root w.va s with
  | (s, .leaf v p) =>
    let s := tlbFill c v p s
    if w.kind = 2 then prefetchLine c w.va s else s
  | (t, .nothing) => if w.kind = 2 then s else walkFails c w (if w.kind = 0 then 1 else 0x10) 0 0 t
  | (t, .bad kind resp level addr) =>
    if w.kind = 2 then s else walkFails c w (if w.kind = 0 then 2 else 0x11) (walkInfo (w.kind == 0) kind resp level) addr t

/-- The reads of a walk whose result is discarded; a prefetch's leave no log (R313, R316). -/
def walkReads (c : CoxId) (w : Walk) (s : State) : State :=
  match walkTables c w.root w.va s with
  | (t, .leaf ..) => t
  | (t, _) => if w.kind = 2 then s else t

/-- WALK_COMPLETE: the walk in progress ends. One that began before a broadcast arrived has its result discarded and is started
again (R316). -/
def walkEnds (c : CoxId) (s : State) : State :=
  match (core s c).walks with
  | [] => s
  | w :: rest =>
    if (core s c).staleWalk then
      noteWalk c (onCore c (fun k => { k with staleWalk := false }) (walkReads c w s))
    else walkResult c w (onCore c (fun k => { k with walks := rest }) s)

/-- The walks that wait are served, in the order in which they missed (R309). -/
def serveWalks (c : CoxId) : Nat → State → State
  | 0, s => s
  | n + 1, s => serveWalks c n (walkEnds c s)

end Sys2Proof.Machine
end

