-- ==== Sys2Proof/Machine/CoxFlight.lean ====
section
/-!
DEFINITION. Operations in flight on a Cox (06, R205, R206; 07, R236 to R239): what a trigger of an arithmetic unit starts, and
how results land in issue cycles.
-/
namespace Sys2Proof.Machine

/-- An operation of a trigger in an issue cycle, with a latency and the result ports it writes. -/
def flightOf (g : Trig) (cyc lat : Nat) (writes : List (Nat × Nat)) : Flight :=
  ⟨g.unit, g.off, cyc, cyc + lat, writes, 0, [], none, 0, none, 0, g.t, 0, 0, false, g.va, g.whr, false, none⟩

/-- An operation of a floating-point unit or compare: its flags join FPENV, its trap waits (R215, R331). -/
def fpFlight (g : Trig) (cyc : Nat) (writes : List (Nat × Nat)) (o : FpOut) (o1 o2 env : Nat) : Flight :=
  { flightOf g cyc (latency g.unit g.off) writes with sticky := o.flags * 256, exc := o.cause, o1 := o1, o2 := o2, env := env }

/-- Whether an operation of FPU1 uses O1 (R226), and whether one is of the divider. -/
def fpu1Two (off : Nat) : Bool := off == 8 || off == 10
def fpu1Div (off : Nat) : Bool := off < 12

/-- The flight of an FPU1 operation. -/
def fpu1Flight (g : Trig) (cyc o1 env : Nat) : Flight :=
  let o := fpu1Op g.off o1 g.t env
  let w := if fpu1Div g.off then [(0x1A0, o.q), (0x1A2, o.flags)] else [(0x1A1, o.q), (0x1A3, o.flags)]
  fpFlight g cyc w o (if fpu1Two g.off then o1 else 0) 0 env

/-- The flight of a DIV operation. -/
def divFlight (g : Trig) (cyc o1 : Nat) : Flight :=
  let (q, r, fl) := divOp g.off o1 g.t
  { flightOf g cyc (latency 7 g.off) [(0x160, q), (0x161, r), (0x162, fl)] with o1 := o1 }

/-- The predicates that a compare writes: p(PT) and, inverted, p(PF); p0 never; where both name one predicate the spec does not
say which stays (notes/assumptions/1.md). -/
def cmpPreds (dest : Nat) (cond same : Bool) : List (Nat × Bool) :=
  let pt := bits dest 3 0
  let pf := bits dest 7 4
  if pt = pf then (if pt = 0 then [] else [(pt, same)])
  else (if pt = 0 then [] else [(pt, cond)]) ++ (if pf = 0 then [] else [(pf, !cond)])

/-- The flight of an operation of units 3 to 11 and BITS, from the sampled operands; same: the free choice of cmpPreds. -/
def unitFlight (k : Core) (g : Trig) (o1 o2 conf : Nat) (same : Bool) : Flight :=
  let base := portOf g.unit 0
  let lat := latency g.unit g.off
  match g.unit with
  | 3 | 4 =>
    let (q, fl) := aluOp g.off o1 g.t (bnat (bit (resPort k (base + 2)) 1))
    flightOf g k.cyc lat [(base, q), (base + 2, fl)]
  | 5 => flightOf g k.cyc lat [(base, shiftOp g.off o1 o2 g.t)]
  | 6 =>
    let (q, q2) := mulOp g.off o1 g.t
    flightOf g k.cyc lat [(base, q), (base + 1, q2)]
  | 7 => divFlight g k.cyc o1
  | 8 =>
    let o := fpu0Op g.off o1 o2 g.t k.fpenv
    fpFlight g k.cyc [(base, o.q), (base + 2, o.flags)] o o1 (if g.off % 8 = 3 ∨ g.off % 8 = 4 then o2 else 0) k.fpenv
  | 9 => fpu1Flight g k.cyc o1 k.fpenv
  | 10 =>
    let (q, fl) := decOp g.off o1 g.t
    { flightOf g k.cyc lat [(base, q), (base + 2, fl)] with
      exc := if bit fl 1 && bit conf 0 then some 0x1A else none, o1 := if g.off < 10 then o1 else 0 }
  | 11 =>
    let o := cmpOp g.off o1 g.t k.fpenv
    { fpFlight g k.cyc [(base, o.q), (base + 2, o.flags)] o o1 0 k.fpenv with
      preds := if o.cause.isSome then [] else cmpPreds conf (o.q == 1) same }
  | _ => flightOf g k.cyc lat [(base, bitsOp g.off o1 o2 g.t)]

/-- An operation starts; one that is not pipelined abandons its predecessor (R206). -/
def addFlight (c : CoxId) (f : Flight) (s : State) : State :=
  onCore c (fun k =>
    let keep (x : Flight) : Bool := !((f.unit == 7 && x.unit == 7) || (f.unit == 9 && x.unit == 9 && fpu1Div f.off && fpu1Div x.off))
    { k with flight := k.flight.filter keep ++ [f] }) s

/-- A trigger of units 3 to 11 or 18; only a compare that names one predicate twice takes a free value. -/
def fireUnit (c : CoxId) (g : Trig) (s : State) : State :=
  let conf := operandPort s c g.unit 1
  let o1 := operandPort s c g.unit 0
  if g.unit = 11 ∧ bits conf 3 0 = bits conf 7 4 ∧ bits conf 3 0 ≠ 0 then
    let (i, s) := s.fresh
    addFlight c (unitFlight (core s c) g o1 conf conf ((Config.openWord i).getLsbD 0)) s
  else addFlight c (unitFlight (core s c) g o1 conf conf false) s

/-- Issue cycles to a load's hold point (R254). -/
def holdPoint (k : Core) : Nat := if k.det then 8 else 4

/-- A load performs its parts and is in flight until its data arrives; those of a deterministic core arrive in time under the
conditions of R265 (R229, R254, R255, R259); cached: by physical address. -/
def fireLoad (c : CoxId) (g : Trig) (op o1 : Nat) (parts : List (Nat × Nat × Nat)) (cached : Nat → Bool) (again : Bool)
    (s : State) : State :=
  let k := core s c
  let s := forAll parts (fun p s => detOutside c p.2.1 s) s
  let (s, sure) := detAccess c (k.cyc + 3) false again parts s
  let crew := sure && !k.sb.any (fun e => e.touches (bytesAt parts))
  let (s, d) := loadData c parts cached s
  let f := flightOf g k.cyc (holdPoint k) [(portOf g.unit 0, loadValue op d.data)]
  let ld : LoadOp := ⟨op, parts, d.data, d.hit || crew, d.hit, parts.any (fun p => inSpace p.2.1), d.late⟩
  let f := { f with load := some ld, o1 := o1, catchup := again }
  addFlight c (if d.late then f else f.reads ld d.data d.bad) s

/-! ### Landing (R205, R238, R274, R276) -/

/-- The operation has its result: a load its data, a slow operation its end. -/
def Flight.ready (f : Flight) : Bool := !f.slow && ((f.load.map (·.arrived)).getD true)

/-- Order of completion exceptions (R276). -/
def excRank (f : Flight) : Nat :=
  match f.unit with
  | 12 => 0
  | 13 => 1
  | 8 => 2
  | 9 => if fpu1Div f.off then 3 else 4
  | 11 => 5
  | _ => 6

/-- The completion exception of an operation (R274, R280, R284). -/
def Flight.exception (f : Flight) (cause : Nat) : Exc :=
  let phys := cause == 0x14 || cause == 0x15
  ⟨cause, if phys then f.eaddr else f.va % 2 ^ 48, phys, f.unit, f.whr, true, f.catchup && f.load.isSome, false, f.o1, f.t, f.o2, 0, 0⟩

/-- Results, flags and predicates of an operation are written. -/
def landFlight (k : Core) (f : Flight) : Core :=
  { k with
    res := f.writes.foldl (fun m w => nput w.1 w.2 m) k.res
    fpenv := k.fpenv ||| f.sticky
    preds := f.preds.foldl (fun p w => setBit p w.1 w.2) k.preds }

/-- Insert by a key, behind equals. -/
def insertKey {α : Type} (key : α → Nat) (x : α) : List α → List α
  | [] => [x]
  | y :: l => if key x < key y then x :: y :: l else y :: insertKey key x l
def sortKey {α : Type} (key : α → Nat) (l : List α) : List α := l.foldl (fun a x => insertKey key x a) []

/-- Some operations complete, in order of their cycles and then of their triggers; their exceptions become due. -/
def complete (c : CoxId) (due : List Flight) (s : State) : State :=
  let s := onCore c (fun k => (sortKey (·.land) due).foldl landFlight k) s
  forAll (sortKey (fun f => f.land * 8 + excRank f) due) (fun f s => match f.exc with
    | some x => raise c (f.exception x) s
    | none => s) s

/-- Every ready operation whose cycle has come lands, and a deterministic core's stores reach their banks. -/
def settle (c : CoxId) (s : State) : State :=
  let k := core s c
  let due (f : Flight) : Bool := f.ready && f.land ≤ k.cyc
  let s := complete c (k.flight.filter due) (onCore c (fun k => { k with flight := k.flight.filter (fun f => !due f) }) s)
  drainDue c (core s c).sb.length s

/-- Core cycles of a core that its own steps make (R208, R237). -/
def Core.cycles (k : Core) (n : Nat) : Core := { k with quarters := k.quarters + 4 * n, ahead := k.ahead + 4 * n }
/-- Issue cycles of a core (R236). -/
def Core.runs (k : Core) (n : Nat) : Core := { k.cycles n with cyc := k.cyc + n, frozen := none }

/-- Issue cycles pass; some of them want a fetched bundle (R236, COX_COREn_BUBBLE). -/
def passCycles (c : CoxId) (n bubbles : Nat) (s : State) : State :=
  settle c ((onCore c (fun k => k.runs n) s).count (F64 (.cox c) 0x128) bubbles)

/-- A load or slow operation at its hold point whose result has not come (R254, R256). -/
def heldUp (k : Core) : Bool := k.flight.any (fun f => !f.ready && f.land ≤ k.cyc)

/-- A frozen cycle (R236); a freeze of one cause is one event of a deterministic core (R266), and the cycle lies between its accesses
before and after it (R265). limit: store-buffer entries with which the group could enter. -/
def freeze (c : CoxId) (cause limit : Nat) (s : State) : State :=
  let s := if (core s c).frozen.map (·.1) = some cause then s else detEvent c cause s
  (onCore c (fun k => { k.cycles 1 with
    frozen := some (cause, limit)
    accs := k.accs.map (fun a => if a.at_ < k.cyc then { a with at_ := a.at_ - 1 } else a) }) s).count (F64 (.cox c) 0x120) 1

/-- The core is frozen: an operation at its hold point, or a group whose stores the buffer cannot take (R236). -/
def isFrozen (k : Core) : Bool := heldUp k || (match k.frozen with
  | some (27, limit) => decide (limit < k.sb.length)
  | _ => false)

/-- A load whose data have not come, and may: every older store that a deterministic core's load overlaps has drained (R254, R259). -/
def Flight.awaited (k : Core) (f : Flight) : Bool :=
  match f.load with
  | some l => !l.arrived && !(k.det && k.sb.any (fun e => decide (e.at_ < f.start) && e.touches (bytesAt l.parts)))
  | none => false

/-- Issue cycles of a transfer's cost, which the core begins with its next group where an operation reaches its hold point or an exception
is due meanwhile (R236, R246, R254). -/
def payCycles (c : CoxId) : Nat → State → State
  | 0, s => s
  | n + 1, s =>
    if heldUp (core s c) || (core s c).exc.isSome then onCore c (fun k => { k with gap := k.gap + (n + 1) }) s
    else payCycles c n (passCycles c 1 1 s)

/-- LOAD_DATA_ARRIVAL: the data of the oldest load that waits arrive (R254). -/
def dataArrives (c : CoxId) (s : State) : State :=
  let mark (k : Core) : List Flight :=
    match k.flight.span (fun f => !f.awaited k) with
    | (a, f :: b) => a ++ { f with load := f.load.map (fun x => { x with arrived := true }) } :: b
    | (a, []) => a
  settle c (onCore c (fun k => { k with flight := mark k }) s)

/-- A SUBMIT that waited for the store buffer is submitted (R27, R231). -/
def submitNow (c : CoxId) (f : Flight) (s : State) : State :=
  match f.todo with
  | some (h, t) =>
    let s := admitDirect 9 c h t false (drainFirst c ((core s c).sb.filter (fun e => decide (e.at_ ≤ f.start))).length s)
    onCore c (fun k => { k with flight := k.flight.map (fun x => if x = f then { x with todo := none, writes := [(0x240, s.vec.status[c])] } else x) }) s
  | none => s

/-- The result of the slow operation of an LSU or of VEC that is due first has come (R256); the handle unit's comes from the Stakeboat. -/
def slowEnds (c : CoxId) (s : State) : State :=
  match sortKey (·.land) (core s c).flight with
  | [] => s
  | f :: _ =>
    if f.slow && f.unit != 15 && decide (f.land ≤ (core s c).cyc) then
      let s := submitNow c f s
      let mark (l : List Flight) : List Flight :=
        match l.span (fun x => !(x.slow && x.unit == f.unit && x.land == f.land)) with
        | (a, x :: b) => a ++ { x with slow := false } :: b
        | (a, []) => a
      settle c (onCore c (fun k => { k with flight := mark k.flight }) s)
    else s

/-- OPERATION_COMPLETE: the operation that is readable first delivers its result; the cycles until then pass with no group, which
none do while the core is frozen or an exception is due (R205, R236, R256, R280). -/
def operationEnds (c : CoxId) (s : State) : State :=
  let k := core s c
  match sortKey id (k.flight.map (·.land)) with
  | [] => s
  | l :: _ =>
    let n := l - k.cyc
    slowEnds c (if k.catchup.isNone ∧ k.exc.isNone ∧ !isFrozen k ∧ k.cyc < l then
      passCycles c n (if k.miss.isSome then n else min n k.gap) (onCore c (fun k => { k with gap := k.gap - n }) s) else s)

end Sys2Proof.Machine
end

