-- ==== Sys2Proof/Machine/CoxTrap.lean ====
section
/-!
DEFINITION. Exceptions and interrupts of a Cox (08): save sets, entry, return and catch-up.
-/
namespace Sys2Proof.Machine

/-! ### The state words of a level (R284, R285) -/

/-- The volatile Q ports in the order of words 6 to 18. -/
def volatilePorts : List Nat :=
  [0x0E0, 0x100, 0x120, 0x140, 0x141, 0x160, 0x161, 0x180, 0x1A0, 0x1A1, 0x200, 0x220, 0x2C0]
/-- The volatile flags ports with their place in VFLAGS: port, high bit, low bit. -/
def volatileFlags : List (Nat × Nat × Nat) :=
  [(0x0E2, 3, 0), (0x102, 7, 4), (0x162, 9, 8), (0x182, 15, 10), (0x1A2, 21, 16), (0x1A3, 27, 22)]

/-- Virtual address bits [47:4]. -/
def vaField (va : Nat) : Nat := bits va 47 4

/-- Issue cycles for which an operation has run at s; a load goes no further than its hold point (R279). -/
def elapsedAt (k : Core) (f : Flight) : Nat := min (k.cyc - f.start) (f.land - f.start)

/-- A load entry (R285). -/
def loadEntry (k : Core) (f : Flight) : Nat :=
  match f.load with
  | some l => 2 ^ 63 + l.op * 2 ^ 59 + elapsedAt k f * 2 ^ 55 + ((l.parts.head?).map (·.2.1)).getD 0
  | none => 0

/-- What an entry puts into the words beside the live state. -/
structure EntryInfo where
  cause : Nat
  orig : Nat
  /-- FAULT_INFO, word 2. -/
  info : Nat
  /-- Words 19 [63:32] and 20 to 31. -/
  rec19 : Nat
  rec_ : List Nat
deriving DecidableEq, Repr

/-- The 32 words that an entry saves (R284, R291). -/
def saveWords (k : Core) (i : EntryInfo) : List Nat :=
  let lev (n : Nat) (f : LoopLev → Nat) : Nat := ((k.loops[n]?).map f).getD 0
  let (xk, xt) := match k.xfer with
    | some x => (x.kind, if x.kind = 4 ∨ x.kind = 5 then x.target else vaField x.target)
    | none => (0, 0)
  [ k.preds / 2 % 2 ^ 15 * 2 ^ 44 + vaField k.pc,
    i.cause * 2 ^ 58 + i.orig * 2 ^ 52 + k.maskLev * 2 ^ 49 + bnat k.user * 2 ^ 48 + bnat k.sua * 2 ^ 47 + xk * 2 ^ 44 + xt,
    i.info,
    lev 1 (·.count) * 2 ^ 32 + lev 0 (·.count),
    k.fpenv * 2 ^ 44 + lev 0 (fun l => vaField l.start),
    lev 1 (fun l => vaField l.start) ]
  ++ volatilePorts.map (resPort k)
  ++ [i.rec19 + volatileFlags.foldl (fun a p => a + resPort k p.1 % 2 ^ (p.2.1 + 1 - p.2.2) * 2 ^ p.2.2) 0]
  ++ i.rec_

/-- FAULT_INFO of an exception (R284, word 2). -/
def infoWord (e : Exc) : Nat :=
  bnat e.phys * 2 ^ 63 + bnat e.multi * 2 ^ 62 + bnat e.catchup * 2 ^ 61 + e.unit % 32 * 2 ^ 56 + e.whr % 256 * 2 ^ 48
  + e.addr % 2 ^ 48

/-! ### Accesses that an entry or a return makes itself -/

/-- A data exception of such an access. -/
def ownExc (cause addr : Nat) (phys : Bool) (resp : Nat) : Exc := { groupExc cause addr 0 resp with phys := phys, addr := addr }

/-- Translation at privilege S with a walk made on the spot, behind the walks that wait (R309): state, physical address or exception. -/
def translateNow (c : CoxId) (acc : CpuAcc) (va : Nat) (s : State) : State × Except Exc Nat :=
  let t (s : State) : Tx := translate (core s c) (core s c).xlate false acc va
  let fault (x : Nat) : Except Exc Nat := .error (ownExc x va false 0)
  match t s with
  | .ok pa _ => (s, .ok pa)
  | .fault x => (s, fault x)
  | .miss =>
    let s := noteWalk c (serveWalks c ((core s c).walks.length + 1) s)
    match walkTables c (rootOf (core s c).xlate) va s with
    | (s, .leaf v p) =>
      let s := tlbFill c v p s
      match t s with
      | .ok pa _ => (s, .ok pa)
      | .fault x => (s, fault x)
      | .miss => (s, fault acc.none_)
    | (s, .nothing) => (s, fault acc.none_)
    | (s, .bad kind resp level addr) =>
      (s, .error { ownExc 0x11 va false 0 with winfo := walkInfo false kind resp level, waddr := addr })

/-- Write a level's frame in eight 32-byte writes (R283). -/
def writeFrame (c : CoxId) (base : Nat) (ws : List Nat) (s : State) : State × Option Exc :=
  (List.range 8).foldl (fun acc i =>
    let (s, bad) := acc
    match bad with
    | some _ => acc
    | none =>
      let va := base + 32 * i
      match translateNow c .store va s with
      | (s, .error e) => (s, some e)
      | (s, .ok pa) =>
        let s := detOutside c pa s
        let (s, code) := cpuWrite c pa (((ws.drop (4 * i)).take 4).flatMap (leBytes 8)) s
        if code = 0 then (s, none) else (s, some (ownExc 0x15 pa true code))) (s, none)

/-- Read a level's frame (R287). -/
def readFrame (c : CoxId) (base : Nat) (s : State) : State × Except Exc (List Nat) :=
  (List.range 8).foldl (fun acc i =>
    match acc with
    | (s, .error e) => (s, .error e)
    | (s, .ok ws) =>
      let va := base + 32 * i
      match translateNow c .load va s with
      | (s, .error e) => (s, .error e)
      | (s, .ok pa) =>
        let g := cpuRead c pa 32 (detOutside c pa s)
        if g.code = 0 then (g.st, .ok (ws ++ leWords 8 4 g.data))
        else (g.st, .error (ownExc (if g.code = rUe then 0x14 else 0x15) (if g.code = rUe then g.at_ else pa) true g.code)))
    (s, .ok [])

/-! ### Entry (R271, R283) -/

/-- In these modes entry writes a stack frame (R283). -/
def framesOn (s : State) : Bool := s.mode == modeLaunch || s.mode == modeHoldWater || s.mode == modeEasyAll

/-- A core accepts the NMI events routed to it by entering its NMI handler (R486). -/
def acceptNmi (c : CoxId) (s : State) : State :=
  { s with flt := { s.flt with nmi := s.flt.nmi.filter (fun w => !bit (s.reg (faultReg w.src.blk 0x14)) c.val) } }

/-- The walks that an entry leaves: a data walk is abandoned, its fill done or not (R311, R312); one that began before a broadcast fills
nothing (R316). -/
def dropWalks (c : CoxId) (s : State) : State :=
  let s := ((core s c).walks.zipIdx).foldl (fun s x =>
    let w := x.1
    if w.kind = 1 ∧ !(x.2 = 0 ∧ (core s c).staleWalk) then
      let (k, s) := s.fresh
      if Config.abandonedFill k then
        match walkTables c w.root w.va s with
        | (s, .leaf v p) => tlbFill c v p s
        | (s, _) => s
      else s
    else s) s
  onCore c (fun k => { k with
    walks := k.walks.filter (fun w => w.kind ≠ 1), faulted := []
    staleWalk := k.staleWalk && k.walks.head?.all (fun w => w.kind ≠ 1) }) s

/-- The live state of a core in a handler of level n (R271). -/
def inHandler (n : Nat) (cause addr : Nat) (k : Core) : Core :=
  { k with
    pc := k.vbase + 64 * cause
    maskLev := n
    user := false
    sua := false
    loops := []
    causes := k.causes.set (Fin.ofNat 5 n) (cause, addr)
    xfer := none
    shadow := none
    exc := none
    catchup := none
    resumed := none
    queue := []
    miss := none
    frozen := none
    owe := 0
    gap := 0
    paired := false }

/-- A synchronous exception at the NMI level: no handler is entered (R270). -/
def nmiFault (c : CoxId) (s : State) : State := report (.cox c) 1 (onCore c (fun k => { k with stuck := true, exc := none }) s)

/-- Enter level n with words already saved or to be framed, in domains that this makes run (R421, R425): state, and the exception that writing the frame raised. -/
def enterOnce (c : CoxId) (n : Nat) (i : EntryInfo) (ws : List Nat) (s : State) : State × Option Exc :=
  let s := activity (4 + c.val) (activity c.val (dropWalks c s))
  let addr := i.info % 2 ^ 48
  let st := F (.cox c) 0x200
  let s := onCore c (inHandler n i.cause addr) s
  let s := ((s.wr (st 2 0) n).wr (st (7 + n) (7 + n)) 1).wr (st 7 6) 0
  if framesOn s then
    let s := s.wr (st (11 + n) (11 + n)) 1
    let g63 := ((core s c).g[63]).toNat
    let base := (g63 + w64 - 256) % w64
    if base % 64 ≠ 0 then
      let (k, s) := s.fresh
      (s, some (ownExc (0x10 + (Config.openWord k).toNat % 6) base false 0))
    else
      match writeFrame c base ws s with
      | (s, none) => (onCore c (fun k => { k with g := k.g.set 63 (BitVec.ofNat 64 base) }) s, none)
      | (s, some e) => (s, some e)
  else
    (onCore c (fun k => { k with saves := k.saves.set (Fin.ofNat 4 (n - 1)) ws }) (s.wr (st (11 + n) (11 + n)) 0), none)

/-- Words 19 to 31 of a synchronous entry: an empty record, and the operands of a completion exception (R280). -/
def syncRecord (e : Exc) : List Nat := (if e.completion then [e.o1, e.t, e.o2] else [0, 0, 0]) ++ List.replicate 9 0

/-- A synchronous exception enters a level, with what writing the frame raises in turn (R270, R283). -/
def syncFrom (c : CoxId) : Nat → Exc → State → State
  | 0, _, s => nmiFault c s
  | n + 1, e, s =>
    let cur := curLevel s c
    if 4 ≤ cur then nmiFault c s
    else
      let (lev, cause, orig) := if cur = 3 then (4, 0x34, e.cause) else (cur + 1, e.cause, 0)
      let i : EntryInfo := ⟨cause, orig, infoWord e, 0, syncRecord e⟩
      let s := if e.cause = 2 ∨ e.cause = 0x11 then
          (s.wr (F32 (.cox c) 0x304) e.winfo).wr (F64 (.cox c) 0x308) e.waddr else s
      match enterOnce c lev i (saveWords (core s c) i) s with
      | (s, none) => s
      | (s, some e') => syncFrom c n e' s

/-- What operations in flight still owe at an entry is done: stores that fall due, loads that wait for stores, a SUBMIT that does
(R257, R259, R280). -/
def drainWaits (c : CoxId) (s : State) : State :=
  let s := finishLate c (drainDue c (core s c).sb.length s)
  forAll ((core s c).flight.filter (fun f => f.todo.isSome)) (submitNow c) s

/-- Every operation in flight completes at a synchronous entry (R280); a command of the handle unit is waited for. -/
def syncDrain (c : CoxId) (s : State) : State × Bool :=
  let last := (core s c).flight.foldl (fun m f => max m f.land) (core s c).cyc
  let s := drainWaits c (onCore c (fun k => k.runs (last - k.cyc)) s)
  let done := (core s c).flight
  (onCore c (fun k => (sortKey (·.land) done).foldl landFlight { k with flight := [] }) s, done.any (fun f => f.exc.isSome))

/-- A command of the handle unit is in progress, whose end the Stakeboat gives. -/
def handleBusy (k : Core) : Bool := k.flight.any (fun f => f.slow && f.unit == 15)

/-- SYNC_EXCEPTION_ENTRY: the exception that is due is taken (R270, R280). -/
def syncEntry (c : CoxId) (s : State) : State :=
  let k := core s c
  match k.exc with
  | some e =>
    if !k.on || k.stuck || handleBusy k then s
    else
      let (s, more) := syncDrain c s
      syncFrom c 5 { e with multi := e.multi || more } s
  | none => s

/-- The loads that an interrupt entry records: those that cannot complete in its drain, in one page, at most four of each
unit (R279). -/
def recordable (k : Core) (f : Flight) : Bool :=
  match f.load with
  | some l => (k.det || !l.hit) && !l.space && l.parts.all (fun p => p.1 / 4096 == ((l.parts.head?).map (·.1)).getD 0 / 4096)
  | none => false
def recordedLoads (k : Core) (unit : Nat) : List Flight :=
  let l := k.flight.filter (fun f => f.unit == unit && recordable k f)
  l.drop (l.length - 4)
/-- The dividers' operations, and everything recorded. -/
def recordedDivs (k : Core) : List Flight := k.flight.filter (fun f => f.unit == 7 || (f.unit == 9 && fpu1Div f.off))
def recorded (k : Core) : List Flight := recordedDivs k ++ recordedLoads k 12 ++ recordedLoads k 13

/-- Word 19 [63:32] and words 20 to 31 of an interrupt entry (R284). -/
def recordWords (k : Core) : Nat × List Nat :=
  let d := k.flight.find? (fun f => f.unit == 7)
  let f := k.flight.find? (fun f => f.unit == 9 && fpu1Div f.off)
  let w19 := (d.map (fun x => 2 ^ 32 + (x.off - 8) * 2 ^ 33 + elapsedAt k x * 2 ^ 35)).getD 0
    + (f.map (fun x => 2 ^ 41 + (x.off - 8) * 2 ^ 42 + elapsedAt k x * 2 ^ 44 + bits x.env 1 0 * 2 ^ 49 + bnat (bit x.env 16) * 2 ^ 51
        + bits x.env 7 3 * 2 ^ 52)).getD 0
  let loads (u : Nat) : List Nat := let l := (recordedLoads k u).map (loadEntry k); l ++ List.replicate (4 - l.length) 0
  (w19, [(d.map (·.o1)).getD 0, (d.map (·.t)).getD 0, (f.map (·.o1)).getD 0, (f.map (·.t)).getD 0] ++ loads 12 ++ loads 13)

/-- The request that a core accepts: level and CAUSE (R269, R278). -/
def acceptable (s : State) (c : CoxId) : Option (Nat × Nat) :=
  let cur := curLevel s c
  if nmiPend s c ∧ cur < 4 then some (4, 0x33)
  else
    let l := irqLevel s c
    if max (core s c).maskLev cur < l ∧ cur < 4 then some (l, 0x2F + l) else none

/-- Words of an abandoned return: the state just restored, with the new CAUSE and PREV_LEVEL (R290). -/
def abandonedWords (k : Core) (ws : List Nat) (cause : Nat) : List Nat :=
  let w1 := putBits (putBits (putBits (putBits (putBits (wordAt ws 1) 63 58 cause) 57 52 0) 51 49 k.maskLev) 48 48 (bnat k.user)) 47 47
    (bnat k.sua)
  (ws.set 1 w1).set 2 0

/-- INTERRUPT_ENTRY: issue stops, operations in flight complete or are recorded, the handler's level is entered (R271, R279 to
R282). A completion exception due by then, or a software trap, is taken instead (R281). -/
def interruptEntry (c : CoxId) (s : State) : State :=
  let k := core s c
  match acceptable s c with
  | none => s
  | some (lev, cause) =>
    if !k.on || k.stuck || handleBusy k then s
    else
      let go (ws : List Nat) (i : EntryInfo) (s : State) : State :=
        let s := if cause = 0x33 then acceptNmi c s else s
        let s := onCore c (fun k => k.runs 16) s
        let s := drainDue c (core s c).sb.length s
        match enterOnce c lev i ws s with
        | (s, none) => s
        | (s, some e) => syncFrom c 5 e s
      match k.catchup, k.resumed with
      | some _, some ws =>
        go (abandonedWords k ws cause) ⟨cause, 0, 0, 0, []⟩ (onCore c (fun k => { k with flight := [] }) s)
      | _, _ =>
        let rec_ := recorded k
        let due := match k.exc with
          | some e => e.completion || (0x20 ≤ e.cause && e.cause < 0x30)
          | none => false
        if due then syncEntry c s
        else
          let late (f : Flight) : Bool := !rec_.contains f && (f.todo.isSome || (f.load.map (·.late)).getD false)
          let wait := (k.flight.filter late).foldl (fun m f => max m f.land) k.cyc - k.cyc
          let s := drainWaits c (onCore c (fun k => { k.runs wait with flight := k.flight.filter (fun f => !rec_.contains f) }) s)
          let rest := (core s c).flight
          match sortKey (fun f => f.land * 8 + excRank f) (rest.filter (fun f => f.exc.isSome)) with
          | f :: _ =>
            syncEntry c (onCore c (fun k => { k with
              exc := some (f.exception (f.exc.getD 0))
              flight := rec_ ++ rest.map (fun x => if x = f then { x with exc := none } else x) }) s)
          | [] =>
            let (w19, w20) := recordWords k
            let i : EntryInfo := ⟨cause, 0, 0, w19, w20⟩
            let s := onCore c (fun k => (sortKey (·.land) rest).foldl landFlight { k with flight := [] }) s
            go (saveWords (core s c) i) i s

/-! ### Return and catch-up (R286 to R290) -/

/-- A load entry's fields are legal (R285, R286). -/
def loadEntryOk (w : Nat) : Bool :=
  !bit w 62 && bits w 54 44 == 0 && (!bit w 63 || (bits w 61 59 != 7 && within 1 8 (bits w 58 55)))

/-- The words that a return may restore (R286). -/
def wordsOk (ws : List Nat) : Bool :=
  let w := wordAt ws
  bits (w 0) 63 59 == 0 && bits (w 1) 46 44 < 6 && (bits (w 3) 31 0 != 0 || bits (w 3) 63 32 == 0) && bits (w 4) 63 61 == 0
  && bits (w 4) 60 44 &&& (2 ^ 17 - 1 - 0x13FFB) == 0 && bits (w 5) 63 44 == 0 && bits (w 19) 63 57 == 0 && bits (w 19) 31 28 == 0
  && (!bit (w 19) 41 || within 1 21 (bits (w 19) 48 44)) && (!bit (w 19) 32 || within 1 39 (bits (w 19) 40 35))
  && (List.range 8).all (fun j => loadEntryOk (w (24 + j)))

/-- Where a return of the current level finds its words (R286, R287). -/
def returnWords (c : CoxId) (lev : Nat) (s : State) : State × Except Exc (List Nat) :=
  if bit (s.rd (F (.cox c) 0x200 15 12)) (lev - 1) then readFrame c ((core s c).g[63]).toNat s
  else (s, .ok ((core s c).saves[Fin.ofNat 4 (lev - 1)]))

/-- The parts of an access of n bytes (R262): address and length. -/
def splitAt_ (a n : Nat) : List (Nat × Nat) :=
  if a % n = 0 then [(a, n)] else (let m := (a / n + 1) * n; [(a, m - a), (m, n - (m - a))])

/-- The loads that catch-up triggers again; the save set records no slot of a load: places, three bits for each, is a free value. -/
def againLoads (ws : List Nat) (places unit : Nat) : List Again :=
  (List.range 4).filterMap fun j =>
    let i := 4 * (unit - 12) + j
    let w := wordAt ws (24 + i)
    if bit w 63 then
      let op := bits w 61 59
      some ⟨bits w 58 55, ⟨unit, 8 + op, 0, 0, (8 + op) * 8 + places / 8 ^ i % 8⟩, 0, 0,
        (splitAt_ (bits w 43 0) (loadSize op)).map (fun p => (p.1, p.1, p.2))⟩
    else none

/-- Everything that catch-up triggers again; fva: the open address of the bundle that triggered the FPU1 operation, fwhr its WHERE; places:
those of the loads. -/
def againOps (ws : List Nat) (fva fwhr places : Nat) : List Again :=
  let w19 := wordAt ws 19
  (if bit w19 32 then
    [⟨bits w19 40 35, ⟨7, 8 + bits w19 34 33, wordAt ws 21, 0, 0⟩, wordAt ws 20, 0, []⟩] else [])
  ++ (if bit w19 41 then
    [⟨bits w19 48 44, ⟨9, 8 + bits w19 43 42, wordAt ws 23, fva, fwhr⟩, wordAt ws 22,
      bits w19 50 49 + bnat (bit w19 51) * 2 ^ 16 + bits w19 56 52 * 8, []⟩] else [])
  ++ againLoads ws places 12 ++ againLoads ws places 13

/-- A recorded operation is triggered again (R288, R289): a load by its physical address, from a line that the data cache holds
or its target. -/
def fireAgain (c : CoxId) (a : Again) (s : State) : State :=
  let k := core s c
  match a.g.unit with
  | 7 => addFlight c (divFlight a.g k.cyc a.o1) s
  | 9 => addFlight c (fpu1Flight a.g k.cyc a.o1 a.env) s
  | _ => fireLoad c a.g (a.g.off - 8) 0 a.parts (fun pa => !k.det && (nget (lineOf pa) k.dcache).isSome) true s

/-- The live state that a return restores (R288). -/
def restored (ws : List Nat) (k : Core) : Core :=
  let w := wordAt ws
  let innermost : List LoopLev := if bits (w 3) 31 0 = 0 then [] else [⟨bits (w 3) 31 0, bits (w 4) 43 0 * 16, []⟩]
  let outer : List LoopLev := if bits (w 3) 63 32 = 0 then [] else [⟨bits (w 3) 63 32, bits (w 5) 43 0 * 16, []⟩]
  let xk := bits (w 1) 46 44
  let tgt := bits (w 1) 43 0
  { k with
    preds := bits (w 0) 58 44 * 2
    pc := bits (w 0) 43 0 * 16
    maskLev := bits (w 1) 51 49
    user := bit (w 1) 48
    sua := bit (w 1) 47
    fpenv := bits (w 4) 60 44
    loops := innermost ++ outer
    xfer := if xk = 0 then none else some ⟨xk, if xk = 4 ∨ xk = 5 then tgt else tgt * 16, none, [], [], none⟩
    res := volatileFlags.foldl (fun m p => nput p.1 (bits (w 19) p.2.1 p.2.2) m)
      ((volatilePorts.zipIdx).foldl (fun m p => nput p.1 (w (6 + p.2)) m) k.res)
    queue := []
    miss := none
    faulted := []
    owe := 0
    gap := 0
    shadow := none }

/-- The copy of the innermost loop body takes up to four bundles again, the last with LEND, as fetch delivers them; one that fetch
cannot read ends it (R288): state, and whether it is complete. -/
def refillCopy (c : CoxId) : Nat → State → State × Bool
  | 0, s => (s, true)
  | n + 1, s =>
    match (core s c).loops with
    | [] => (s, true)
    | l :: rest =>
      if 4 ≤ l.copy.length || l.copy.getLast?.any (fun b => (bundleOf b.1 b.2).lend) then (s, true)
      else
        match l.slots.find? l.takes with
        | none => (s, true)
        | some va =>
        match fetchTo c va s with
        | (s, some (.got w)) => refillCopy c n (onCore c (fun k => { k with loops := { l with copy := l.copy ++ [(va, w)] } :: rest }) s)
        | (s, some (.bad _)) => (s, true)
        | (s, none) => (s, false)

/-- The group at the program counter is fetched: its bundle, and the second of a pair in normal mode (R243). -/
def groupFetched (c : CoxId) (s : State) : State × Bool :=
  let pc := (core s c).pc
  match fetchTo c pc s with
  | (s, some (.got w)) =>
    if (core s c).det || !(bundleOf pc w).pair then (s, true)
    else let (s, second) := fetchTo c (pc + 16) s; (s, second.isSome)
  | (s, some (.bad _)) => (s, true)
  | (s, none) => (s, false)

/-- The fetch of a return goes on: the group at RETURN, then the loop copy; whether all of it is there (R288). -/
def returnFetch (c : CoxId) (s : State) : State × Bool :=
  let (s, there) := groupFetched c s
  if there then refillCopy c 5 s else (s, false)

/-- The highest active level below one that is left (R268). -/
def levelBelow (active : Nat) : Nat := if bit active 3 then 4 else if bit active 2 then 3 else if bit active 1 then 2 else bnat (bit active 0)

/-- The end of an ERET's delay bundle: the level's state is restored, fetch and catch-up hold begin (R288). -/
def doReturn (c : CoxId) (lev : Nat) (ws : List Nat) (s : State) : State :=
  let st := F (.cox c) 0x200
  let stacked := bit (s.rd (st 15 12)) (lev - 1)
  let s := if stacked then onCore c (fun k => { k with g := k.g.set 63 (k.g[63] + 256) }) s else s
  let s := onCore c (restored ws) s
  let s := (s.wr (st (7 + lev) (7 + lev)) 0).wr (st (11 + lev) (11 + lev)) 0
  let s := s.wr (st 2 0) (levelBelow (s.rd (st 11 8)))
  let k := core s c
  let open_ := !k.loops.isEmpty
  let f := if k.det then (if open_ then 6 else 3) else (if open_ then 4 else 2)
  let (fva, s) := if bit (wordAt ws 19) 41 then s.fresh else (0, s)
  let (pl, s) := if bit (wordAt ws 19) 41 || (List.range 8).any (fun j => bit (wordAt ws (24 + j)) 63) then s.fresh else (0, s)
  let places := (Config.openWord pl).toNat
  let ops := againOps ws ((Config.openWord fva).toNat % 2 ^ 48) ((8 + bits (wordAt ws 19) 43 42) * 8 + places % 8) (places / 8)
  onCore c (fun k => { k with resumed := some ws, catchup := some ⟨k.cyc + f, none, ops⟩ }) (s.wr (st 7 7) 1)

/-- A return's fetch and hold are over: the group at RETURN issues next. -/
def returnEnds (c : CoxId) (s : State) : State :=
  (onCore c (fun k => { k with catchup := none, resumed := none }) s).wr (F (.cox c) 0x200 7 7) 0

/-- One cycle of a return: of its fetch, at least F and longer while a bundle is missing; then of the hold, in which recorded
operations are triggered again in their cycles (R288). -/
def holdCycle (c : CoxId) (cu : CatchUp) (s : State) : State :=
  match cu.hold with
  | none =>
    let (s, there) := returnFetch c s
    let s := passCycles c 1 1 s
    let h := cu.ops.foldl (fun m a => max m a.e) 0
    if there ∧ cu.fetch ≤ (core s c).cyc then
      if h = 0 then returnEnds c s
      else onCore c (fun k => { k with catchup := some { cu with hold := some (k.cyc + h) } }) s
    else s
  | some u =>
    let s := forAll (cu.ops.filter (fun a => u - a.e = (core s c).cyc)) (fun a s => fireAgain c a s) s
    let s := passCycles c 1 0 s
    if u ≤ (core s c).cyc then returnEnds c s else s

end Sys2Proof.Machine
end

