-- ==== Sys2Proof/Machine/CoxFire.lean ====
section
/-!
DEFINITION. What each trigger of a Cox does (06, R214 to R232): the units beside the arithmetic ones.
-/
namespace Sys2Proof.Machine

/-! ### Translation of the parts of an access (R262) -/

/-- The parts as virtual address, physical address, length and MEM, or the first that misses or faults. -/
inductive TxAll where
  | ok (l : List (Nat × Nat × Nat × Nat))
  | miss (va : Nat)
  | fault (cause va : Nat)
deriving DecidableEq, Repr

def txParts (k : Core) (acc : CpuAcc) (va n : Nat) : TxAll :=
  (splitAt_ va n).foldl (fun r p =>
    match r with
    | .ok l =>
      let a := p.1 % w64
      match translate k k.xlate k.user acc a with
      | .ok pa mem => .ok (l ++ [(a, pa, p.2, mem)])
      | .miss => .miss a
      | .fault x => .fault x a
    | r => r) (.ok [])

/-! ### SYS (R214 to R216, R305 to R320) -/

/-- An entry that TLB_WRITE may write (R305). -/
def tlbWordsOk (t v p : Nat) : Bool :=
  let sz := bits v 53 48
  bits v 61 54 == 0 && bits v 11 0 == 0 && within 12 47 sz && bits v 47 12 * 4096 % 2 ^ sz == 0 &&
  bits p 63 56 == 0 && bits p 49 44 == 0 && bits p 11 0 == 0 && bits p 54 53 != 3 && bits p 51 50 != 3 &&
  bits p 43 12 * 4096 % 2 ^ sz == 0 && !(bit t 8 && bits t 7 0 > 15)

def tlbWrite (c : CoxId) (t v p : Nat) (s : State) : State :=
  let i := bits t 7 0
  onCore c (fun k => { k with tlb := if bit v 63 then nput i ⟨putBits v 62 62 0, p, bit t 8⟩ k.tlb else ndel i k.tlb }) s

/-- The two words of an entry, reserved bits 0; of an invalid one the rest beside VALID and LOCK is open (R305,
notes/assumptions/1.md). -/
def tlbRead (c : CoxId) (t : Nat) (s : State) : State × Nat × Nat :=
  match nget (bits t 7 0) (core s c).tlb with
  | some e => (s, putBits e.v 62 62 (bnat e.lock), e.p)
  | none =>
    let (i, s) := s.fresh
    let (j, s) := s.fresh
    (s, bits (Config.openWord i).toNat 53 12 * 2 ^ 12, bits (Config.openWord j).toNat 55 50 * 2 ^ 50 + bits (Config.openWord j).toNat 43 12 * 2 ^ 12)

/-- Remove the entries that contain an address. -/
def tlbInvVa (c : CoxId) (va : Nat) (locked : Bool) (s : State) : State :=
  onCore c (fun k => { k with tlb := k.tlb.filter (fun p => !(va / 2 ^ 48 == 0 && entHits va p.2 && (locked || !p.2.lock))) }) s
def tlbInvAll (c : CoxId) (locked : Bool) (s : State) : State :=
  onCore c (fun k => { k with tlb := if locked then [] else k.tlb.filter (fun p => p.2.lock) }) s

/-- TLB_BCAST: a core that is not released, or whose domain is off, has an empty TLB and completes at once, one in block reset when
that ends; a walk in progress began before it arrived (R316). -/
def tlbBcast (c : CoxId) (t : Nat) (s : State) : State :=
  let left := (List.finRange 4).filter (fun d => ((core s d).on && domState s d.val != 3) || s.flt.resets.contains (.cox d))
  let s := forAll left (fun d s => onCore d (fun k => { k with staleWalk := !k.walks.isEmpty }) s) s
  { s with cox := { s.cox with bcasts := s.cox.bcasts ++ (if left.isEmpty then [] else [⟨c.val, t, left.map (·.val)⟩]) } }

/-- A core completes the oldest broadcast that it has not; one whose domain is clock-gated wakes its clock (R316). -/
def bcastDone (c : CoxId) (s : State) : State :=
  if s.flt.resets.contains (.cox c) then s
  else match s.cox.bcasts.span (fun b => !b.left.contains c.val) with
    | (a, b :: rest) =>
      let s := if domState s c.val = 1 then setDom c.val 0 s else s
      let s := if bit b.t 0 then tlbInvAll c (bit b.t 1) s else tlbInvVa c (bits b.t 47 12 * 4096) (bit b.t 1) s
      let left := b.left.filter (· ≠ c.val)
      { s with cox := { s.cox with bcasts := a ++ (if left.isEmpty then [] else [{ b with left := left }]) ++ rest } }
    | (_, []) => s

/-- A cache operation of the whole data cache acts on each line. -/
def dcAll (c : CoxId) (clean inval : Bool) (s : State) : State :=
  ((core s c).dcache.map (·.1)).foldl (fun s l => dcMaintain c clean inval l s) s

/-- CACHE_OP_DONE: the oldest cache operation completes (R216, R247). -/
def cacheOpDone (c : CoxId) (s : State) : State :=
  match (core s c).cacheOps with
  | [] => s
  | (op, line) :: rest =>
    let s := onCore c (fun k => { k with cacheOps := rest }) s
    match op with
    | 0 => dcMaintain c true false line s
    | 1 => dcMaintain c false true line s
    | 2 => dcMaintain c true true line s
    | 3 => onCore c (fun k => { k with icache := ndel line k.icache }) s
    | 4 => dcAll c true false s
    | 5 => dcAll c true true s
    | _ => onCore c (fun k => { k with icache := [], btb := [] }) s

/-- CACHE_OP begins at the physical line of its address (R216, R317). -/
def cacheOp (c : CoxId) (op va : Nat) (s : State) : State :=
  let line := if op < 4 then
      match translate (core s c) (core s c).xlate (core s c).user .load va with
      | .ok pa _ => lineOf pa
      | _ => 0
    else 0
  onCore c (fun k => { k with cacheOps := k.cacheOps ++ [(op, line)] }) s

/-- FETCH_SYNC empties the queue, the loop copies and the branch target buffer (R247, R250, R264). -/
def fetchSync (c : CoxId) (s : State) : State :=
  onCore c (fun k => { k with queue := [], miss := none, btb := [], loops := k.loops.map (fun l => { l with copy := [] }) }) s

/-- The save set word of a level (R286). -/
def saveIx (t : Nat) : Fin 4 := Fin.ofNat 4 (bits t 2 0 - 1)

def fireSys (c : CoxId) (g : Trig) (s : State) : State :=
  let o1 := operandPort s c 0 0
  let o2 := operandPort s c 0 1
  let k := core s c
  match g.off with
  | 8 => fetchSync c s
  | 9 => s.wr (F (.cox c) 0x200 6 6) 1
  | 0xA => tlbWrite c g.t o1 o2 s
  | 0xB =>
    let (s, q, q2) := tlbRead c g.t s
    addFlight c (flightOf g k.cyc 2 [(0x80, q), (0x81, q2)]) s
  | 0xC => tlbInvVa c g.t true s
  | 0xD => tlbInvAll c (bit g.t 0) s
  | 0xE => tlbBcast c g.t s
  | 0xF => cacheOp c g.t o1 s
  | 0x10 => addFlight c (flightOf g k.cyc 1 [(0x80, wordAt k.saves[saveIx g.t] (bits g.t 7 3))]) s
  | _ => onCore c (fun k => { k with saves := k.saves.set (saveIx g.t) (k.saves[saveIx g.t].set (bits g.t 7 3) o1) }) s

/-! ### RUDDER and LOOP (R217 to R220) -/

/-- The target of a transfer. -/
def rudderTarget (g : Trig) (lev : Nat) : Nat :=
  match g.off with
  | 9 | 0xB => wrap 64 ((g.va : Int) + 16 * sgn 64 g.t)
  | 0xE => lev
  | _ => g.t

/-- XFER code of a RUDDER trigger (R284). -/
def rudderKind (off : Nat) : Nat := if off < 0xA then 1 else if off < 0xC then 2 else off - 9

/-- Virtual address of the shadow-stack word that a call writes (R296). -/
def pushVa (k : Core) : Nat := (k.ssp + w64 - 8) % w64

def fireRudder (c : CoxId) (g : Trig) (s : State) : State :=
  let kind := rudderKind g.off
  onCore c (fun k => { k with xfer := some ⟨kind, rudderTarget g (curLevel s c), if kind < 4 then some g.va else none, [], [],
    if kind = 4 then some g.whr else none⟩ }) s

/-- next: the first bundle after the issue group. -/
def fireLoop (c : CoxId) (g : Trig) (next : Nat) (s : State) : State :=
  onCore c (fun k => { k with loops := if g.off = 8 then ⟨g.t, next, []⟩ :: k.loops else k.loops.tail }) s

/-! ### LSU0 and LSU1 (R229, R252, R257, R313) -/

/-- Bytes of a store or an atomic operation. -/
def storeSize (off : Nat) : Nat := if off < 20 then 2 ^ (off - 16) else if off % 2 = 0 then 4 else 8

/-- A deterministic core's stores to Crew banks that are still to be written (R257). -/
def crewPending (k : Core) : Bool := k.det && k.sb.any (fun e => inCrew (e.block * 64))

/-- Bytes of buffered entries take what an atomic operation has made of them, so that their draining does not undo it. -/
def overAtomic (pa : Nat) (bs : List Byte) (sb : List SbEnt) : List SbEnt :=
  sb.map (fun e => { e with bytes := (bs.zipIdx).foldl (fun m b => if (e.byte (pa + b.2)).isSome then nput ((pa + b.2) % 64) b.1 m else m) e.bytes })

/-- An atomic operation: the store buffer drains, the line leaves the data cache, the word changes (R141, R229, R252, R256). A
deterministic core's stores to Crew banks drain in their own cycles: the operation works on the word with these stores in it (DESIGN
CHOICE, notes/assumptions/68.md). -/
def fireAtomic (c : CoxId) (g : Trig) (o1 data pa : Nat) (s : State) : State :=
  let k := core s c
  let n := storeSize g.off
  let s := dcMaintain c true true (lineOf pa) (if crewPending k then s else drainAll c s)
  let s := (detAccess c (k.cyc + 4) (n != 8) false [(o1, pa, n)] s).1
  let as := (List.range n).map (pa + ·)
  let seen (x : Nat) : Nat := if (core s c).sb.isEmpty then x else leNat (overStores (core s c).sb as (leBytes n x))
  let f (x : Nat) : Nat := if g.off < 22 then (seen x + data) % 2 ^ (8 * n) else data % 2 ^ (8 * n)
  let (t, code, old) := atomicOp c.val pa n f s
  let t := if code = 0 then onCore c (fun k => { k with sb := overAtomic pa (leBytes n (f old)) k.sb }) t else t
  let fl := { flightOf g k.cyc 4 [(portOf g.unit 0, seen old)] with o1 := o1, slow := true }
  addFlight c (if code = 0 then fl else { fl with exc := some 0x15, eaddr := pa, whr := code }) (detOutside c pa t)

def fireStore (c : CoxId) (data n : Nat) (parts : List (Nat × Nat × Nat × Nat)) (s : State) : State :=
  let bs := leBytes n data
  let k := core s c
  let ps := (parts.foldl (fun (acc : List StPart × Nat) p =>
    (acc.1 ++ [⟨p.2.1, (bs.drop acc.2).take p.2.2.1, p.2.2.2, cacheable k p.2.1 p.2.2.2⟩], acc.2 + p.2.2.1)) ([], 0)).1
  let s := forAll parts (fun p s => detOutside c p.2.1 s) s
  let narrow := parts.any (fun p => p.2.1 % 8 != 0 || p.2.2.1 % 8 != 0)
  let s := (detAccess c (k.cyc + 4) narrow false (parts.map (fun p => (p.1, p.2.1, p.2.2.1))) s).1
  onCore c (fun k => { k with sb := sbStore k ps k.sb }) s

/-- The access that an LSU trigger makes: kind, address, bytes translated; PREFETCH holds nothing. -/
def lsuAccess (off va : Nat) : Option (CpuAcc × Nat × Nat) :=
  if off < 15 then some (.load, va, loadSize (off - 8)) else if off = 15 then none
  else if off < 20 then some (.store, va, storeSize off) else some (.store, va, 1)

def fireLsu (c : CoxId) (g : Trig) (s : State) : State :=
  let o1 := operandPort s c g.unit 0
  let data := operandPort s c g.unit 1
  let va := (o1 + g.t) % w64
  let k := core s c
  match lsuAccess g.off va with
  | none => prefetchLine c va s
  | some (acc, va, n) =>
    match txParts k acc va n with
    | .ok l =>
      if g.off < 15 then
        let cached (pa : Nat) : Bool := l.any (fun p => p.2.1 == pa && cacheable k p.2.1 p.2.2.2)
        fireLoad c g (g.off - 8) o1 (l.map (fun p => (p.1, p.2.1, p.2.2.1))) cached false s
      else if g.off < 20 then fireStore c data n l s
      else fireAtomic c g o1 data (((l.head?).map (·.2.1)).getD 0) s
    | _ => s

/-! ### VEC, HANDLE, TIME and MAIL (R231, R232) -/

/-- SUBMIT drains the core's store buffer and reads the descriptor (R27, R231, R256); where a deterministic core's stores to Crew banks
are still to be written, once they are (R257). -/
def fireVec (c : CoxId) (g : Trig) (s : State) : State :=
  let h := lo32 (operandPort s c 14 0)
  let fl := { flightOf g (core s c).cyc 4 [] with o1 := operandPort s c 14 0, slow := true }
  if crewPending (core s c) then addFlight c { fl with todo := some (h, g.t) } s
  else
    let s := admitDirect 9 c h g.t false (drainAll c s)
    addFlight c { fl with writes := [(0x240, s.vec.status[c])] } s

/-- A command of the handle unit begins; code 0 has no effect (R174). -/
def fireHandle (c : CoxId) (g : Trig) (s : State) : State :=
  if bits g.t 31 28 = 0 then s
  else
    let w := (List.range 7).map (fun j => lo32 (operandPort s c 15 (j + 1)))
    let cmd : StkCmd := ⟨bits g.t 31 28, bit g.t 27, bits g.t 14 0, lo32 (operandPort s c 15 0), w⟩
    let s := { s with stk := { s.stk with coxCmd := nput c.val ((ngetD s.stk.coxCmd c.val []) ++ [cmd]) s.stk.coxCmd } }
    addFlight c { flightOf g (core s c).cyc 4 [] with slow := true } s

/-- The oldest command of a core's handle unit ends (R163, R174, R231). -/
def stkCoxDone (c : CoxId) (ue : Bool) (s : State) : State :=
  if (ngetD s.stk.coxCmd c.val []).isEmpty then s else settle c (stkCoxPerform c ue s)

def fireTime (c : CoxId) (g : Trig) (s : State) : State :=
  let cyc := (core s c).cyc
  let n : Fin 16 := Fin.ofNat 16 (bits g.t 3 0)
  match g.off with
  | 8 => addFlight c (flightOf g cyc 3 [(0x280, tbHigh s), (0x281, tbLow s)]) s
  | 9 =>
    let at_ := unstamp96 (operandPort s c 16 0 * 2 ^ 32 + lo32 (operandPort s c 16 1))
    let (s, code) := armTrip n c.val at_ (bit g.t 4) s
    addFlight c (flightOf g cyc 4 [(0x282, code)]) s
  | _ =>
    let (s, code) := cancelTrip n c.val s
    addFlight c (flightOf g cyc 4 [(0x282, code)]) s

def fireMail (c : CoxId) (g : Trig) (s : State) : State :=
  let cyc := (core s c).cyc
  if g.off = 8 then
    let d : CoxId := Fin.ofNat 4 g.t
    let room := (core s d).inbox.length < 8
    let msg := operandPort s c 17 0
    let s := if room then onCore d (fun k => { k with inbox := k.inbox ++ [(c.val, msg)] }) s else s
    addFlight c (flightOf g cyc 2 [(0x2A0, bnat room)]) s
  else
    match (core s c).inbox with
    | [] => addFlight c (flightOf g cyc 2 [(0x2A0, 0), (0x2A1, 0)]) s
    | (from_, v) :: rest =>
      addFlight c (flightOf g cyc 2 [(0x2A0, v), (0x2A1, 2 ^ 63 + from_)]) (onCore c (fun k => { k with inbox := rest }) s)

/-- A trigger starts its unit's operation (R204, R209); next: the first bundle after the issue group. -/
def fire (c : CoxId) (next : Nat) (g : Trig) (s : State) : State :=
  match g.unit with
  | 0 => fireSys c g s
  | 1 => fireRudder c g s
  | 2 => fireLoop c g next s
  | 12 | 13 => fireLsu c g s
  | 14 => fireVec c g s
  | 15 => fireHandle c g s
  | 16 => fireTime c g s
  | 17 => fireMail c g s
  | _ => fireUnit c g s

/-! ### Legality of a trigger's operands (R212, R215 to R220, R286, R287) -/

/-- A value written to a SYS state port that its fields do not allow (R215, R297). -/
def stateBad (off v : Nat) : Bool :=
  match off with
  | 3 => v > 3
  | 4 => v &&& 0xB != v
  | 5 => v / 2 ^ 48 != 0 || v % 4096 != 0
  | 6 => v / 2 ^ 44 != 0 || bits v 11 4 != 0 || bits v 2 1 != 0
  | _ => v &&& 0x13FFB != v

/-- A field of EXTRACT, EXTRACTS or INSERT that does not fit (R231). -/
def fieldBad (t : Nat) : Bool := t / 2 ^ 12 != 0 || bits t 5 0 + bits t 11 6 + 1 > 64

/-- T or a sampled configuration value holds what R212 forbids; serial: the header bit. -/
def triggerBad (s : State) (c : CoxId) (serial : Bool) (unit off t : Nat) : Bool :=
  let k := core s c
  match unit with
  | 0 =>
    match off with
    | 8 => !serial
    | 9 | 0xC => false
    | 0xA => t ≥ 512 || (bit (operandPort s c 0 0) 63 && !tlbWordsOk t (operandPort s c 0 0) (operandPort s c 0 1))
    | 0xB => t ≥ 256
    | 0xD => t ≥ 2
    | 0xE => t / 2 ^ 48 != 0 || bits t 11 2 != 0
    | 0xF => t ≥ 7
    | _ => t ≥ 256 || !within 1 4 (bits t 2 0)
  | 1 =>
    match off with
    | 8 | 0xA | 0xC => t % 16 != 0 || t / 2 ^ 48 != 0
    | 0xD => t ≥ 16
    | 0xE => t != 0 || curLevel s c == 0
    | _ => false
  | 2 => off == 8 && (t == 0 || t ≥ 2 ^ 32 || k.loops.length ≥ 2)
  | 10 => operandPort s c 10 1 ≥ 2
  | 11 => operandPort s c 11 1 ≥ 256
  | 14 => t % 128 != 0
  | 15 => bits t 31 28 ≥ 5 || t / 2 ^ 32 != 0 || bits t 26 15 != 0
  | 16 => off == 9 && operandPort s c 16 1 / 2 ^ 32 != 0
  | 17 => k.mailLev ≥ 4 || (off == 8 && t ≥ 4)
  | 18 => within 13 15 off && fieldBad t
  | _ => false

end Sys2Proof.Machine
end

