-- ==== Sys2Proof/Machine/CoxIssue.lean ====
section
/-!
DEFINITION. One issue cycle of a Cox (06, R203, R204, R213, R235; 07): checks of an issue group, its writes and triggers,
transfers, loops, and what follows.
-/
namespace Sys2Proof.Machine

/-- A bundle of a group and whether it is the second of a pair. -/
abbrev Group := List (Bun × Bool)

def groupVa (g : Group) : Nat := ((g.head?).map (·.1.va)).getD 0
/-- The first bundle after a group in address order. -/
def groupNext (g : Group) : Nat := ((g.getLast?).map (·.1.va)).getD 0 + 16

/-- A move of a group: its bundle, whether that is the second, the move. -/
abbrev GMove := Bun × Bool × Mv
/-- All moves, in rising rank (R204, R213). -/
def groupMoves (g : Group) : List GMove := g.flatMap (fun b => b.1.moves.map (fun m => (b.1, b.2, m)))

/-! ### Checks (R210 to R213, R235, R287) -/

/-- A group-kind exception of a move: the port at fault, slot and pair position (R273, R284). -/
def moveExc (cause : Nat) (g : Group) (p : Nat) (m : GMove) : Exc :=
  groupExc cause (groupVa g) (if p < 0x80 then 0 else unitOf p % 32) ((if p < 0x80 then 0 else offOf p) * 8 + m.2.2.slot * 2 + bnat m.2.1)

/-- A bundle whose header is reserved or not allowed in its place (R198, R199, R220, R235); delay: XFER code of the transfer whose delay
bundle it is, 0 for none. -/
def headerBad (k : Core) (delay : Nat) (second : Bool) (b : Bun) : Bool :=
  b.bad || (b.pair && b.lend) || (b.rudder && b.pair) || ((second || k.paired) && b.pair)
  || (delay != 0 && (b.lend || b.pair)) || (b.lend && k.loops.isEmpty)

/-- A move whose encoding is reserved, or that its bundle may not hold (R199, R201, R235, R287). -/
def moveBad (delay : Nat) (b : Bun) (m : Mv) : Bool :=
  m.src == .reserved || ((delay != 0 || b.lend) && (isRudder m.dest || m.dest == pLoopStart))
  || (delay == 5 && (isTrigger m.dest || (0x40 < m.dest && m.dest < 0x50)))

/-- ILLEGAL_BUNDLE of a group: the first bundle at fault; its header, of unit, offset and slot 0, before a move, by slot (R213, R284). -/
def bundleFault (k : Core) (delay : Nat) (g : Group) : Option Exc :=
  g.findSome? (fun b =>
    if headerBad k delay b.2 b.1 then some (groupExc 8 (groupVa g) 0 (bnat b.2))
    else (b.1.moves.find? (moveBad delay b.1)).map (fun m => moveExc 8 g m.dest (b.1, b.2, m)))

/-- The ports of a move, the destination first, with their rights. -/
def movePorts (m : GMove) : List (Nat × PortRight) :=
  (m.2.2.dest, writeRight m.2.2.dest) :: (match m.2.2.src with
    | .port p _ => [(p, readRight p)]
    | _ => [])

/-- The first port of a group that breaks a rule, in the order of R213. -/
def firstPort (cause : Nat) (g : Group) (bad : GMove → Nat × PortRight → Bool) : Option Exc :=
  (groupMoves g).findSome? (fun m => ((movePorts m).find? (bad m)).map (fun p => moveExc cause g p.1 m))

/-- A move with a true guard and its value. -/
structure Item where
  m : GMove
  v : Nat
deriving DecidableEq, Repr

def Item.dest (i : Item) : Nat := i.m.2.2.dest

/-- The moves with true guards and their values, as they stand before the group issues (R203). -/
def groupItems (s : State) (c : CoxId) (g : Group) : List Item :=
  ((groupMoves g).filter (fun m => guardOn (core s c) m.2.2)).map (fun m => ⟨m, mvValue s c m.1.va m.2.2⟩)

/-- Later moves to a port discard the earlier ones (R204). -/
def lastOnly : List Item → List Item
  | [] => []
  | i :: l => if l.any (fun j => j.dest == i.dest) then lastOnly l else i :: lastOnly l

/-- Operand and configuration ports take their writes first (R204, R272). -/
def operandWrite (c : CoxId) (i : Item) (s : State) : State :=
  let p := i.dest
  if p < 0x80 ∨ isTrigger p then s
  else if p = 0xA1 then onCore c (fun k => { k with ssp := i.v }) s
  else if p = 0x2A1 then onCore c (fun k => { k with mailLev := i.v }) s
  else if 0x83 ≤ p ∧ p ≤ 0x87 then s
  else setOperand c (unitOf p) (offOf p) i.v s

/-- A SYS state port. -/
def isStatePort (p : Nat) : Bool := 0x83 ≤ p && p ≤ 0x87
/-- A write that makes the next bundle a shadow bundle (R248). -/
def isShadowPort (p : Nat) : Bool := 0x83 ≤ p && p ≤ 0x86

/-- The triggers that start an operation: the later of each unit (R204). -/
def lastPerUnit : List Item → List Item
  | [] => []
  | i :: l => if l.any (fun j => unitOf j.dest == unitOf i.dest) then lastPerUnit l else i :: lastPerUnit l

def trigOf (i : Item) : Trig := ⟨unitOf i.dest, offOf i.dest, i.v, i.m.1.va, offOf i.dest * 8 + i.m.2.2.slot * 2 + bnat i.m.2.1⟩

/-- Order in which triggers of one group act: loads see memory before the group's atomic operations and stores, lookups the TLB before
its SYS operations (R230, R304); an atomic operation before a store is a DESIGN CHOICE (notes/assumptions/62.md). -/
def fireRank (g : Trig) : Nat :=
  if g.unit = 0 then 100 else if g.unit = 1 then 99
  else if g.unit = 12 ∨ g.unit = 13 then (if g.off < 16 then g.unit else if g.off < 20 then 60 + g.unit else 40 + g.unit)
  else g.unit

def groupTrigs (items : List Item) : List Trig :=
  sortKey fireRank ((lastPerUnit (items.filter (fun i => isTrigger i.dest))).map trigOf)

/-- CACHE_OP 4 to 6 at privilege U (R216). -/
def cacheOpPriv (k : Core) (items : List Item) (m : GMove) : Bool :=
  k.user && m.2.2.dest == 0x8F && items.any (fun i => i.m == m && within 4 6 i.v)

/-- A move raises ILLEGAL_OP by what it moves; s1: the state after the writes to operand ports (R212, R215 to R220). -/
def itemBad (s1 : State) (c : CoxId) (g : Group) (i : Item) : Bool :=
  (isStatePort i.dest && stateBad (offOf i.dest) i.v)
  || (isTrigger i.dest && triggerBad s1 c (g.any (fun b => b.1.serial)) (unitOf i.dest) (offOf i.dest) i.v)

/-- The first ILLEGAL_BUNDLE, ILLEGAL_PORT or PRIVILEGE of a group, whatever its guards, or ILLEGAL_OP of its moves with true guards
(R203, R211 to R216). -/
def groupFault (s s1 : State) (c : CoxId) (g : Group) (items : List Item) : Option Exc :=
  let k := core s c
  match bundleFault k ((k.xfer.map (·.kind)).getD 0) g with
  | some e => some e
  | none =>
    match firstPort 9 g (fun _ p => p.2.isNone) with
    | some e => some e
    | none =>
      match firstPort 0xA g (fun m p => (k.user && p.2 == some true) || (p.1 == m.2.2.dest && cacheOpPriv k items m)) with
      | some e => some e
      | none => (items.find? (itemBad s1 c g)).map (fun i => moveExc 0xB g i.dest i.m)

/-! ### What a group needs of memory before it issues (R262, R296, R311) -/

/-- What stands before a group: nothing, an exception, a walk to be made. -/
inductive Need where
  | nothing
  | bad (e : Exc)
  | walk (va : Nat)
deriving DecidableEq, Repr

/-- An access of the group: kind, address, bytes. A fault names the part at fault (R262), one of the shadow stack its word (R273). -/
def needOf (k : Core) (acc : CpuAcc) (va n unit whr : Nat) : Need :=
  let named (a : Nat) : Nat := if acc.shadow then va else a
  match txParts k acc va n with
  | .ok _ => .nothing
  | .fault x a => .bad (groupExc x (named a) unit whr)
  | .miss a => match walkExc k ⟨a, 1, rootOf k.xlate⟩ (named a) unit whr with
    | some e => .bad (if acc.shadow then { e with cause := 0x0D } else e)
    | none => .walk a

/-- The data accesses that a trigger makes, those of RUDDER apart (R216, R229). -/
def trigNeed (s : State) (c : CoxId) (g : Trig) : Need :=
  let k := core s c
  match g.unit with
  | 0 => if g.off = 0xF ∧ g.t < 4 then needOf k .load (operandPort s c 0 0) 1 0 g.whr else .nothing
  | 12 | 13 =>
    match lsuAccess g.off ((operandPort s c g.unit 0 + g.t) % w64) with
    | some (acc, va, n) => needOf k acc va n g.unit g.whr
    | none => .nothing
  | _ => .nothing

/-- Parts of the shadow-stack word that a call writes: virtual address, physical address, length (R262, R296). -/
def pushParts (k : Core) : List (Nat × Nat × Nat) :=
  match txParts k .ssStore (pushVa k) 8 with
  | .ok l => l.map (fun p => (p.1, p.2.1, p.2.2.1))
  | _ => []

/-- A transfer pending at its delay bundle is a call whose word is still to be translated: after a return to the delay bundle, or as
that bundle writes SSP (R291, R296). -/
def pushStale (k1 : Core) (x : Xfer) : Bool := x.kind == 2 && (x.push.head?.map (·.1)) != some (pushVa k1)

/-- The shadow-stack access of a group: that of its RUDDER trigger or of the transfer that is pending (R218, R296). -/
def shadowNeed (k1 : Core) (tr : List Trig) : Need :=
  match tr.find? (fun t => t.unit == 1), k1.xfer with
  | some t, _ =>
    if t.off = 0xA ∨ t.off = 0xB then needOf k1 .ssStore (pushVa k1) 8 1 t.whr
    else if t.off = 0xC then needOf k1 .ssLoad k1.ssp 8 1 t.whr else .nothing
  | none, some x => if pushStale k1 x then needOf k1 .ssStore (pushVa k1) 8 1 0 else .nothing
  | none, none => .nothing

/-- The shadow-stack word that a RETURN reads (R296): state, word or exception. -/
def popWord (c : CoxId) (ssp : Nat) (g : Trig) (s : State) : State × Except Exc Nat :=
  match txParts (core s c) .ssLoad ssp 8 with
  | .ok l =>
    let r := l.foldl (fun (acc : State × List Byte × Bool) p =>
      let x := cpuRead c p.2.1 p.2.2.1 (detOutside c p.2.1 acc.1)
      (x.st, acc.2.1 ++ x.data, acc.2.2 || x.code != 0)) (s, [], false)
    if r.2.2 then (r.1, .error (groupExc 0x0D ssp 1 g.whr)) else (r.1, .ok (leNat r.2.1))
  | _ => (s, .error (groupExc 0x0D ssp 1 g.whr))

/-- RETURN compares T with the shadow-stack top when it issues (R218). -/
def returnCheck (c : CoxId) (ssp : Nat) (g : Trig) (s : State) : State × Option Exc :=
  match popWord c ssp g s with
  | (s, .error e) => (s, some e)
  | (s, .ok w) => (s, if w = g.t then none else some (groupExc 0x0C w 1 g.whr))

/-- The level that a group's ERET returns from, with its WHERE, or that of an ERET pending at its delay bundle whose words are
still to be read (R287, R291). -/
def eretLevel (s : State) (c : CoxId) (tr : List Trig) : Option (Nat × Nat) :=
  match tr.find? (fun t => t.unit == 1 && t.off == 0xE) with
  | some t => some (curLevel s c, t.whr)
  | none => match (core s c).xfer with
    | some x => if x.kind = 5 ∧ x.words.isEmpty then some (x.target, 0) else none
    | none => none

/-- The translation of the frame that an ERET reads (R287, R304, R311): a miss is walked before the group issues. -/
def frameNeed (s : State) (c : CoxId) (lev whr : Nat) : Need :=
  let k := core s c
  if bit (s.rd (F (.cox c) 0x200 15 12)) (lev - 1) then
    ((List.range 8).findSome? (fun i =>
      let va := k.g[63].toNat + 32 * i
      match translate k k.xlate false .load va with
      | .ok .. => none
      | .fault x => some (Need.bad (groupExc x va 1 whr))
      | .miss => some (match walkExc k ⟨va, 1, rootOf k.xlate⟩ va 1 whr with
        | some e => .bad e
        | none => .walk va))).getD .nothing
  else .nothing

/-- ERET: the words that it restores are read and legal, or it raises ILLEGAL_OP (R286). -/
def eretCheck (c : CoxId) (lev whr fva : Nat) (s : State) : State × Except Exc (List Nat) :=
  match frameNeed s c lev whr with
  | .bad e => (s, .error e)
  | _ =>
    match returnWords c lev s with
    | (s, .error e) => (s, .error { e with unit := 1, whr := if e.cause = 0x15 then e.whr else whr })
    | (s, .ok ws) => (s, if wordsOk ws then .ok ws else .error (groupExc 0xB fva 1 whr))

/-- What a group that issues has found: the parts of a call's word and the words of an ERET. -/
structure Given where
  push : List (Nat × Nat × Nat)
  words : List Nat
deriving DecidableEq, Repr

/-- The checks beside R213, in the order of R276: the state that an ERET restores, which is an ILLEGAL_OP; the shadow stack; the data
accesses, LSU0 before LSU1. A miss holds the group before (R311). -/
def needCheck (c : CoxId) (g : Group) (tr : List Trig) (s s1 : State) : State × Need × Given :=
  let k1 := core s1 c
  let shadow := shadowNeed k1 tr
  let needs := (sortKey (fun t => t.unit) tr).map (trigNeed s1 c)
  let isWalk (n : Need) : Bool := match n with | .walk _ => true | _ => false
  let none_ : Given := ⟨[], []⟩
  let frame := match eretLevel s c tr with
    | some (l, whr) => frameNeed s c l whr
    | none => .nothing
  match (frame :: shadow :: needs).find? isWalk with
  | some n => (s, n, none_)
  | none =>
    let eret : State × Except Exc (List Nat) := match eretLevel s c tr with
      | some (l, whr) => eretCheck c l whr (groupVa g) s
      | none => (s, .ok [])
    match eret with
    | (s, .error e) => (s, .bad e, none_)
    | (s, .ok ws) =>
      if shadow ≠ .nothing then (s, shadow, none_)
      else
        let ret := match tr.find? (fun t => t.unit == 1 && t.off == 0xC) with
          | some t => returnCheck c k1.ssp t s
          | none => (s, none)
        match ret with
        | (s, some e) => (s, .bad e, none_)
        | (s, none) => (s, (needs.find? (fun n => n ≠ .nothing)).getD .nothing, ⟨pushParts k1, ws⟩)

/-- Store-buffer entries after the group's stores (R258). -/
def sbAfter (s1 : State) (c : CoxId) (tr : List Trig) : Nat :=
  let k := core s1 c
  (tr.foldl (fun (sb : List SbEnt) t =>
    if (t.unit = 12 ∨ t.unit = 13) ∧ 16 ≤ t.off ∧ t.off < 20 then
      match txParts k .store ((operandPort s1 c t.unit 0 + t.t) % w64) (storeSize t.off) with
      | .ok l => sbStore k (l.map (fun p => ⟨p.2.1, List.replicate p.2.2.1 0, p.2.2.2, cacheable k p.2.1 p.2.2.2⟩)) sb
      | _ => sb
    else sb) k.sb).length

/-! ### Effects -/

/-- Writes to SYS state commit at the end of the bundle; those of FPENV after the completions of the cycle (R204, R215, R248). -/
def stateWrite (c : CoxId) (p v : Nat) (s : State) : State :=
  onCore c (fun k => match p with
    | 0x83 => if curLevel s c = 4 then k else { k with maskLev := v }
    | 0x84 => { k with user := bit v 0, sua := bit v 1 }
    | 0x85 => { k with vbase := v }
    | 0x86 => { k with xlate := v }
    | 0x87 => { k with fpenv := v }
    | _ => k) s

/-- g and p take their writes at the end of the cycle (R204, R207). -/
def regWriteG (p v : Nat) (k : Core) : Core :=
  if h : p < 64 then { k with g := k.g.set p (BitVec.ofNat 64 v) } else k
def regWriteP (p v : Nat) (k : Core) : Core :=
  if 0x40 < p ∧ p < 0x50 then { k with preds := setBit k.preds (p - 0x40) (bit v 0) } else k

/-- Index and tag of the branch target buffer (R247). -/
def btbIx (va : Nat) : Nat := bits va 9 4
def btbOn (s : State) (c : CoxId) : Bool := !(core s c).det && s.rd (F (.cox c) 0x100 1 1) == 1
def predicted (s : State) (c : CoxId) (va : Nat) : Option Nat :=
  if btbOn s c then ((nget (btbIx va) (core s c).btb).bind (fun e => if e.1 = va then some e.2 else none)) else none

/-- The cost of a taken transfer with no prediction (R246). -/
def fullCost (s : State) (c : CoxId) : Nat := if (core s c).det then 3 else 2

/-- A level's copy as the queue takes it. -/
def LoopLev.copied (l : LoopLev) : List (Nat × Fetched) := l.copy.map (fun b => (b.1, .got b.2))

/-- A taken transfer: what follows is fetched at its target, or comes from the loop copy (R245 to R247, R249). -/
def takeTransfer (c : CoxId) (from_ : Option Nat) (target : Nat) (s : State) : State :=
  let hit := (from_.bind (predicted s c)) == some target
  let s := onCore c (fun k => { k with
    pc := target, queue := ((k.loops.head?).map LoopLev.copied).getD [], miss := none, faulted := []
    btb := match from_ with
      | some va => if btbOn s c then nput (btbIx va) (va, target) k.btb else k.btb
      | none => k.btb }) s
  if hit then s else payCycles c (fullCost s c) s

/-- A call's push: the return address goes to SSP - 8, past the data cache; an error response is a store error (R218, R296). -/
def pushReturn (c : CoxId) (ret : Nat) (parts : List (Nat × Nat × Nat)) (s : State) : State :=
  let s := onCore c (fun k => { k with link := ret, ssp := pushVa k }) s
  let put (acc : State × List Byte) (p : Nat × Nat × Nat) : State × List Byte :=
    let (s, code) := cpuWrite c p.2.1 (acc.2.take p.2.2) (detOutside c p.2.1 acc.1)
    (if code = 0 then s else storeError c p.2.1 code p.2.2 0 s, acc.2.drop p.2.2)
  (parts.foldl put (s, leBytes 8 ret)).1

/-- A software trap (R273, R284); after a return to its delay bundle the slot of its move is open (notes/assumptions/1.md). -/
def softwareTrap (c : CoxId) (x : Xfer) (s : State) : State :=
  let (whr, s) := match x.whr with
    | some w => (w, s)
    | none => let (i, s) := s.fresh; (13 * 8 + (Config.openWord i).toNat % 8, s)
  raiseTrap c (groupExc (0x20 + x.target % 16) 0 1 whr) (onCore c (fun k => { k with queue := [] }) s)

/-- The transfer after its delay bundle (R245, R291); next: the bundle after the delay bundle. -/
def doTransfer (c : CoxId) (x : Xfer) (next : Nat) (s : State) : State :=
  let s := onCore c (fun k => { k with xfer := none }) s
  match x.kind with
  | 1 => takeTransfer c x.from_ x.target s
  | 2 => takeTransfer c x.from_ x.target (pushReturn c next x.push s)
  | 3 => takeTransfer c x.from_ x.target (onCore c (fun k => { k with ssp := (k.ssp + 8) % w64 }) s)
  | 4 => softwareTrap c x s
  | _ => doReturn c x.target x.words s

/-- A transfer with what its group, or that of its delay bundle, found for it. -/
def Xfer.given (x : Xfer) (k1 : Core) (gv : Given) : Xfer :=
  { x with push := if pushStale k1 x then gv.push else x.push, words := if x.words.isEmpty then gv.words else x.words }

/-- The copies take the first four bundles of their bodies as they first issue (R249). -/
def copyBundle (va w : Nat) (k : Core) : Core :=
  { k with loops := k.loops.map (fun l => if l.takes va then { l with copy := l.copy ++ [(va, w)] } else l) }

/-- A LEND bundle: the body again, from its copy, or the level closes; whether the copy was there. One that FETCH_SYNC discarded is taken
again from the body's start (R220, R249, R250). -/
def loopBack (c : CoxId) (s : State) : State × Bool :=
  match (core s c).loops with
  | [] => (s, true)
  | l :: rest =>
    if l.count > 1 then
      let l := if l.holds l.start then l else { l with copy := [] }
      (onCore c (fun k => { k with loops := { l with count := l.count - 1 } :: rest, pc := l.start, miss := none, queue := l.copied }) s,
       !l.copy.isEmpty)
    else (onCore c (fun k => { k with loops := rest }) s, true)

/-- Empty cycles of a transfer's cost. -/
def payCost (c : CoxId) (s : State) : State := payCycles c (fullCost s c) s

/-- What follows a group that leaves no transfer pending: a loop back, empty cycles owed since the bundle before, and, after a
shadow bundle or FETCH_SYNC, fetch anew at the cost of a transfer (R246, R248, R249, R264). -/
def goesOn (c : CoxId) (g : Group) (owed : Nat) (anew : Bool) (s : State) : State :=
  let (s, copied) := if g.any (fun b => b.1.lend) then loopBack c s else (s, true)
  let s := if anew then onCore c (fun k => { k with queue := [], miss := none }) s else s
  if anew || !copied then payCost c s else payCycles c owed s

/-- After a group: the program counter moves on, a transfer predicted taken and not taken is noted, then the transfer, the loop or
the next bundle. had: the transfer whose delay bundle the group was; anew: it was a shadow bundle or held a FETCH_SYNC. -/
def afterGroup (c : CoxId) (g : Group) (had : Option Xfer) (anew : Bool) (s : State) : State :=
  let next := groupNext g
  let owed := (core s c).owe
  let missed := if (core s c).xfer.isNone then g.find? (fun b => b.1.rudder && (predicted s c b.1.va).isSome) else none
  let s := onCore c (fun k => { k with
    pc := next, faulted := []
    paired := k.det && (match g.getLast? with | some b => b.1.pair | none => false)
    owe := if missed.isSome then 2 else 0
    btb := match missed with
      | some b => ndel (btbIx b.1.va) k.btb
      | none => k.btb
    queue := k.queue.filter (fun q => !g.any (fun b => b.1.va == q.1)) }) s
  match had with
  | some x =>
    doTransfer c x next (if anew then onCore c (fun k => { k with btb := k.btb.filter (fun e => some e.2.1 ≠ x.from_) }) s else s)
  | none => goesOn c g owed anew s

/-- A group issues: its writes, triggers and transfers in the order of R204. raw: addresses and words of its bundles, for the loop
copy; s0: the state before the group. -/
def issueNow (c : CoxId) (g : Group) (raw : List (Nat × Nat)) (items : List Item) (tr : List Trig) (gv : Given) (s1 : State) : State :=
  let k1 := core s1 c
  let had := k1.xfer.map (fun x => x.given k1 gv)
  let last := lastOnly items
  let regs := fun (f : Nat → Nat → Core → Core) (s : State) => onCore c (fun k => last.foldl (fun k i => f i.dest i.v k) k) s
  let s := onCore c (fun k => raw.foldl (fun k b => copyBundle b.1 b.2 k) { k with xfer := none }) s1
  let s := forAll tr (fire c (groupNext g)) s
  let s := forAll (last.filter (fun i => isShadowPort i.dest)) (fun i s => stateWrite c i.dest i.v s) s
  let s := onCore c (fun k => { k with
    xfer := k.xfer.map (fun x => x.given k1 gv)
    shadow := if last.any (fun i => isShadowPort i.dest) then some (k1.xlate, k1.user) else none }) s
  let s := settle c (onCore c (fun k => k.runs 1) (regs regWriteG s))
  let s := regs regWriteP s
  let s := forAll (last.filter (fun i => i.dest == 0x87)) (fun i s => stateWrite c i.dest i.v s) s
  let s := afterGroup c g had (k1.shadow.isSome || tr.any (fun t => t.unit == 0 && t.off == 8)) s
  if tr.any (fun t => t.unit == 0 && t.off == 9) then easyProgress s else s

/-- A SERIAL group, or one with ERET, waits for the core's operations, stores and cache operations (R198, R216, R261, R287). -/
def serialWaits (k : Core) : Bool := !k.flight.isEmpty || !k.sb.isEmpty || !k.sbErr.isEmpty || !k.cacheOps.isEmpty

/-- A store error that is not masked is taken before a SERIAL bundle (R261). -/
def sterrFirst (s : State) (c : CoxId) : Bool :=
  s.rd (F (.cox c) 0x110 31 31) == 1 && s.rd (F (.cox c) 0x100 9 8) > max (core s c).maskLev (curLevel s c)

/-- A group whose moves are legal: it issues, holds for a walk, freezes, or raises an exception. -/
def issueChecked (c : CoxId) (g : Group) (raw : List (Nat × Nat)) (items : List Item) (s s1 : State) : State :=
  let tr := groupTrigs (lastOnly items)
  match needCheck c g tr s s1 with
  | (s, .bad e, _) => raise c e s
  | (s, .walk va, _) => passCycles c 1 0 (startWalk c ⟨va, 1, rootOf (core s c).xlate⟩ s)
  | (s, .nothing, gv) =>
    let more := sbAfter s1 c tr
    if more > 8 then freeze c 27 (8 + (core s c).sb.length - more) s
    else issueNow c g raw items tr gv (forAll (lastOnly items) (operandWrite c) s)

/-- A group in which a move raises ILLEGAL_OP: an ERET in a lower rank whose state words are not legal comes before it (R213, R286). -/
def opFault (c : CoxId) (g : Group) (items : List Item) (e : Exc) (s s1 : State) : State :=
  let before := if e.cause = 0xB then (items.takeWhile (fun i => !itemBad s1 c g i)).find? (fun i => i.dest == 0xAE) else none
  match before with
  | none => raise c e s
  | some i =>
    let whr := (trigOf i).whr
    match frameNeed s c (curLevel s c) whr with
    | .walk va => passCycles c 1 0 (startWalk c ⟨va, 1, rootOf (core s c).xlate⟩ s)
    | _ => match eretCheck c (curLevel s c) whr (groupVa g) s with
      | (s, .error x) => raise c (if x.cause = 0xB then x else e) s
      | (s, .ok _) => raise c e s

/-- An issue cycle with a group at hand: a SERIAL group, or one with ERET, waits its time (R198, R261, R287). -/
def issueGroup (c : CoxId) (g : Group) (raw : List (Nat × Nat)) (s : State) : State :=
  let items := groupItems s c g
  let serial := g.any (fun b => b.1.serial)
  if (serial || items.any (fun i => i.dest == 0xAE)) && serialWaits (core s c) then passCycles c 1 0 s
  else if serial && sterrFirst s c then s
  else
    let s1 := forAll (lastOnly items) (operandWrite c) s
    match groupFault s s1 c g items with
    | some e => opFault c g items e s s1
    | none => issueChecked c g raw items s s1

/-- A core that can issue: released, not in WAIT, with no exception to be taken first. -/
def mayIssue (s : State) (c : CoxId) : Bool :=
  let k := core s c
  k.on && !k.stuck && !waiting s c && k.exc.isNone && s.mode != modeBoathouse

/-- A core in WAIT whose cycles pass (R236). -/
def idles (s : State) (c : CoxId) : Bool :=
  let k := core s c
  k.on && !k.stuck && waiting s c && k.exc.isNone && s.mode != modeBoathouse

/-- One core cycle of a core with a group from `fetch` (R236): frozen, in WAIT, empty by the cost of a transfer, or one that may issue.
ahead: fetch goes on in a frozen cycle. -/
def coreCycle (c : CoxId) (ahead fetch : State → State) (s : State) : State :=
  if idles s c then (if heldUp (core s c) then freeze c 28 0 s else passCycles c 1 0 s)
  else if !mayIssue s c then s
  else match (core s c).catchup with
    | some cu => holdCycle c cu s
    | none =>
      if heldUp (core s c) then ahead (freeze c 28 0 s)
      else if (core s c).gap ≠ 0 then passCycles c 1 1 (onCore c (fun k => { k with gap := k.gap - 1 }) s)
      else fetch s

/-- A fetch bubble (R241). -/
def bubble (c : CoxId) (s : State) : State := passCycles c 1 1 s

/-- An exception of fetch, of the second bundle of a pair where it is that (R284); a bus error's WHERE is its response. -/
def fetchRaise (c : CoxId) (second : Bool) (e : Exc) (s : State) : State :=
  raise c (if e.cause = 6 then e else { e with whr := bnat second }) s

/-- ISSUE_GROUP: the bundle at the program counter, with its pair in normal mode (R203, R243, R244). A fault of fetch in either comes
before every other exception of the group (R213, R276). -/
def issueFetched (c : CoxId) (s : State) : State :=
  let s := fetchAhead c s
  let k := core s c
  match heldAt k k.pc with
  | none => bubble c s
  | some (.bad e) => fetchRaise c false e s
  | some (.got w) =>
    let b := bundleOf k.pc w
    if b.pair && !k.det then
      match heldAt k (k.pc + 16) with
      | none => bubble c s
      | some (.bad e) => fetchRaise c true e s
      | some (.got w2) => issueGroup c [(b, false), (bundleOf (k.pc + 16) w2, true)] [(k.pc, w), (k.pc + 16, w2)] s
    else issueGroup c [(b, false)] [(k.pc, w)] s

/-- A bundle of one move at the program counter: a value to a port, always; serial: its SERIAL bit. -/
def oneMove (pc port v : Nat) (serial : Bool) : Bun := ⟨pc, false, false, serial, false, [⟨false, 0, port, .imm v, 0⟩]⟩

/-- A command that names one trigger, or one SYS state port: an issue group of that one move at the program counter
(DESIGN CHOICE, notes/assumptions/31.md). -/
def issueOne (c : CoxId) (port v : Nat) (serial : Bool) (s : State) : State :=
  coreCycle c id (fun s => issueGroup c [(oneMove (core s c).pc port v serial, false)] [] s) s

/-- STORE_ERROR_RESPONSE: the oldest error response is captured, or counted while one is held (R260). -/
def storeErrorTaken (c : CoxId) (s : State) : State :=
  match (core s c).sbErr with
  | [] => s
  | e :: rest =>
    let s := onCore c (fun k => { k with sbErr := rest }) s
    if s.rd (F (.cox c) 0x110 31 31) = 1 then s.countSat (F (.cox c) 0x110 23 16) 1
    else (s.wr (F64 (.cox c) 0x108) e.addr).wr (F32 (.cox c) 0x110) (2 ^ 31 + e.resp % 256 * 2 ^ 8 + e.size * 2 ^ 4 + e.kind)

end Sys2Proof.Machine
end

