-- ==== Sys2Proof/Machine/CoxUnits.lean ====
section
/-!
DEFINITION. The commands of the Cox cores (06 to 10), one meaning for each. A command that names an operation of a unit is an
issue group of that one trigger at the program counter (notes/assumptions/31.md).
-/
namespace Sys2Proof.Machine

/-- A core that is released and not stopped; the others have nothing in progress. -/
def onRunning (c : CoxId) (f : State → State) (s : State) : State := if (core s c).on && s.mode != modeBoathouse then f s else s

/-! ### The pipeline, the caches, exceptions -/

def execIssueGroup (c : CoxId) (s : State) : Answer := .next (coreCycle c (fetchAhead c) (issueFetched c) s)

/-- A write of MASK 3, STATUS 4, VBASE 5, XLATE 6 or FPENV 7 (R215, R248). -/
def execSysStateWrite (c : CoxId) (port : BitVec 4) (v : W64) (s : State) : Answer :=
  .next (if within 3 7 port.toNat then issueOne c (portOf 0 port.toNat) v.toNat false s else s)

def execFetchLineArrival (c : CoxId) (s : State) : Answer := .next (onRunning c (lineArrives c) s)

def execLoadDataArrival (c : CoxId) (s : State) : Answer := .next (onRunning c (dataArrives c) s)

def execOperationComplete (c : CoxId) (s : State) : Answer := .next (onRunning c (operationEnds c) s)

def execStoreBufferDrain (c : CoxId) (s : State) : Answer := .next (onRunning c (drainTurn c) s)

def execStoreErrorResponse (c : CoxId) (s : State) : Answer := .next (onRunning c (storeErrorTaken c) s)

def execWalkComplete (c : CoxId) (s : State) : Answer := .next (onRunning c (walkEnds c) s)

def execTlbBcastComplete (c : CoxId) (s : State) : Answer := .next (bcastDone c s)

def execCacheOpDone (c : CoxId) (s : State) : Answer := .next (onRunning c (cacheOpDone c) s)

def execInterruptEntry (c : CoxId) (s : State) : Answer := .next (onRunning c (interruptEntry c) s)

def execSyncExceptionEntry (c : CoxId) (s : State) : Answer := .next (onRunning c (syncEntry c) s)

/-! ### SYS, unit 0 -/

/-- FETCH_SYNC in a SERIAL bundle (R214). -/
def execFetchSync (c : CoxId) (t : W64) (s : State) : Answer := .next (issueOne c (portOf 0 8) t.toNat true s)

/-- WAIT (R214). -/
def execWait (c : CoxId) (t : W64) (s : State) : Answer := .next (issueOne c (portOf 0 9) t.toNat false s)

/-- TLB_WRITE (R305). -/
def execTlbWrite (c : CoxId) (t : W64) (s : State) : Answer := .next (issueOne c (portOf 0 10) t.toNat false s)

/-- TLB_READ (R305). -/
def execTlbRead (c : CoxId) (t : W64) (s : State) : Answer := .next (issueOne c (portOf 0 11) t.toNat false s)

/-- TLB_INV_VA (R214). -/
def execTlbInvVa (c : CoxId) (t : W64) (s : State) : Answer := .next (issueOne c (portOf 0 12) t.toNat false s)

/-- TLB_INV_ALL (R214). -/
def execTlbInvAll (c : CoxId) (t : W64) (s : State) : Answer := .next (issueOne c (portOf 0 13) t.toNat false s)

/-- TLB_BCAST (R316). -/
def execTlbBcast (c : CoxId) (t : W64) (s : State) : Answer := .next (issueOne c (portOf 0 14) t.toNat false s)

/-- SAVE_READ (R286). -/
def execSaveRead (c : CoxId) (t : W64) (s : State) : Answer := .next (issueOne c (portOf 0 16) t.toNat false s)

/-- SAVE_WRITE (R286). -/
def execSaveWrite (c : CoxId) (t : W64) (s : State) : Answer := .next (issueOne c (portOf 0 17) t.toNat false s)

/-- CACHE_OP of an operation at an address. -/
def issueCacheOp (c : CoxId) (op va : Nat) (s : State) : State :=
  coreCycle c id (fun s =>
    let b : Bun := ⟨(core s c).pc, false, false, false, false, [⟨false, 0, portOf 0 0, .imm va, 0⟩, ⟨false, 0, portOf 0 0xF, .imm op, 1⟩]⟩
    issueGroup c [(b, false)] [] s) s

/-! CACHE_OP: a group of two moves, the address t to O1 and the operation to the trigger (R216). -/

/-- CLEAN_D_LINE (R216). -/
def execCleanDLine (c : CoxId) (t : W64) (s : State) : Answer := .next (issueCacheOp c 0 t.toNat s)

/-- INVAL_D_LINE (R216). -/
def execInvalDLine (c : CoxId) (t : W64) (s : State) : Answer := .next (issueCacheOp c 1 t.toNat s)

/-- CLEAN_INVAL_D_LINE (R216). -/
def execCleanInvalDLine (c : CoxId) (t : W64) (s : State) : Answer := .next (issueCacheOp c 2 t.toNat s)

/-- INVAL_I_LINE (R216). -/
def execInvalILine (c : CoxId) (t : W64) (s : State) : Answer := .next (issueCacheOp c 3 t.toNat s)

/-- CLEAN_D_ALL (R216). -/
def execCleanDAll (c : CoxId) (t : W64) (s : State) : Answer := .next (issueCacheOp c 4 t.toNat s)

/-- CLEAN_INVAL_D_ALL (R216). -/
def execCleanInvalDAll (c : CoxId) (t : W64) (s : State) : Answer := .next (issueCacheOp c 5 t.toNat s)

/-- INVAL_I_ALL (R216). -/
def execInvalIAll (c : CoxId) (t : W64) (s : State) : Answer := .next (issueCacheOp c 6 t.toNat s)

/-! ### RUDDER, unit 1 -/

/-- JUMP (R245). -/
def execJump (c : CoxId) (t : W64) (s : State) : Answer := .next (issueOne c (portOf 1 8) t.toNat false s)

/-- JUMP_REL (R245). -/
def execJumpRel (c : CoxId) (t : W64) (s : State) : Answer := .next (issueOne c (portOf 1 9) t.toNat false s)

/-- CALL (R218). -/
def execCall (c : CoxId) (t : W64) (s : State) : Answer := .next (issueOne c (portOf 1 10) t.toNat false s)

/-- CALL_REL (R218). -/
def execCallRel (c : CoxId) (t : W64) (s : State) : Answer := .next (issueOne c (portOf 1 11) t.toNat false s)

/-- RETURN (R218). -/
def execRet (c : CoxId) (t : W64) (s : State) : Answer := .next (issueOne c (portOf 1 12) t.toNat false s)

/-- TRAP (R274). -/
def execTrap (c : CoxId) (t : W64) (s : State) : Answer := .next (issueOne c (portOf 1 13) t.toNat false s)

/-- ERET (R288). -/
def execEret (c : CoxId) (t : W64) (s : State) : Answer := .next (issueOne c (portOf 1 14) t.toNat false s)

/-! ### LOOP, unit 2 -/

/-- LOOP_START (R220). -/
def execLoopStart (c : CoxId) (t : W64) (s : State) : Answer := .next (issueOne c (portOf 2 8) t.toNat false s)

/-- LOOP_POP (R219). -/
def execLoopPop (c : CoxId) (t : W64) (s : State) : Answer := .next (issueOne c (portOf 2 9) t.toNat false s)

/-! ### ALU, unit 3 or 4 -/

/-- ADD (R221). -/
def execAdd (c : CoxId) (u : Bool) (t : W64) (s : State) : Answer := .next (issueOne c (portOf (3 + bnat u) 8) t.toNat false s)

/-- SUB (R221). -/
def execSub (c : CoxId) (u : Bool) (t : W64) (s : State) : Answer := .next (issueOne c (portOf (3 + bnat u) 9) t.toNat false s)

/-- ADDC (R322). -/
def execAddc (c : CoxId) (u : Bool) (t : W64) (s : State) : Answer := .next (issueOne c (portOf (3 + bnat u) 10) t.toNat false s)

/-- SUBB (R322). -/
def execSubb (c : CoxId) (u : Bool) (t : W64) (s : State) : Answer := .next (issueOne c (portOf (3 + bnat u) 11) t.toNat false s)

/-- ADD32 (R221). -/
def execAdd32 (c : CoxId) (u : Bool) (t : W64) (s : State) : Answer := .next (issueOne c (portOf (3 + bnat u) 12) t.toNat false s)

/-- SUB32 (R221). -/
def execSub32 (c : CoxId) (u : Bool) (t : W64) (s : State) : Answer := .next (issueOne c (portOf (3 + bnat u) 13) t.toNat false s)

/-- ADDS (R322). -/
def execAdds (c : CoxId) (u : Bool) (t : W64) (s : State) : Answer := .next (issueOne c (portOf (3 + bnat u) 14) t.toNat false s)

/-- SUBS (R322). -/
def execSubs (c : CoxId) (u : Bool) (t : W64) (s : State) : Answer := .next (issueOne c (portOf (3 + bnat u) 15) t.toNat false s)

/-- AND (R221). -/
def execAnd (c : CoxId) (u : Bool) (t : W64) (s : State) : Answer := .next (issueOne c (portOf (3 + bnat u) 16) t.toNat false s)

/-- OR (R221). -/
def execOr (c : CoxId) (u : Bool) (t : W64) (s : State) : Answer := .next (issueOne c (portOf (3 + bnat u) 17) t.toNat false s)

/-- XOR (R221). -/
def execXor (c : CoxId) (u : Bool) (t : W64) (s : State) : Answer := .next (issueOne c (portOf (3 + bnat u) 18) t.toNat false s)

/-- ANDN (R221). -/
def execAndn (c : CoxId) (u : Bool) (t : W64) (s : State) : Answer := .next (issueOne c (portOf (3 + bnat u) 19) t.toNat false s)

/-- MIN (R322). -/
def execMin (c : CoxId) (u : Bool) (t : W64) (s : State) : Answer := .next (issueOne c (portOf (3 + bnat u) 20) t.toNat false s)

/-- MAX (R322). -/
def execMax (c : CoxId) (u : Bool) (t : W64) (s : State) : Answer := .next (issueOne c (portOf (3 + bnat u) 21) t.toNat false s)

/-- MINU (R322). -/
def execMinu (c : CoxId) (u : Bool) (t : W64) (s : State) : Answer := .next (issueOne c (portOf (3 + bnat u) 22) t.toNat false s)

/-- MAXU (R322). -/
def execMaxu (c : CoxId) (u : Bool) (t : W64) (s : State) : Answer := .next (issueOne c (portOf (3 + bnat u) 23) t.toNat false s)

/-- ABS (R322). -/
def execAbs (c : CoxId) (u : Bool) (t : W64) (s : State) : Answer := .next (issueOne c (portOf (3 + bnat u) 24) t.toNat false s)

/-- NEG (R322). -/
def execNeg (c : CoxId) (u : Bool) (t : W64) (s : State) : Answer := .next (issueOne c (portOf (3 + bnat u) 25) t.toNat false s)

/-- PASS (R221). -/
def execPass (c : CoxId) (u : Bool) (t : W64) (s : State) : Answer := .next (issueOne c (portOf (3 + bnat u) 26) t.toNat false s)

/-! ### SHIFT, unit 5 -/

/-- SHL (R222). -/
def execShl (c : CoxId) (t : W64) (s : State) : Answer := .next (issueOne c (portOf 5 8) t.toNat false s)

/-- SHR (R222). -/
def execShr (c : CoxId) (t : W64) (s : State) : Answer := .next (issueOne c (portOf 5 9) t.toNat false s)

/-- SHRA (R222). -/
def execShra (c : CoxId) (t : W64) (s : State) : Answer := .next (issueOne c (portOf 5 10) t.toNat false s)

/-- ROTL (R222). -/
def execRotl (c : CoxId) (t : W64) (s : State) : Answer := .next (issueOne c (portOf 5 11) t.toNat false s)

/-- ROTR (R222). -/
def execRotr (c : CoxId) (t : W64) (s : State) : Answer := .next (issueOne c (portOf 5 12) t.toNat false s)

/-- SHL32 (R222). -/
def execShl32 (c : CoxId) (t : W64) (s : State) : Answer := .next (issueOne c (portOf 5 13) t.toNat false s)

/-- SHR32 (R222). -/
def execShr32 (c : CoxId) (t : W64) (s : State) : Answer := .next (issueOne c (portOf 5 14) t.toNat false s)

/-- SHRA32 (R222). -/
def execShra32 (c : CoxId) (t : W64) (s : State) : Answer := .next (issueOne c (portOf 5 15) t.toNat false s)

/-- FSHL (R222). -/
def execFshl (c : CoxId) (t : W64) (s : State) : Answer := .next (issueOne c (portOf 5 16) t.toNat false s)

/-- FSHR (R222). -/
def execFshr (c : CoxId) (t : W64) (s : State) : Answer := .next (issueOne c (portOf 5 17) t.toNat false s)

/-! ### MUL, unit 6 -/

/-- MULU (R223). -/
def execMulu (c : CoxId) (t : W64) (s : State) : Answer := .next (issueOne c (portOf 6 8) t.toNat false s)

/-- MULS (R223). -/
def execMuls (c : CoxId) (t : W64) (s : State) : Answer := .next (issueOne c (portOf 6 9) t.toNat false s)

/-- MULSU (R223). -/
def execMulsu (c : CoxId) (t : W64) (s : State) : Answer := .next (issueOne c (portOf 6 10) t.toNat false s)

/-- MUL32U (R223). -/
def execMul32u (c : CoxId) (t : W64) (s : State) : Answer := .next (issueOne c (portOf 6 11) t.toNat false s)

/-- MUL32S (R223). -/
def execMul32s (c : CoxId) (t : W64) (s : State) : Answer := .next (issueOne c (portOf 6 12) t.toNat false s)

/-! ### DIV, unit 7 -/

/-- DIVU (R324). -/
def execDivu (c : CoxId) (t : W64) (s : State) : Answer := .next (issueOne c (portOf 7 8) t.toNat false s)

/-- DIVS (R324). -/
def execDivs (c : CoxId) (t : W64) (s : State) : Answer := .next (issueOne c (portOf 7 9) t.toNat false s)

/-- DIVU32 (R324). -/
def execDivu32 (c : CoxId) (t : W64) (s : State) : Answer := .next (issueOne c (portOf 7 10) t.toNat false s)

/-- DIVS32 (R324). -/
def execDivs32 (c : CoxId) (t : W64) (s : State) : Answer := .next (issueOne c (portOf 7 11) t.toNat false s)

/-! ### FPU0, unit 8 -/

/-- FADD64 (R225). -/
def execFadd64 (c : CoxId) (t : W64) (s : State) : Answer := .next (issueOne c (portOf 8 8) t.toNat false s)

/-- FSUB64 (R225). -/
def execFsub64 (c : CoxId) (t : W64) (s : State) : Answer := .next (issueOne c (portOf 8 9) t.toNat false s)

/-- FMUL64 (R225). -/
def execFmul64 (c : CoxId) (t : W64) (s : State) : Answer := .next (issueOne c (portOf 8 10) t.toNat false s)

/-- FMA64 (R225). -/
def execFma64 (c : CoxId) (t : W64) (s : State) : Answer := .next (issueOne c (portOf 8 11) t.toNat false s)

/-- FNMS64 (R225). -/
def execFnms64 (c : CoxId) (t : W64) (s : State) : Answer := .next (issueOne c (portOf 8 12) t.toNat false s)

/-- FMIN64 (R325). -/
def execFmin64 (c : CoxId) (t : W64) (s : State) : Answer := .next (issueOne c (portOf 8 13) t.toNat false s)

/-- FMAX64 (R325). -/
def execFmax64 (c : CoxId) (t : W64) (s : State) : Answer := .next (issueOne c (portOf 8 14) t.toNat false s)

/-- FADD32 (R225). -/
def execFadd32 (c : CoxId) (t : W64) (s : State) : Answer := .next (issueOne c (portOf 8 16) t.toNat false s)

/-- FSUB32 (R225). -/
def execFsub32 (c : CoxId) (t : W64) (s : State) : Answer := .next (issueOne c (portOf 8 17) t.toNat false s)

/-- FMUL32 (R225). -/
def execFmul32 (c : CoxId) (t : W64) (s : State) : Answer := .next (issueOne c (portOf 8 18) t.toNat false s)

/-- FMA32 (R225). -/
def execFma32 (c : CoxId) (t : W64) (s : State) : Answer := .next (issueOne c (portOf 8 19) t.toNat false s)

/-- FNMS32 (R225). -/
def execFnms32 (c : CoxId) (t : W64) (s : State) : Answer := .next (issueOne c (portOf 8 20) t.toNat false s)

/-- FMIN32 (R325). -/
def execFmin32 (c : CoxId) (t : W64) (s : State) : Answer := .next (issueOne c (portOf 8 21) t.toNat false s)

/-- FMAX32 (R325). -/
def execFmax32 (c : CoxId) (t : W64) (s : State) : Answer := .next (issueOne c (portOf 8 22) t.toNat false s)

/-! ### FPU1, unit 9 -/

/-- FDIV64 (R226). -/
def execFdiv64 (c : CoxId) (t : W64) (s : State) : Answer := .next (issueOne c (portOf 9 8) t.toNat false s)

/-- FSQRT64 (R226). -/
def execFsqrt64 (c : CoxId) (t : W64) (s : State) : Answer := .next (issueOne c (portOf 9 9) t.toNat false s)

/-- FDIV32 (R226). -/
def execFdiv32 (c : CoxId) (t : W64) (s : State) : Answer := .next (issueOne c (portOf 9 10) t.toNat false s)

/-- FSQRT32 (R226). -/
def execFsqrt32 (c : CoxId) (t : W64) (s : State) : Answer := .next (issueOne c (portOf 9 11) t.toNat false s)

/-- F64TOF32 (R327). -/
def execF64tof32 (c : CoxId) (t : W64) (s : State) : Answer := .next (issueOne c (portOf 9 12) t.toNat false s)

/-- F32TOF64 (R327). -/
def execF32tof64 (c : CoxId) (t : W64) (s : State) : Answer := .next (issueOne c (portOf 9 13) t.toNat false s)

/-- F64TOS64 (R327). -/
def execF64tos64 (c : CoxId) (t : W64) (s : State) : Answer := .next (issueOne c (portOf 9 14) t.toNat false s)

/-- F64TOU64 (R327). -/
def execF64tou64 (c : CoxId) (t : W64) (s : State) : Answer := .next (issueOne c (portOf 9 15) t.toNat false s)

/-- S64TOF64 (R327). -/
def execS64tof64 (c : CoxId) (t : W64) (s : State) : Answer := .next (issueOne c (portOf 9 16) t.toNat false s)

/-- U64TOF64 (R327). -/
def execU64tof64 (c : CoxId) (t : W64) (s : State) : Answer := .next (issueOne c (portOf 9 17) t.toNat false s)

/-- F32TOS32 (R327). -/
def execF32tos32 (c : CoxId) (t : W64) (s : State) : Answer := .next (issueOne c (portOf 9 18) t.toNat false s)

/-- S32TOF32 (R327). -/
def execS32tof32 (c : CoxId) (t : W64) (s : State) : Answer := .next (issueOne c (portOf 9 19) t.toNat false s)

/-- F64TOS32 (R327). -/
def execF64tos32 (c : CoxId) (t : W64) (s : State) : Answer := .next (issueOne c (portOf 9 20) t.toNat false s)

/-- S32TOF64 (R327). -/
def execS32tof64 (c : CoxId) (t : W64) (s : State) : Answer := .next (issueOne c (portOf 9 21) t.toNat false s)

/-- F64ROUND (R327). -/
def execF64round (c : CoxId) (t : W64) (s : State) : Answer := .next (issueOne c (portOf 9 22) t.toNat false s)

/-- F32ROUND (R327). -/
def execF32round (c : CoxId) (t : W64) (s : State) : Answer := .next (issueOne c (portOf 9 23) t.toNat false s)

/-! ### DEC, unit 10 -/

/-- DADD (R334). -/
def execDadd (c : CoxId) (t : W64) (s : State) : Answer := .next (issueOne c (portOf 10 8) t.toNat false s)

/-- DSUB (R334). -/
def execDsub (c : CoxId) (t : W64) (s : State) : Answer := .next (issueOne c (portOf 10 9) t.toNat false s)

/-- DCHK (R334). -/
def execDchk (c : CoxId) (t : W64) (s : State) : Answer := .next (issueOne c (portOf 10 10) t.toNat false s)

/-- DNEG (R334). -/
def execDneg (c : CoxId) (t : W64) (s : State) : Answer := .next (issueOne c (portOf 10 11) t.toNat false s)

/-- DTOBIN (R334). -/
def execDtobin (c : CoxId) (t : W64) (s : State) : Answer := .next (issueOne c (portOf 10 12) t.toNat false s)

/-- BINTOD (R334). -/
def execBintod (c : CoxId) (t : W64) (s : State) : Answer := .next (issueOne c (portOf 10 13) t.toNat false s)

/-! ### CMP, unit 11 -/

/-- EQ (R228). -/
def execEq (c : CoxId) (t : W64) (s : State) : Answer := .next (issueOne c (portOf 11 8) t.toNat false s)

/-- NE (R228). -/
def execNe (c : CoxId) (t : W64) (s : State) : Answer := .next (issueOne c (portOf 11 9) t.toNat false s)

/-- LT (R228). -/
def execLt (c : CoxId) (t : W64) (s : State) : Answer := .next (issueOne c (portOf 11 10) t.toNat false s)

/-- LE (R228). -/
def execLe (c : CoxId) (t : W64) (s : State) : Answer := .next (issueOne c (portOf 11 11) t.toNat false s)

/-- LTU (R228). -/
def execLtu (c : CoxId) (t : W64) (s : State) : Answer := .next (issueOne c (portOf 11 12) t.toNat false s)

/-- LEU (R228). -/
def execLeu (c : CoxId) (t : W64) (s : State) : Answer := .next (issueOne c (portOf 11 13) t.toNat false s)

/-- TST (R228). -/
def execTst (c : CoxId) (t : W64) (s : State) : Answer := .next (issueOne c (portOf 11 14) t.toNat false s)

/-- EQ32 (R228). -/
def execEq32 (c : CoxId) (t : W64) (s : State) : Answer := .next (issueOne c (portOf 11 15) t.toNat false s)

/-- LT32 (R228). -/
def execLt32 (c : CoxId) (t : W64) (s : State) : Answer := .next (issueOne c (portOf 11 16) t.toNat false s)

/-- LTU32 (R228). -/
def execLtu32 (c : CoxId) (t : W64) (s : State) : Answer := .next (issueOne c (portOf 11 17) t.toNat false s)

/-- FEQ64 (R330). -/
def execFeq64 (c : CoxId) (t : W64) (s : State) : Answer := .next (issueOne c (portOf 11 18) t.toNat false s)

/-- FLT64 (R330). -/
def execFlt64 (c : CoxId) (t : W64) (s : State) : Answer := .next (issueOne c (portOf 11 19) t.toNat false s)

/-- FLE64 (R330). -/
def execFle64 (c : CoxId) (t : W64) (s : State) : Answer := .next (issueOne c (portOf 11 20) t.toNat false s)

/-- FUN64 (R330). -/
def execFun64 (c : CoxId) (t : W64) (s : State) : Answer := .next (issueOne c (portOf 11 21) t.toNat false s)

/-- FEQ32 (R330). -/
def execFeq32 (c : CoxId) (t : W64) (s : State) : Answer := .next (issueOne c (portOf 11 22) t.toNat false s)

/-- FLT32 (R330). -/
def execFlt32 (c : CoxId) (t : W64) (s : State) : Answer := .next (issueOne c (portOf 11 23) t.toNat false s)

/-- FLE32 (R330). -/
def execFle32 (c : CoxId) (t : W64) (s : State) : Answer := .next (issueOne c (portOf 11 24) t.toNat false s)

/-- FUN32 (R330). -/
def execFun32 (c : CoxId) (t : W64) (s : State) : Answer := .next (issueOne c (portOf 11 25) t.toNat false s)

/-! ### LSU, unit 12 or 13 -/

/-- LD8U (R229). -/
def execLd8u (c : CoxId) (u : Bool) (t : W64) (s : State) : Answer := .next (issueOne c (portOf (12 + bnat u) 8) t.toNat false s)

/-- LD8S (R229). -/
def execLd8s (c : CoxId) (u : Bool) (t : W64) (s : State) : Answer := .next (issueOne c (portOf (12 + bnat u) 9) t.toNat false s)

/-- LD16U (R229). -/
def execLd16u (c : CoxId) (u : Bool) (t : W64) (s : State) : Answer := .next (issueOne c (portOf (12 + bnat u) 10) t.toNat false s)

/-- LD16S (R229). -/
def execLd16s (c : CoxId) (u : Bool) (t : W64) (s : State) : Answer := .next (issueOne c (portOf (12 + bnat u) 11) t.toNat false s)

/-- LD32U (R229). -/
def execLd32u (c : CoxId) (u : Bool) (t : W64) (s : State) : Answer := .next (issueOne c (portOf (12 + bnat u) 12) t.toNat false s)

/-- LD32S (R229). -/
def execLd32s (c : CoxId) (u : Bool) (t : W64) (s : State) : Answer := .next (issueOne c (portOf (12 + bnat u) 13) t.toNat false s)

/-- LD64 (R229). -/
def execLd64 (c : CoxId) (u : Bool) (t : W64) (s : State) : Answer := .next (issueOne c (portOf (12 + bnat u) 14) t.toNat false s)

/-- PREFETCH (R313). -/
def execPrefetch (c : CoxId) (u : Bool) (t : W64) (s : State) : Answer := .next (issueOne c (portOf (12 + bnat u) 15) t.toNat false s)

/-- ST8 (R257). -/
def execSt8 (c : CoxId) (u : Bool) (t : W64) (s : State) : Answer := .next (issueOne c (portOf (12 + bnat u) 16) t.toNat false s)

/-- ST16 (R257). -/
def execSt16 (c : CoxId) (u : Bool) (t : W64) (s : State) : Answer := .next (issueOne c (portOf (12 + bnat u) 17) t.toNat false s)

/-- ST32 (R257). -/
def execSt32 (c : CoxId) (u : Bool) (t : W64) (s : State) : Answer := .next (issueOne c (portOf (12 + bnat u) 18) t.toNat false s)

/-- ST64 (R257). -/
def execSt64 (c : CoxId) (u : Bool) (t : W64) (s : State) : Answer := .next (issueOne c (portOf (12 + bnat u) 19) t.toNat false s)

/-- AADD32 (R229). -/
def execAadd32 (c : CoxId) (u : Bool) (t : W64) (s : State) : Answer := .next (issueOne c (portOf (12 + bnat u) 20) t.toNat false s)

/-- AADD64 (R229). -/
def execAadd64 (c : CoxId) (u : Bool) (t : W64) (s : State) : Answer := .next (issueOne c (portOf (12 + bnat u) 21) t.toNat false s)

/-- ASWP32 (R229). -/
def execAswp32 (c : CoxId) (u : Bool) (t : W64) (s : State) : Answer := .next (issueOne c (portOf (12 + bnat u) 22) t.toNat false s)

/-- ASWP64 (R229). -/
def execAswp64 (c : CoxId) (u : Bool) (t : W64) (s : State) : Answer := .next (issueOne c (portOf (12 + bnat u) 23) t.toNat false s)

/-! ### VEC, unit 14 -/

/-- SUBMIT (R231). -/
def execSubmit (c : CoxId) (t : W64) (s : State) : Answer := .next (issueOne c (portOf 14 8) t.toNat false s)

/-! ### TIME, unit 16 -/

/-- TIME_READ (R231). -/
def execTimeRead (c : CoxId) (t : W64) (s : State) : Answer := .next (issueOne c (portOf 16 8) t.toNat false s)

/-- TRIP_ARM (R350). -/
def execTripArm (c : CoxId) (t : W64) (s : State) : Answer := .next (issueOne c (portOf 16 9) t.toNat false s)

/-- TRIP_CANCEL (R350). -/
def execTripCancel (c : CoxId) (t : W64) (s : State) : Answer := .next (issueOne c (portOf 16 10) t.toNat false s)

/-! ### MAIL, unit 17 -/

/-- SEND (R231). -/
def execSend (c : CoxId) (t : W64) (s : State) : Answer := .next (issueOne c (portOf 17 8) t.toNat false s)

/-- RECV (R231). -/
def execRecv (c : CoxId) (t : W64) (s : State) : Answer := .next (issueOne c (portOf 17 9) t.toNat false s)

/-! ### BITS, unit 18 -/

/-- CLZ (R231). -/
def execClz (c : CoxId) (t : W64) (s : State) : Answer := .next (issueOne c (portOf 18 8) t.toNat false s)

/-- CTZ (R231). -/
def execCtz (c : CoxId) (t : W64) (s : State) : Answer := .next (issueOne c (portOf 18 9) t.toNat false s)

/-- POPC (R231). -/
def execPopc (c : CoxId) (t : W64) (s : State) : Answer := .next (issueOne c (portOf 18 10) t.toNat false s)

/-- BREV (R231). -/
def execBrev (c : CoxId) (t : W64) (s : State) : Answer := .next (issueOne c (portOf 18 11) t.toNat false s)

/-- BSWAP (R231). -/
def execBswap (c : CoxId) (t : W64) (s : State) : Answer := .next (issueOne c (portOf 18 12) t.toNat false s)

/-- EXTRACT (R231). -/
def execExtract (c : CoxId) (t : W64) (s : State) : Answer := .next (issueOne c (portOf 18 13) t.toNat false s)

/-- EXTRACTS (R231). -/
def execExtracts (c : CoxId) (t : W64) (s : State) : Answer := .next (issueOne c (portOf 18 14) t.toNat false s)

/-- INSERT (R231). -/
def execInsert (c : CoxId) (t : W64) (s : State) : Answer := .next (issueOne c (portOf 18 15) t.toNat false s)

/-- PDEP (R231). -/
def execPdep (c : CoxId) (t : W64) (s : State) : Answer := .next (issueOne c (portOf 18 16) t.toNat false s)

/-- PEXT (R231). -/
def execPext (c : CoxId) (t : W64) (s : State) : Answer := .next (issueOne c (portOf 18 17) t.toNat false s)

/-- CRC32C (R231). -/
def execCrc32c (c : CoxId) (t : W64) (s : State) : Answer := .next (issueOne c (portOf 18 18) t.toNat false s)

end Sys2Proof.Machine
end

