-- ==== Sys2Proof/Machine/Debug.lean ====
section
/-!
DEFINITION. The umpire pair (17, R488 to R490), the NMI wait (R486), and debug access over JTAG (R491, R492).
-/
namespace Sys2Proof.Machine

/-! ### The NMI wait (R486) -/

/-- A FAULT_NMI event has waited NMI_WAIT with its sticky bit still set. -/
def nmiOver (s : State) (w : NmiWait) : Bool := decide (w.since + s.rd (F .pwrFlt 8 15 0) * 1500 ≤ s.elapsed)

/-- NMI_WAIT_EXPIRY: events whose bit has been cleared escalate nothing (R486). -/
def nmiExpiry (s : State) : State :=
  let live := s.flt.nmi.filter (fun w => s.rdBit (fStatus w.src.blk) w.src.bit)
  let s' := onFlt (fun f => { f with nmi := live.filter (fun w => !nmiOver s w) }) s
  forAll (live.filter (nmiOver s)) (fun w s => escalate w.src 2 s) s'

/-! ### The umpire pair (R488 to R490) -/

/-- The levels driven on ERR_T and ERR_C: at fault, healthy, or as TOGGLE alternates them (R488, R489). -/
def umpDriven (s : State) : Bool × Bool :=
  if s.flt.pairFault || (s.flt.phase && s.rd (F .pwrFlt 0 1 1) == 1) then (false, true) else (true, false)

/-- UMPIRE_TOGGLE: 32 always-on cycles have passed (R489). -/
def umpToggle (s : State) : State :=
  if s.rd (F .pwrFlt 0 1 1) = 1 ∧ !s.flt.pairFault then onFlt (fun f => { f with phase := !f.phase }) s else s

/-- UMPIRE_HEALTHY: an always-on edge at which no fault cause holds (R488, R489). -/
def umpHealthy (s : State) : State :=
  if s.flt.pairFault ∧ umpCause s = 0 then onFlt (fun f => { f with pairFault := false, phase := false }) s else s

/-- UMPIRE_READBACK: the levels read on one always-on cycle (R490). -/
def umpReadback (t c : Bool) (s : State) : State :=
  let n := if (t, c) = umpDriven s then 0 else s.flt.mismatchFor + 1
  let bad := decide (n ≥ 2)
  let s := onFlt (fun f => { f with mismatchFor := n, mismatch := bad }) s
  condition .pwrFlt 0 bad (if bad then driveFault s else s)

/-! ### JTAG (R461, R491, R492) -/

def onDbg (f : DbgState → DbgState) (s : State) : State := { s with dbg := f s.dbg }

/-- All commands are permitted, OTP programming apart (R461). -/
def dbgAllowed (s : State) : Bool := s.lc == lcTest || s.lc == lcDevelop || s.lc == lcReturn

/-- Select BYPASS: a register of one bit that captures 0. -/
def jtagBypass (s : State) : State := onDbg (fun d => { d with ir := 0xFF, dr := 0 }) s

/-- LCSTAT (R491). -/
def lcStat (s : State) : Nat :=
  let p := umpDriven s
  s.lc * 2 ^ 29 + bnat p.1 * 2 ^ 28 + bnat p.2 * 2 ^ 27 + s.mode * 2 ^ 24 + s.rd (F .pwrLch 0 23 20) * 2 ^ 20
  + s.rd (F .pwrLch 0 19 16) * 2 ^ 16 + runningSlot s

/-- The response of a DBGCMD. -/
def dbgRespond (status data : Nat) (s : State) : State := onDbg (fun d => { d with status := status, data := data }) s

/-- The debug port's access waits at its target. -/
def dbgWaits (s : State) : Bool := s.held.any (fun h => h.req.master.val = 15)

/-- Take up the response of an access (R492). -/
def dbgTake (read : Bool) (s : State) : State :=
  let r := s.replies[(15 : Fin 16)]
  if r.code ≠ 0 then dbgRespond 3 r.code s else dbgRespond 0 (if read then leNat r.data else 0) s

/-- A scan of DBGCMD: it shifts out the previous response, and its command is carried out (R492). -/
def dbgScan (f : State → State) (s : State) : State :=
  if !busOn s then s
  else if !dbgAllowed s then jtagBypass s
  else if dbgWaits s then onDbg (fun d => { d with ir := 0x20, dr := 2 ^ 68 }) s
  else
    let s := if s.dbg.status = 1 then dbgTake (!s.replies[(15 : Fin 16)].data.isEmpty) s else s
    f (onDbg (fun d => { d with ir := 0x20, dr := d.status * 2 ^ 68 + d.data }) s)

/-- An access at ADDR, which then advances by the size (R492). -/
def dbgAccess (n : Nat) (op : BusOp) (s : State) : State :=
  let q : Req := ⟨15, 0, BitVec.ofNat 44 s.dbg.addr, op⟩
  let s := issueReq q false .data (onDbg (fun d => { d with addr := (d.addr + n) % 2 ^ 44 }) s)
  if dbgWaits s then dbgRespond 1 0 s else dbgTake q.isRead s

/-- What a command does, by its code and operand; how the fuses of LCREQ program is open (R492). -/
def dbgCommand (cmd operand : Nat) (s : State) : State :=
  match cmd with
  | 0x00 => s
  | 0x01 => dbgRespond 0 0 (onDbg (fun d => { d with addr := bits operand 43 0 }) s)
  | 0x02 => dbgAccess 4 (.read 4) s
  | 0x03 => dbgAccess 8 (.read 8) s
  | 0x04 => dbgAccess 4 (.write (leBytes 4 operand)) s
  | 0x05 => dbgAccess 8 (.write (leBytes 8 operand)) s
  | 0x06 => chipReset 5 none (dbgRespond 0 0 s)
  | 0x07 =>
    let (ok, s) := freeBool (dbgRespond 0 0 s)
    lifecycleRequest (bits operand 2 0) ok s
  | 0x08 =>
    if s.lc = lcTest then otpProgram (bits operand 47 32) (bits operand 31 0) (dbgRespond 0 0 s) else dbgRespond 2 0 s
  | 0x09 => ergStart (bits operand 5 0) (dbgRespond 0 0 s)
  | _ => dbgRespond 4 0 s

/-- The 72 bits of a DBGCMD scan: CMD in bits [71:64], OPERAND in bits [63:0]. A reserved CMD, which the command table gives no row, ends
with ILLEGAL (R492). -/
def dbgShift (w : BitVec 72) (s : State) : State := dbgScan (dbgCommand (w.toNat / 2 ^ 64) (w.toNat % 2 ^ 64)) s

/-! ### Meanings -/

/-- NMI_WAIT_EXPIRY (R486). -/
def execNmiWaitExpiry (s : State) : Answer := .next (nmiExpiry s)
/-- UMPIRE_TOGGLE (R489). -/
def execUmpireToggle (s : State) : Answer := .next (umpToggle s)
/-- UMPIRE_HEALTHY (R488). -/
def execUmpireHealthy (s : State) : Answer := .next (umpHealthy s)
/-- UMPIRE_READBACK (R490). -/
def execUmpireReadback (t c : Bool) (s : State) : Answer := .next (umpReadback t c s)
/-- EXTEST (R491). -/
def execExtest (s : State) : Answer := .next (onDbg (fun d => { d with ir := 0x00 }) s)
/-- SAMPLE/PRELOAD (R491). -/
def execSamplePreload (s : State) : Answer := .next (onDbg (fun d => { d with ir := 0x01 }) s)
/-- IDCODE (R491). -/
def execIdcode (s : State) : Answer := .next (onDbg (fun d => { d with ir := 0x02, dr := 0x2570366F }) s)
/-- LCSTAT: not permitted in END (R461, R491). -/
def execLcstat (s : State) : Answer :=
  .next (if s.lc = lcEnd then jtagBypass s else onDbg (fun d => { d with ir := 0x10, dr := lcStat s }) s)
/-- BYPASS (R491). -/
def execBypass (s : State) : Answer := .next (jtagBypass s)
/-- NOP (R492): its response is the previous one. -/
def execNop (s : State) : Answer := .next (dbgScan (dbgCommand 0x00 0) s)
/-- SETADDR (R492). -/
def execSetaddr (operand : W64) (s : State) : Answer := .next (dbgScan (dbgCommand 0x01 operand.toNat) s)
/-- READ32 (R492). -/
def execDbgRead32 (s : State) : Answer := .next (dbgScan (dbgCommand 0x02 0) s)
/-- READ64 (R492). -/
def execDbgRead64 (s : State) : Answer := .next (dbgScan (dbgCommand 0x03 0) s)
/-- WRITE32 (R492). -/
def execDbgWrite32 (operand : W64) (s : State) : Answer := .next (dbgScan (dbgCommand 0x04 operand.toNat) s)
/-- WRITE64 (R492). -/
def execDbgWrite64 (operand : W64) (s : State) : Answer := .next (dbgScan (dbgCommand 0x05 operand.toNat) s)
/-- CHIPRESET (R492). -/
def execDbgChipreset (s : State) : Answer := .next (dbgScan (dbgCommand 0x06 0) s)
/-- LCREQ (R492): a write of CUS_LC_REQ.TARGET. -/
def execLcreq (operand : W64) (s : State) : Answer := .next (dbgScan (dbgCommand 0x07 operand.toNat) s)
/-- OTPPROG (R492): TEST only. -/
def execOtpprog (operand : W64) (s : State) : Answer := .next (dbgScan (dbgCommand 0x08 operand.toNat) s)
/-- ERGSTART (R492): a write of PWR_ERG_CMD.START. -/
def execErgstart (operand : W64) (s : State) : Answer := .next (dbgScan (dbgCommand 0x09 operand.toNat) s)

end Sys2Proof.Machine
end

