-- ==== Sys2Proof/Machine/Launch.lean ====
section
/-!
DEFINITION. Launch (15): rails and clocks before it (18, R511, R512), slot selection and the image (R442 to R447), wipe,
repairs, training, replay and quick check (R439), profiles and presets (R448 to R452), lock and release (R453, R454).
-/
namespace Sys2Proof.Machine

/-! ### The image (R442 to R447) -/

/-- A section-table entry (R445). -/
structure Section where
  load : Nat
  typ : Nat
  off : Nat
  size : Nat
  hash : List Byte

/-- An image as its header gives it (R444). -/
structure Image where
  slot : Nat
  rollback : Nat
  options : Nat
  xspi : Nat
  secs : List Section

/-- A little-endian word of a slot's bytes. -/
def slotWord (s : State) (slot off n : Nat) : Nat := leNat (slotBytes s slot off n)

/-- Whether a slot exists in the flash: slot B needs 128 MiB. -/
def slotThere (s : State) (slot : Nat) : Bool :=
  decide ((slot + 1) * 0x4000000 ≤ s.flashSize0) || (slot == 0 && s.flashSize0 != 0)

/-- The section table of a slot. -/
def sections (s : State) (slot : Nat) : List Section :=
  (List.range (slotWord s slot 6 2)).map fun i =>
    let o := 0x100 + 64 * i
    ⟨slotWord s slot o 4 + bits (slotWord s slot (o + 4) 4) 11 0 * 2 ^ 32, bits (slotWord s slot (o + 4) 4) 23 16,
     slotWord s slot (o + 8) 4, slotWord s slot (o + 0xC) 4, slotBytes s slot (o + 0x10) 48⟩

/-- Two LOAD sections lie apart. -/
def secApart (a b : Section) : Bool := a.load + a.size ≤ b.load || b.load + b.size ≤ a.load

/-- One section obeys R445 and R446. -/
def secOk (s : State) (slot sigoff i : Nat) (x : Section) : Bool :=
  let w1 := slotWord s slot (0x100 + 64 * i + 4) 4
  bits w1 31 24 == 0 && bits w1 15 12 == 0 && x.off % 64 == 0 && sigoff + 96 ≤ x.off && within 64 67108864 x.size
  && x.size % 64 == 0 && x.off + x.size ≤ 0x4000000
  && (if x.typ = 1 then x.load % 64 == 0 && (rangeIn 0 courseSize x.load x.size || rangeIn crewBase crewSize x.load x.size)
      else within 2 5 x.typ && x.load == 0)

/-- Whether the header and section table of a slot are well formed: FORMAT of R442. -/
def formatOk (s : State) (slot : Nat) : Bool :=
  let n := slotWord s slot 6 2
  let secs := sections s slot
  let count (t : Nat) : Nat := (secs.filter (fun x => x.typ == t)).length
  let loads := secs.filter (fun x => x.typ == 1)
  slotWord s slot 4 2 == 1 && within 1 64 n && slotWord s slot 0xC 4 < 16 && slotWord s slot 0x10 4 < 4
  && slotWord s slot 0x14 4 < 2 ^ 16 && 2 ≤ bits (slotWord s slot 0x14 4) 7 0 && (slotBytes s slot 0x18 136).all (· == 0)
  && ((List.range n).zip secs).all (fun p => secOk s slot (0x100 + 64 * n) p.1 p.2)
  && count 2 == 1 && count 3 ≤ 1 && count 4 ≤ 1 && count 5 ≤ 1
  && ((secs.filter (fun x => x.typ != 1)).map Section.size).sum ≤ 0x40000
  && ((List.range loads.length).zip loads).all (fun p => (loads.drop (p.1 + 1)).all (secApart p.2))

/-- KEY of R442: an all-zero hash passes in TEST only (R462). -/
def keyOk (s : State) (slot : Nat) : Bool :=
  if s.cus.keyHash.all (· == 0) then s.lc == lcTest else sha384 (slotBytes s slot 0xA0 96) == s.cus.keyHash

/-- The checks of a slot's header: 0, or the first failure code (R442). -/
def headerCode (s : State) (slot : Nat) : Nat :=
  let sigoff := 0x100 + 64 * slotWord s slot 6 2
  if !slotThere s slot ∨ slotWord s slot 0 4 ≠ 0x53484D44 then 1
  else if !formatOk s slot then 2
  else if !keyOk s slot then 3
  else if !sigOk (slotBytes s slot 0xA0 96) (slotBytes s slot 0 sigoff) (slotBytes s slot sigoff 96) then 4
  else if slotWord s slot 8 4 < s.cus.rollback then 5
  else if s.lc = lcEnd ∨ !bit (slotWord s slot 0xC 4) s.lc then 6
  else 0

/-- The code of a slot's header (R442); bad: a byte of the slot that could not be read. A header that could not be read has no other
code. -/
def headCode (s : State) (slot : Nat) (bad : Option Nat) : Nat :=
  if slotThere s slot && bad.any (fun o => decide (o < 0x100 + 64 * slotWord s slot 6 2 + 96)) then 8 else headerCode s slot

/-- A slot's image. -/
def imageAt (s : State) (slot : Nat) : Image :=
  ⟨slot, slotWord s slot 8 4, slotWord s slot 0x10 4, slotWord s slot 0x14 4, sections s slot⟩

/-- The slot tried first: the one that the boot record prefers, or A (R442). -/
def firstSlot (s : State) : Nat := (sysNow s).elim 0 SysRec.prefer

/-- The bytes of the section of a type, if the image has one. -/
def sectionBytes (s : State) (im : Image) (typ : Nat) : Option (List Byte) :=
  (im.secs.find? (fun x => x.typ = typ)).map fun x => slotBytes s im.slot x.off x.size

/-! ### Steps 5 to 8 (R150, R155, R439) -/

/-- One entry of the soft-repair map goes to its SPAREj register (R150, R465). -/
def loadRepair (e : Nat) (s : State) : State :=
  let (b, j) := arrOf (bit e 31) (bits e 30 21)
  let k := bits e 20 19
  let s := s.wr (F b (0x300 + 4 * j) (8 * k + 7) (8 * k)) (0x80 + bits e 18 12)
  spareUsed (bit e 31) b j (max (k + 1) (s.rd (F b (0x100 + 8 * j) 29 27))) s

/-- Step 5; the system record in use is from then on the only one (R465). -/
def loadRepairs (s : State) : State := sysTidy (forAll ((sysNow s).elim [] SysRec.repairs) loadRepair s)

/-- The wipe of step 7: Course and Crew memory, caches, stream registers, handle table and ring state. DDR5 is not on its list (R528). -/
def launchWipe (s : State) : State :=
  let keep (a : Nat) : Bool := !inCourse a && !inCrew a
  { s with mem := s.mem.filter (fun p => keep p.1), ecc := s.ecc.filter (fun p => keep p.1)
           cox := { s.cox with cores := s.cox.cores.map (fun k => { k with icache := [], dcache := [] }) }
           vec := { s.vec with shells := s.vec.shells.map (fun r => { r with vreg := [], vtag := [], vbad := [], tbad := [] }) }
           stk := { s.stk with table := [], rings := [] } }

/-- DDR5 is reset at the start of Launch, and training writes its pattern: its contents are open (R528). -/
def ddrForgets (s : State) : State :=
  { s with mem := s.mem.filter (fun p => p.1 < ddrBase), ddrErr := [], ddrEpoch := s.ddrEpoch + 1 }

/-- The march of step 6 over every Crew bank (R157). -/
def launchMarch (fails : List MarchFail) (s : State) : State :=
  marchEnd fails { s with memx := { s.memx with march := some ⟨BitVec.allOnes 64, false⟩ } }

/-- The body of a slot is loaded, its sections in table order, until one fails: its code, READ, HASH or 0 (R442, R447). A LOAD section
goes to memory as it is read, and its hash is checked with its last byte. -/
def loadBody (slot : Nat) (bad : Option Nat) : List Section → State → State × Nat
  | [], s => (s, 0)
  | x :: l, s =>
    let bs := slotBytes s slot x.off x.size
    let put (n : Nat) : State := if x.typ = 1 then putBytes x.load (bs.take n) s else s
    match bad.filter (fun o => x.off ≤ o && o < x.off + x.size) with
    | some o => (put (o - x.off), 8)
    | none => if sha384 bs == x.hash then loadBody slot bad l (put x.size) else (put x.size, 7)

/-! ### Profiles, presets and regatta (R448 to R452) -/

/-- Note an error of a profile entry; PROFERR keeps the first (R449, R451). -/
def profileError (where_ : Option Nat) (s : State) : State :=
  let s := s.wr (F .pwrLch 0 25 25) 1
  match where_ with
  | some w => if s.pow.profErr then s else onPow (fun p => { p with profErr := true }) (s.wr (F32 .pwrLch 4) w)
  | none => s

/-- The blocks of a PROFILES section: ID and entries, 64 bytes each for ID 0x10 and 8 bytes for any other (R448). -/
def profileBlocks : Nat → List Byte → List (Nat × List (List Byte))
  | 0, _ => []
  | fuel + 1, bs =>
    if bs.length < 8 then []
    else
      let w := leNat (bs.take 4)
      let size := if bits w 31 24 = 0x10 then 64 else 8
      let body := (bs.drop 8).take (size * bits w 15 0)
      (bits w 31 24, (pieces size (bits w 15 0) body).filter (fun e => e.length = size))
        :: profileBlocks fuel (bs.drop (8 + size * bits w 15 0))

/-- One register write of a profile; an entry that would set CONFIG_ERR is skipped (R449). -/
def profileEntry (id : Nat) (e : List Byte) (s : State) : State :=
  let off := leNat (e.take 4)
  let v := leNat (e.drop 4)
  if off / 0x1000000 ≠ id ∨ off % 4 ≠ 0 then profileError (some off) s
  else
    let a := 0x10000000 + off
    match blkAt id (off / 0x10000 % 256) with
    | none => (regWrite 14 a 4 v s).1
    | some b =>
      let c := faultReg (errBlk b (off % 0x10000)) 0x18
      let t := (regWrite 14 a 4 v (s.setReg c 0)).1
      if (t.reg c).testBit 31 then
        profileError (some off) (if (s.reg c).testBit 31 then s else s.setReg c (t.reg c))
      else t.setReg c (s.reg c)

/-- The register profiles of a subsystem. -/
def profileOf (blocks : List (Nat × List (List Byte))) (s : State) (id : Nat) : State :=
  forAll (blocks.filter (fun b => b.1 == id)) (fun b s => forAll b.2 (profileEntry id) s) s

/-- One handle preset (R451). -/
def presetEntry (e : List Byte) (s : State) : State :=
  let w (j : Nat) : Nat := leNat ((e.drop (4 * j)).take 4)
  let idx := bits (w 0) 14 0
  let arg := bits (w 0) 31 28 * 2 ^ 28 + bits (w 0) 27 15
  let (s, r) := stkPerform ⟨1, true, idx, arg, (List.range 7).map (fun j => w (j + 1))⟩ false s
  if r.code = 0 then s else profileError (some (0xF0000000 + idx * 16 + r.code)) s

/-- One slot of the regatta preload (R452). -/
def regattaEntry (e : List Byte) (s : State) : State :=
  let w (j : Nat) : Nat := leNat ((e.drop (4 * j)).take 4)
  if bits (w 0) 31 14 ≠ 0 then profileError none s
  else
    let (s, c) := writeSlot (bits (w 0) 13 0) ((List.range 10).map (fun j => w (j + 1)) ++ List.replicate 6 0) s
    if c = 0 then s else profileError none s

/-- Entries of a section, n bytes each. -/
def sectionEntries (s : State) (im : Image) (typ n : Nat) : List (List Byte) :=
  match sectionBytes s im typ with
  | some bs => pieces n (bs.length / n) bs
  | none => []

/-- Reserved bits of FPENV (06, R215). -/
def fpenvBad (v : Nat) : Bool := v &&& (2 ^ 64 - 1 - 0x13FFB) != 0

/-- A Cox start block (R450): none for a core that stays unreleased. -/
def startEntry (e : List Byte) (s : State) : State × Option StartBlk :=
  let d (o : Nat) : Nat := leNat ((e.drop o).take 8)
  let entry := d 0
  let vbase := d 8
  if entry % 16 ≠ 0 ∨ !(inCourse entry || inCrew entry) ∨ vbase % 4096 ≠ 0 ∨ vbase ≥ 2 ^ 48 then (profileError none s, none)
  else if fpenvBad (d 0x20) then (profileError none s, some ⟨entry, vbase, d 0x10, d 0x18, 0⟩)
  else (s, some ⟨entry, vbase, d 0x10, d 0x18, d 0x20⟩)

/-- The start blocks of the four cores; COUNT shall be 4 (R448). -/
def startBlocks (blocks : List (Nat × List (List Byte))) (s : State) : State :=
  match blocks.find? (fun b => b.1 == 0x10) with
  | some (_, [a, b, c, d]) =>
    let (s, x0) := startEntry a s
    let (s, x1) := startEntry b s
    let (s, x2) := startEntry c s
    let (s, x3) := startEntry d s
    { s with cox := { s.cox with starts := #v[x0, x1, x2, x3] } }
  | _ => profileError none s

/-- The blocks of the image's PROFILES section. -/
def imageProfiles (im : Image) (s : State) : List (Nat × List (List Byte)) :=
  let bs := (sectionBytes s im 2).getD []
  profileBlocks (bs.length / 8) bs

/-- Step 13 in the order of R449. -/
def applyProfiles (im : Image) (s : State) : State :=
  let blocks := imageProfiles im s
  let s := [0, 1, 3, 11, 6, 7].foldl (profileOf blocks) s
  let s := { s with host := { s.host with profile := true } }
  let s := forAll (sectionEntries s im 3 32) presetEntry s
  let s := [8, 2].foldl (profileOf blocks) s
  let s := forAll (sectionEntries s im 4 48) regattaEntry s
  let s := [9, 10, 5, 4].foldl (profileOf blocks) s
  startBlocks blocks s

/-! ### Training, replay and the quick check (R402, R460, R475, R497, R498) -/

/-- DDR5 training at step 10 (R402): fast from seeds, or full. The size of the channel is the one that the image's HST profile gives at
step 13 (notes/assumptions/49.md). -/
def ddrTrain (im : Image) (x : LaunchIn) (s : State) : State :=
  if ddrSize (profileOf (imageProfiles im s) s 11) = 0 then s
  else
    let seeds := (scanJournal s).1.cus.wins.any (fun w => w.cls == 1) || (im.secs.any (fun y => y.typ == 5))
    if seeds ∧ x.seedsPass ∧ !bit im.options 1 then ((s.wr (F .hstDdr 4 1 1) 1).wr (F .hstDdr 4 0 0) 1)
    else
      let s := (s.wr (F .hstDdr 4 2 2) 1).wr (F .pwrLch 0 26 26) 1
      if x.fullPass then onCus (fun c => { c with seedDue := true }) (s.wr (F .hstDdr 4 0 0) 1) else report .hstDdr 1 s

/-- The first Launch of RETURN or END: the vault has not been erased since (R460). -/
def vaultStale (s : State) : Bool :=
  (s.lc == lcReturn || s.lc == lcEnd) && vaultFits s && !(sysNow s).any (fun r => r.lc = s.lc)

/-- The vault region is erased and a new system record written, not while PFAIL_N is asserted (R455, R460). -/
def vaultErase (s : State) : State :=
  let s := onCus (fun c => { c with wins := [], mirror := [], holdups := [] }) s
  if s.cus.pfail then s
  else sysWrite 0 [] (onCus (fun c => { c with wp := 0, oldBlk := 0, seq := 0 }) (vErase 0 (0x20000 + journalSize s) s))

/-- The vault at step 11 (R460, R468); the seeds of a full training are committed once the journal has been read (R402, R455). -/
def vaultStart (s : State) : State :=
  let s := if vaultStale s then vaultErase s else replay s
  if s.cus.seedDue then commitSeed s else s

/-- The erg results are stale (R497). -/
def bistStale (s : State) : Bool :=
  let ergs := s.cus.wins.filter (fun w => w.cls == 2)
  decide (ergs.length < 6)
  || (let lo := ergs.foldl (fun m w => min m (w.seq % 2 ^ 32)) (2 ^ 32); (cutMarks s).any (fun p => decide (lo ≤ p.2)))

/-- Steps 11 and 12. -/
def ergAtLaunch (x : LaunchIn) (s : State) : State :=
  if bistStale s then
    let s := s.wr (F .pwrLch 0 27 27) 1
    if s.lc = lcEnd then s else (s.wr (F .pwrErg 0xC 31 31) 1).wr (F .pwrErg 0xC 30 30) (bnat (!x.quickPass))
  else endMarker s

/-! ### Step 14 (R453, R454, R484) -/

/-- Pad holds are closed until RELEASE (R426, R454). -/
def closeAllPads (s : State) : State := forAll ((List.range 120).filter hasPads) (fun d s => s.wr (F .pwrDom (16 * d) 7 7) 1) s

/-- The device runs at the target at once, no step in progress (R453). -/
def settleAt (t : Nat) (s : State) : State :=
  let s := onPow (fun p => { p with step := none, volt := none }) s
  let s := (((s.wr (dvF 4 31 29) 0).wr (dvF 4 2 0) t).wr (dvF 4 10 8) t).wr (dvF 4 6 4) t
  s.wr (dvF 4 28 28) (bnat (decide (t < s.rd (dvF 0 2 0))))

/-- Each core with a start block is released; the domains of the others are off (R450, R454). -/
def releaseCores (s : State) : State :=
  forAll (List.finRange 4) (fun c s => match s.cox.starts[c] with
    | some b => releaseCore c b s
    | none => setDom (c.val + 4) 3 (setDom c.val 3 s)) s

/-- Hold-water escalations held through Launch take effect (R484). -/
def releaseEsc (s : State) : State :=
  onFlt (fun f => { f with reactions := f.reactions ++ f.heldEsc.map (fun p => .holdWater p.1 p.2), heldEsc := [] }) s

/-- Lock, run point and release (R453). -/
def launchEnd (s : State) : State :=
  let s := forAll (List.range 4) (fun n s => if domState s (16 + n) = 0 then shellOn n s else s) s
  let s := closeAllPads { s with locked := true }
  let s := s.wr (F .pwrGov 4 11 11) (bnat s.pow.aged)
  let s := condition .pwrGov 1 s.pow.aged s
  let t := dvfsTarget s
  let s := s.wr (F .pwrCtl 0 2 0) (if t ≥ 4 then modeRace else modePaddle)
  releaseEsc (releaseCores (onPow (fun p => { p with launch := none, railRetry := false }) (settleAt t s)))

/-! ### The whole of Launch -/

/-- PWR_LCH at the start of a Launch: CAUSE, nothing else yet, and the durations that the steps take (15, Registers). -/
def launchRecord (cause : Nat) (durations : List Nat) (s : State) : State :=
  let s := (s.setReg (Blk.pwrLch).base (cause * 2 ^ 28)).setReg ((Blk.pwrLch).base + 4) 0
  let s := s.setReg ((Blk.pwrLch).base + 8) (durations.take 14).sum
  forAll (List.range 14) (fun k s => s.setReg ((Blk.pwrLch).base + 0x40 + 4 * k) (durations.getD k 0)) (onPow (fun p => { p with profErr := false }) s)

/-- Steps 2 and 3: OP3, the timebase at 0, OTP and a new NONCE (R338, R439, R459). -/
def launchClocks (s : State) : State :=
  let s := settleAt 3 { s with tb := 0, tim := { s.tim with phase := 0, slew := 0, slewRem := 0 } }
  newNonce (otpRead s)

/-- Both lines of each input are calibrated; an input whose first line fails runs on its other (R345). -/
def calibrateLines (l : List (LineCal × LineCal)) (s : State) : State :=
  forAll ((List.finRange 33).zip l) (fun p s =>
    calShown p.1 (modPf p.1 (fun x =>
      let x := (x.calibrated false p.2.1).calibrated true p.2.2
      (x.swapped true (calPasses p.2.2)).swapped false (calPasses p.2.1)) s)) s

/-- Steps 4 to 8 with a slot: header, XSPI timing, repairs and march, wipe, body with the interpolator calibration beside it; its code
(R439, R442, R444, R447). A fallback repeats steps 4, 7 and 8, and runs 5 and 6 where the first slot did not reach them. -/
def trySlot (slot : Nat) (again : Bool) (x : LaunchIn) (s : State) : State × Nat :=
  let bad := x.reads[Fin.ofNat 2 slot]
  let c := headCode s slot bad
  if c ≠ 0 then (s, c)
  else
    let im := imageAt s slot
    let s := (s.wr (F .hstXspi 0 15 8) (bits im.xspi 15 8)).wr (F .hstXspi 0 7 0) (bits im.xspi 7 0)
    let s := if again then s else
      let s := loadRepairs s
      if bit im.options 0 then launchMarch x.marchFails s else s
    loadBody slot bad im.secs (calibrateLines x.lines (launchWipe s))

/-- The failure code of a slot is recorded (R442). -/
def slotFails (slot c : Nat) (s : State) : State := s.wr (F .pwrLch 0 (if slot = 0 then 23 else 19) (if slot = 0 then 20 else 16)) c

/-- Slot selection and load (R442, R447): the slot that is used, if any, with FAILA, FAILB, FALLBACK and SLOT recorded. -/
def chooseSlot (x : LaunchIn) (s : State) : State × Option Nat :=
  let a := firstSlot s
  let (t, ca) := trySlot a false x s
  if ca = 0 then (t.wr (F .pwrLch 0 1 0) a, some a)
  else
    let (t, cb) := trySlot (1 - a) (headCode s a x.reads[Fin.ofNat 2 a] = 0) x (slotFails a ca t)
    let t := slotFails (1 - a) cb t
    if cb = 0 then ((t.wr (F .pwrLch 0 1 0) (1 - a)).wr (F .pwrLch 0 24 24) 1, some (1 - a))
    else (t.wr (F .pwrLch 0 1 0) 2, none)

/-- Steps 10 to 14 with a slot. -/
def launchWith (slot : Nat) (x : LaunchIn) (s : State) : State :=
  let im := imageAt s slot
  let s := s.setReg ((Blk.cusAuth).base + 0xC) im.rollback
  launchEnd (applyProfiles im (ergAtLaunch x (vaultStart (ddrTrain im x s))))

/-- LAUNCH (R439): runs once its rails are good, which TESTMODE holds off (R508). With no usable slot it stops after the failing step
(R443); in the first Launch of RETURN or END the vault is erased all the same (R460), in END no image being admitted. -/
def launch (x : LaunchIn) (s : State) : State :=
  match s.pow.launch with
  | none => s
  | some cause =>
    if s.pow.stopped ∨ s.pow.porst ∨ s.pow.testmode ∨ s.pow.railGood ≠ 15 then s
    else
      match chooseSlot x (launchClocks (ddrForgets (launchRecord cause x.durations s))) with
      | (s, some slot) => launchWith slot x s
      | (s, none) => onPow (fun p => { p with stopped := true }) (if vaultStale s then vaultErase s else s)

/-! ### Rails and clocks (R441, R511, R512) -/

/-- What happens at rail 0 follows the negation of PORST_N: step 1 begins, and the level of PFAIL_N is acted on (R511, R514). -/
def porstEnds (i : Nat) (s : State) : State :=
  if s.pow.porst ∧ i = 0 then pfailLevel (onPow (fun p => { p with porst := false, railEn := 1 }) s) else s

/-- A rail is good, and the next enable follows (R511). -/
def railRises (i : Nat) (s : State) : State :=
  onPow (fun p => { p with railGood := setBit p.railGood i true
                           railEn := if i < 3 then setBit p.railEn (i + 1) true else p.railEn }) s

/-- RAIL_GOOD in step 1 of Launch; with rail 0 VDD_CORE's voltage is read back (R511). -/
def railIsGood (i : Nat) (s : State) : State :=
  let s := porstEnds i s
  if s.pow.launch.isNone ∨ s.pow.stopped ∨ !bit s.pow.railEn i then s
  else railRises i (if i = 0 then emit (.regulator .readVoltage) s else s)

/-- RAIL_TIMEOUT: step 1 runs once more, then Launch stops (R512). -/
def railLate (i : Nat) (s : State) : State :=
  let s := porstEnds i s
  if s.pow.launch.isNone ∨ s.pow.stopped ∨ s.pow.porst ∨ !bit s.pow.railEn i ∨ bit s.pow.railGood i then s
  else if s.pow.railRetry then onPow (fun p => { p with stopped := true }) s
  else onPow (fun p => { p with railRetry := true, railEn := 1, railGood := 0 }) s

/-- LAUNCH_OSC_TIMEOUT: Launch goes on from the RC oscillator (R441). -/
def launchRc (s : State) : State :=
  if s.pow.launch.isNone ∨ s.pow.stopped ∨ s.pow.porst then s
  else report .pwrAon 0 ((onPow (fun p => { p with rc := true }) s).wr (F .pwrAon 4 26 26) 1)

/-! ### Meanings -/

/-- LAUNCH (R439). -/
def execLaunch (x : LaunchIn) (s : State) : Answer := .next (launch x s)
/-- RAIL_TIMEOUT (R512). -/
def execRailTimeout (i : Fin 4) (s : State) : Answer := .next (railLate i.val s)
/-- LAUNCH_OSC_TIMEOUT (R441). -/
def execLaunchOscTimeout (s : State) : Answer := .next (launchRc s)
/-- CRYSTAL_STABLE (R511). -/
def execCrystalStable (s : State) : Answer := .next (onPow (fun p => { p with crystal := true }) s)

end Sys2Proof.Machine
end

