-- ==== Sys2Proof/Machine/Boathouse.lean ====
section
/-!
DEFINITION. Boathouse (14, R405 to R415; 04, R158; 11, R343): its entry, the wake sources, and the wake.
-/
namespace Sys2Proof.Machine

/-! ### Entry (R409, R410, R415) -/

/-- A BOATHOUSE request whose cores are in WAIT, or Easy-all whose erg runs have ended (R406, R409, R419). -/
def entryDue (s : State) : Bool :=
  workEnded s
  && ((s.pow.req = some 1 && (s.mode = modePaddle || s.mode = modeRace) && allWait s) || (s.mode = modeEasyAll && s.pow.ergDone))

/-- DDR5 without self-refresh loses its contents (R409, R528); the records of the rings there read as zeros (R410). -/
def loseDdr (s : State) : State :=
  let zeros (r : Nat) (s : State) : State :=
    forAll ((List.range (occupancy s r)).map (fun i => ringAddr s r (s.reg (ringReg r 0x14) + i))) (putByte · 0) s
  forAll ((s.stk.rings.map Prod.fst).filter (fun r => inDdr s (s.reg (ringReg r 0)))) zeros (ddrForgets s)

/-- BHCFG.DDR_SR. -/
def selfRefresh (s : State) : Bool := s.rd (F .pwrAon 0x018 3 3) = 1

/-- A core's stores reach memory, its handle commands end, and it stops with its domains (R409, R412). -/
def sleepCore (c : CoxId) (s : State) : State :=
  let s := dcAll c true false (drainAll c s)
  let s := forAll (ngetD s.stk.coxCmd c.val []) (fun _ s => stkCoxDone c false s) s
  stopCore c s

/-- The stage in which a domain stands in Boathouse: retention for the Stakeboat and for retained Crew groups that have
contents to retain, else off (R158, R405, R410, R420). -/
def sleepStage (s : State) (d : Nat) : Nat :=
  if d = 100 ∨ (84 ≤ d ∧ d < 100 ∧ groupKept s (d - 84)) then 2 else 3

/-- Every switched domain leaves the running state; what is neither register nor retained is lost (R409, R410, R426). The regulator of
VDD_CORE is turned off by a voltage of 0, a DESIGN CHOICE (notes/assumptions/69.md). -/
def domainsOff (s : State) : State :=
  let s := emit (.regulator (.writeVoltage 0)) (closeAllPads s)
  let s := forAll (List.range 120) (fun d s => shellOff d 3 (setDom d (sleepStage s d) s)) s
  let s := forAll (List.finRange 4) (fun k s => blockIdle (.ingLink k) s) s
  let s := forAll (List.finRange 4) (fun n s => modPort n (fun x => { x with fwd := [] }) s) s
  let s := { s with dom := ⟨[], [], [], [], []⟩, io := { s.io with seen := Vector.replicate 2 [] }
                    memx := { s.memx with detQ := [] }, cox := { s.cox with bcasts := [] }
                    tim := { s.tim with pf := s.tim.pf.map (fun x => { x with cand := none }) } }
  pcieLink false 0 0 s

/-- TICKS, and the units of 2^-16 ns in one tick of 32.768 kHz. -/
def ticksNow (s : State) : Nat := s.rd (F .pwrAon 8 47 0)
def tick16 : Nat := 2000000000

/-- The tick at which WINDOW wakes: next catch - LEAD - 1 ms of BHCFG.SLOT, if it has a catch to come (R415). -/
def windowTick (s : State) : Option Nat :=
  let w := slotWords s (s.rd (F .pwrAon 0x018 17 4))
  let r := slotRun s (s.rd (F .pwrAon 0x018 17 4))
  if s.rd (F .pwrAon 0 4 4) = 1 ∧ swEn w ∧ (swPeriodic w ∨ (!r.passed ∧ !r.opens.any (·.oneShot))) then
    let before := swLead w * 65536 + 1000000 * 65536
    some (ticksNow s + (swCatch w - before - now16 s) / tick16)
  else none

/-- The always-on domain keeps what a wake will need (R343, R414, R415). -/
def markSleep (s : State) : State :=
  onPow (fun p => { p with pfailSleep := p.pfail, windowTick := windowTick s, tbAt := s.tb, ticksAt := ticksNow s
                           step := none, volt := none, hwEntry := false, hwJobs := [], railEn := 0, railGood := 0
                           ergDone := false, wake := none }) s

/-! ### The wake (R411, R412) -/

def recF (hi lo : Nat) : Fld := F .pwrAon 4 hi lo

/-- Code words of retained banks that flipped while the device slept. -/
def applyUpsets (l : List (BitVec 22 × BitVec 72)) (s : State) : State :=
  forAll l (fun p s =>
    let wa := crewBase + p.1.toNat / 8 * 8
    if (retainedBanks s).contains (crewBank wa).1 then setPattern wa (patternOf s wa ^^^ p.2) s else s) s

/-- The timebase at entry plus the time that TICKS counts since (R343). -/
def reloadValue (s : State) : Nat := s.pow.tbAt + (ticksNow s - s.pow.ticksAt) * (1000000000 * 2 ^ 33)

/-- The timebase is reloaded: VALID is clear, the PPS loop locks anew, and what lies in the past is carried out at once
(R343, R415). -/
def tbReload (s : State) : State :=
  let x := reloadValue s
  let es := passedEdges s s.tb x
  let s := { s with tb := x, tim := { s.tim with slew := 0, slewRem := 0, ppsRun := 0, ppsAt := none } }
  let s := s.wr (tbF 0x044 1 0) 0
  carryPassed (x % tbTop) es s

/-- WAKEVECn (R412). -/
def wakeVec (s : State) (c : CoxId) : Nat := s.rd (F .pwrAon (0x040 + 8 * c.val) 43 4) * 16

/-- Domains that a wake brings up: crossbar, Stakeboat, time unit, vault, custody, the clocks, the retained Crew groups, and
those of the cores that are released (R411, R412). -/
def wakeDomains (s : State) : List Nat :=
  [100, 102, 114, 115, 117, 118, 119] ++ ((List.range 16).filter (fun g => sleepStage s (84 + g) = 2)).map (· + 84)
  ++ (List.finRange 4).flatMap (fun c => if wakeVec s c = 0 then [] else [c.val, 4 + c.val])

/-- Each core whose WAKEVECn is not 0 is released there (R412). -/
def wakeCores (s : State) : State :=
  forAll (List.finRange 4) (fun c s =>
    if wakeVec s c = 0 then s else releaseCore c ⟨wakeVec s c, 0, 0, 0, 0⟩ s) s

/-- The operating point after a wake: WAKE_OP, under the caps of R430 that hold; OP0 on the RC oscillator (R411, R413). -/
def wakeOp (s : State) : Nat :=
  let t := s.rd (F .pwrAon 0x018 2 0)
  let t := if s.rd (F .pwrGov 4 11 11) = 1 then min t 6 else t
  let t := if s.pow.pfail then min t (s.rd (dvF 0x040 2 0)) else t
  if s.pow.rc then 0 else t

/-- Domains that begin to wake at once: those that FORCE holds running (R423), and those that requests wait for. -/
def wakeNext (s : State) : List Nat :=
  (List.range 120).filter (fun d => domForce s d = 1) ++ s.held.filterMap (fun h => match h.why with | .domain d => some d | _ => none)

/-- A wake whose components are ready completes (R411 to R413); what waited for a domain that runs now is served. -/
def completeWake (w : WakeIn) (s : State) : State :=
  let s := retainCheck (applyUpsets w.upsets s)
  let ds := wakeDomains s
  let s := forAll ds (fun d s => setDom d 0 s) s
  let s := settleAt (wakeOp s) s
  let s := s.wr (F .pwrCtl 0 2 0) (if curOp s ≥ 4 then modeRace else modePaddle)
  let s := tbReload (endMarker ((s.wr (recF 31 29) 0).wr (recF 25 25) 0))
  let s := onPow (fun p => { p with wake := none, quiet := false, railEn := 15, railGood := 15 }) s
  let s := forAll ds (fun d s => serveHeld (.domain d) s) (wakeCores s)
  forAll (wakeNext s) startWake s

/-- A wake with nothing more to wait for completes. -/
def wakeGoesOn (s : State) : State :=
  match s.pow.wake with
  | some r => if r.waits.isEmpty then completeWake r.found s else s
  | none => s

/-- RAIL_GOOD at a wake: the next enable follows; VDD_CORE is set to WAKE_OP's voltage, and once all rails are good it shall have
confirmed (R411, R511). -/
def wakeRail (i : Nat) (r : WakeRun) (s : State) : State :=
  if !bit s.pow.railEn i ∨ bit s.pow.railGood i then s
  else
    let s := railRises i (if i = 0 then emit (.regulator (.writeVoltage (vop s (wakeOp s)))) s else s)
    if s.pow.railGood = 15 ∧ r.found.vreg then
      wakeGoesOn (onPow (fun p => { p with wake := some { r with waits := r.waits.filter (fun x => x.1 ≠ .vreg) } }) s)
    else s

/-- A source wakes the device: it is recorded, the first rail and the oscillator start (R411, R511). -/
def wakeBegins (source input : Nat) (w : WakeIn) (s : State) : State :=
  let s := s.wr (F .pwrAon 8 47 0) (ticksNow s + w.ticks)
  let s := { s with elapsed := s.elapsed + w.ticks * 5859375 / 128 }
  let s := (((s.wr (recF 19 16) source).wr (recF 2 0) input).wr (recF 28 26) 0)
  let waits := (if w.osc then [] else [(WakeComp.osc, false)]) ++ [(WakeComp.vreg, false)]
  onPow (fun p => { p with railEn := 1, railGood := 0, rc := false, latched := none, wake := some ⟨source, input, w, waits⟩ }) s

/-- BOATHOUSE_ENTRY (R409); a source that asserted meanwhile wakes the device at once (R408). -/
def boathouseEntry (s : State) : State :=
  if !entryDue s then s
  else
    let s := forAll (List.finRange 4) sleepCore s
    let s := retainCrc (if selfRefresh s then s else loseDdr s)
    let s := { s with host := { s.host with retrain := selfRefresh s && (ddrReady s || s.host.retrain), recal := false } }
    let source := s.pow.latched
    let s := markSleep (domainsOff (s.wr (F .hstDdr 4 0 0) 0))
    let s := endRequest 0 (s.wr (F .pwrCtl 0 2 0) modeBoathouse)
    match source with
    | some (code, input, w) => wakeBegins code input w s
    | none => s

/-- The entry is under way: the cores wait for BOATHOUSE, or the erg runs of Easy-all have ended (R408). -/
def sleepComes (s : State) : Bool := entering s || (s.mode == modeEasyAll && s.pow.ergDone)

/-- An enabled source asserts: bit i of WAKEEN, with its code and input (R414). It wakes the sleeping device; while the entry is under
way it is latched for it (R408); of two in one tick the lower code is recorded. At any other time it is not latched. -/
def wakeSource (i code input : Nat) (w : WakeIn) (s : State) : State :=
  if !bit (s.rd (F32 .pwrAon 0)) i then s
  else if s.mode = modeBoathouse then
    if s.pow.wake.isNone then wakeBegins code input w s
    else if w.ticks = 0 ∧ code < s.rd (recF 19 16) then (s.wr (recF 19 16) code).wr (recF 2 0) input
    else s
  else if sleepComes s ∧ s.pow.latched.all (fun x => decide (code < x.1) && w.ticks = 0) then
    onPow (fun p => { p with latched := some (code, input, w) }) s
  else s

/-- A component has not been ready within WTIMEOUT: it is restarted once; then the oscillator gives way to the RC oscillator, a
regulator ends the wake (R413). -/
def wakeLate (comp : WakeComp) (ready : Bool) (s : State) : State :=
  match s.pow.wake with
  | none => s
  | some r =>
    let without := r.waits.filter (fun p => p.1 ≠ comp)
    match r.waits.find? (fun p => p.1 = comp) with
    | none => s
    | some (_, false) =>
      let s := s.wr (match comp with | .osc => recF 28 28 | .vreg => recF 27 27) 1
      let s := if comp = .vreg then onPow (fun p => { p with railEn := if ready then 15 else 1, railGood := if ready then 15 else 0 }) s else s
      wakeGoesOn (onPow (fun p => { p with wake := some { r with waits := if ready then without else without ++ [(comp, true)] } }) s)
    | some (_, true) =>
      if ready then wakeGoesOn (onPow (fun p => { (if comp = .vreg then { p with railEn := 15, railGood := 15 } else p) with wake := some { r with waits := without } }) s)
      else match comp with
        | .osc =>
          let s := report .pwrAon 0 (s.wr (recF 26 26) 1)
          wakeGoesOn (onPow (fun p => { p with rc := true, wake := some { r with waits := without } }) s)
        | .vreg =>
          let n := s.rd (recF 31 29) + 1
          let s := driveFault (report .pwrAon 1 ((s.wr (recF 25 25) 1).wr (recF 31 29) n))
          let s := onPow (fun p => { p with wake := none, railEn := 0, railGood := 0 }) s
          if n ≥ 3 then chipReset 3 none (onPow (fun p => { p with railEn := 1 }) s) else s

/-- IRQ_INj is asserted, with the polarity of COX_CORE0_IRQIN_MODE.INVERT (R414). -/
def irqAsserted (s : State) (j : Fin 8) : Bool := bit s.cox.irqIn j.val != bit (s.reg ((Blk.cox 0).base + 0x210)) (8 + j.val)

/-- A wake frame: to WAKEMAC, its first octet in the highest bits, with EtherType 0x0842 and a valid FCS (R414). -/
def wakeFrame (s : State) (f : List Byte) : Bool :=
  let n := f.length
  decide (18 ≤ n) && beNat (f.take 6) == s.rd (F .pwrAon 0x020 47 0) && beNat ((f.drop 12).take 2) == 0x0842
  && fcs (f.take (n - 4)) == f.drop (n - 4)

/-- RAIL_GOOD in Launch, or at a wake (R511). -/
def railGoodAt (i : Nat) (s : State) : State :=
  match s.pow.wake with
  | some r => wakeRail i r s
  | none => railIsGood i s

/-! ### Meanings -/

/-- RAIL_GOOD (R511). -/
def execRailGood (i : Fin 4) (s : State) : Answer := .next (railGoodAt i.val s)
/-- BOATHOUSE_ENTRY (R409). -/
def execBoathouseEntry (s : State) : Answer := .next (boathouseEntry s)
/-- WAKE_TIMER (R414). -/
def execWakeTimer (w : WakeIn) (s : State) : Answer :=
  .next (if s.rd (F .pwrAon 0x010 47 0) ≤ ticksNow s + w.ticks then wakeSource 0 1 0 w s else s)
/-- WAKE_ETH (R414): ETH0 listens in 1000BASE-X or SGMII. -/
def execWakeEth (w : WakeIn) (s : State) : Answer :=
  .next (if wakeFrame s w.frame ∧ within 1 2 (s.rd (ptF 0 0 1 0)) then wakeSource 1 2 0 w s else s)
/-- WAKE_PCIE (R414): PERST_N rises. -/
def execWakePcie (w : WakeIn) (s : State) : Answer :=
  .next (wakeSource 2 3 0 w { s with host := { s.host with perst := true } })
/-- WAKE_SUPPLY (R414). -/
def execWakeSupply (w : WakeIn) (s : State) : Answer :=
  .next (if s.pow.pfailSleep && !s.pow.pfail then wakeSource 3 4 0 w s else s)
/-- WAKE_WINDOW (R415). -/
def execWakeWindow (w : WakeIn) (s : State) : Answer :=
  .next (if s.mode = modeBoathouse ∧ s.pow.windowTick.any (fun t => decide (t ≤ ticksNow s + w.ticks)) then wakeSource 4 5 0 w s else s)
/-- WAKE_EVTIN (R414). -/
def execWakeEvtin (j : Fin 8) (w : WakeIn) (s : State) : Answer :=
  .next (wakeSource (16 + j.val) 6 j.val w s)
/-- WAKE_IRQIN (R414). -/
def execWakeIrqin (j : Fin 8) (w : WakeIn) (s : State) : Answer :=
  .next (if irqAsserted s j then wakeSource (24 + j.val) 7 j.val w s else s)
/-- WAKE_TIMEOUT (R413). -/
def execWakeTimeout (comp : WakeComp) (ready : Bool) (s : State) : Answer := .next (wakeLate comp ready s)

end Sys2Proof.Machine
end

