-- ==== Sys2Proof/Machine/Release.lean ====
section
/-!
DEFINITION. Ends that let waiting requests go on (04, R125, R138, R156; 13, R402, R404; 14, R411, R424; 17, R481), Stakeboat
commands by either path (05, R163, R174), and the passage of time (11, R337).
-/
namespace Sys2Proof.Machine

/-- DOMAIN_READY: a waking domain runs, and what waited for it is served (R125, R424). -/
def domainReady (d : Nat) (s : State) : State :=
  if domState s d = 4 then padsServe (serveHeld (.domain d) (groupRun d s)) else s

/-- A program or erase of a chip select has ended: custody goes on first, then a command that waited for it, and the reads that waited
go on unless another operation follows (R404). -/
def flashFree (cs : Nat) (s : State) : State :=
  let s := xspiStart (custodyStart s)
  if flashBusy s cs then s else serveHeld (.flash cs) s

/-- A block reset ends (R481); DDR5 keeps its contents and its controller is ready again. -/
def blockResetEnds (b : Blk) (s : State) : State :=
  if !s.flt.resets.contains b then s
  else
    let s := blockResetOver b s
    match b with
    | .hstDdr => serveHeld .ddr (serveHeld (.block b) (if ddrSize s = 0 then s else s.wr (F .hstDdr 4 0 0) 1))
    -- the handovers that were under way are no longer
    | .crwCtl => forAll (List.range 64) (fun k s => serveHeld (.handover k) s) (serveHeld (.block b) s)
    | _ => serveHeld (.block b) s

/-- The periodic recalibration of ZQ and DQS starts or ends (R402). -/
def ddrRecal (start : Bool) (s : State) : State :=
  if start then (if ddrReady s then { s with host := { s.host with recal := true } } else s)
  else if s.host.recal then serveHeld .ddr { s with host := { s.host with recal := false } }
  else s

/-- DDR_READY: the background retraining after a wake ends (R411). -/
def ddrRetrained (s : State) : State :=
  if s.host.retrain ∧ s.mode ≠ modeBoathouse ∧ s.mode ≠ modeLaunch then
    serveHeld .ddr { s.wr (F .hstDdr 4 0 0) 1 with host := { s.host with retrain := false } }
  else s

/-- XSPI_COMMAND_DONE (R404): the accesses to its chip select that waited go on. -/
def xspiEnds (ok : Bool) (data : List Byte) (s : State) : State :=
  match s.host.xspi with
  | some c => flashFree c.cs (xspiDone ok data s)
  | none => s

/-- The word that a CMD write or a trigger of HANDLE CMD carries (R174). -/
def stkWord (op : Nat) (atIdx : Bool) (index : Nat) : Nat := op * 2 ^ 28 + bnat atIdx * 2 ^ 27 + index

/-- A Stakeboat command by the register path, or by a core's handle unit (R163, R174). -/
def stkIssue (p : StkPath) (w : Nat) (s : State) : State :=
  match p with
  | .register m => reaches m .movStk 0 (write32 w) (stkCmdWrite w) s
  | .core c => issueOne c 0x268 w false s

/-- Core cycles of one clock of the time PLL, in quarters: 375 MHz times the operating point plus one, of a core whose clock runs
(R208, R429). Those that the core's own steps made before are not counted again (notes/assumptions/31.md). -/
def coreQuarters (s : State) (n : Nat) : State :=
  forAll (List.finRange 4) (fun c s =>
    if (core s c).on && domState s c.val == 0 then
      let q := n * (curOp s + 1)
      onCore c (fun k => { k with quarters := k.quarters + (q - k.ahead), ahead := k.ahead - q }) s
    else s) s

/-- n cycles of the time PLL pass: timebase, always-on clock, core clocks (R208, R337, R427). In Boathouse the time PLL stands. -/
def timePasses (n : Nat) (s : State) : State :=
  if s.mode = modeBoathouse then s
  else
    let t := (s.elapsed + n) * 128 / 5859375 - s.elapsed * 128 / 5859375
    let s := s.count (F .pwrAon 8 47 0) t
    tbAdvance n (coreQuarters s n)

/-- Stored bits upset by the physical world (R121, R143, R253, R400): code bits of an on-chip word that has its supply; symbols of a
line of DDR5; a word of a line that a cache holds; a byte or tag of a stream register; a word of the vault mirror; an entry of the
handle table, which is retired at once, so that every later use of it fails: a DESIGN CHOICE (notes/assumptions/67.md). -/
def upset (u : Upset) (s : State) : State :=
  match u with
  | .word a mask =>
    let wa := a.toNat / 8 * 8
    if (inCourse wa || inCrew wa) && powered s (memDom wa) then setPattern wa (patternOf s wa ^^^ mask) s else s
  | .line a symbols =>
    let l := a.toNat / 64 * 64
    let now := ngetD s.ddrErr l []
    if inDdr s l && !symbols.isEmpty then { s with ddrErr := nput l (now ++ symbols.filter (fun x => !now.contains x)) s.ddrErr } else s
  | .cache c data a =>
    let hit (m : NMap Line) : NMap Line := match nget (lineOf a.toNat) m with
      | some l => nput (lineOf a.toNat) { l with bad := (a.toNat / 8 % 8) :: l.bad.filter (· ≠ a.toNat / 8 % 8) } m
      | none => m
    onCore c (fun k => if data then { k with dcache := hit k.dcache } else { k with icache := hit k.icache }) s
  | .streamByte sh b => onRun sh.val (fun r => { r with vbad := b.toNat :: r.vbad }) s
  | .mirror w => { s with cus := { s.cus with mirrorBad := w.toNat :: s.cus.mirrorBad.filter (· ≠ w.toNat) } }
  | .entry i => tableUe i.toNat s
  | .streamTag sh t => onRun sh.val (fun r => { r with tbad := t.toNat :: r.tbad }) s

/-! ### Meanings -/

/-- DOMAIN_FORCE (R423); what followed a request that it fails has its turn (R394). -/
def execDomainForce (_m : Master) (d : DomId) (v : W32) (s : State) : Answer := .next (inOrder (domCtlWrite d.val v.toNat s))
/-- DOMAIN_WAKE_TIMEOUT (R424); what followed a request that it fails has its turn (R394). -/
def execDomainWakeTimeout (d : DomId) (s : State) : Answer := .next (inOrder (domWakeTimeout d.val s))
/-- PAD_RELEASE (R426). -/
def execPadRelease (_m : Master) (d : DomId) (s : State) : Answer := .next (padsServe (padRelease d.val s))
/-- DOMAIN_READY (R424). -/
def execDomainReady (d : DomId) (s : State) : Answer := .next (domainReady d.val s)
/-- OWNER_HANDOVER_DONE (R138). -/
def execOwnerHandoverDone (bank : BitVec 6) (s : State) : Answer :=
  .next (serveHeld (.handover bank.toNat) (handoverDone bank.toNat s))
/-- MARCH_DONE (R156). -/
def execMarchDone (fails : List MarchFail) (s : State) : Answer := .next (marchEnd fails s)
/-- BLOCK_RESET_END (R481). -/
def execBlockResetEnd (b : BlkId) (s : State) : Answer :=
  match blkOf b with
  | some b => .next (blockResetEnds b s)
  | none => .next s
/-- DDR_ZQ_RECAL (R402). -/
def execDdrZqRecal (start : Bool) (s : State) : Answer := .next (ddrRecal start s)
/-- DDR_READY (R411). -/
def execDdrReady (s : State) : Answer := .next (ddrRetrained s)
/-- XSPI_COMMAND_DONE (R404). -/
def execXspiCommandDone (result : XspiResult) (s : State) : Answer := .next (easyProgress (xspiEnds result.ok result.data s))
/-- COMMIT_END (R472). -/
def execCommitEnd (o : FlashOutcome) (s : State) : Answer := .next (easyProgress (flashFree (vaultHome s).1 (commitEnd o.ok (pageTime o.pageUs.toNat s))))
/-- SYSTEM_RECORD_WRITE (R465). -/
def execSystemRecordWrite (o : FlashOutcome) (s : State) : Answer :=
  .next (easyProgress (flashFree (vaultHome s).1 (systemRecordEnd o.ok (pageTime o.pageUs.toNat s))))
/-- CREATE (R169). -/
def execCreate (p : StkPath) (atIdx : Bool) (index : BitVec 15) (s : State) : Answer :=
  .next (stkIssue p (stkWord 1 atIdx index.toNat) s)
/-- DESTROY (R170). -/
def execDestroy (p : StkPath) (s : State) : Answer := .next (stkIssue p (stkWord 2 false 0) s)
/-- QUERY (R174). -/
def execQuery (p : StkPath) (s : State) : Answer := .next (stkIssue p (stkWord 3 false 0) s)
/-- RECLAIM (R170). -/
def execReclaim (p : StkPath) (index : BitVec 15) (s : State) : Answer := .next (stkIssue p (stkWord 4 false index.toNat) s)
/-- STK_COMMAND_COMPLETE (R163). -/
def execStkCommandComplete (p : StkPath) (ue : Bool) (s : State) : Answer :=
  match p with
  | .register _ => .next (stkRegDone ue s)
  | .core c => .next (stkCoxDone c ue s)
/-- TIMEBASE_ADVANCE (R337), with what happens to stored bits meanwhile. -/
def execTimebaseAdvance (time : TimeIn) (s : State) : Answer := .next (easyProgress (forAll time.upsets upset (timePasses time.n s)))

end Sys2Proof.Machine
end

