-- ==== Sys2Proof/Machine/Dispatch.lean ====
section
/-!
DEFINITION. The dispatch of a command to its meaning: one arm per constructor of Instr.
-/
namespace Sys2Proof.Machine

def exec (i : Instr) (s : State) : Host.Outcome State Fault Refusal :=
  match i with
  | .registerWrite m addr wide v => Sys2Proof.Machine.execRegisterWrite m addr wide v s
  | .busRead m tag addr n waits det host => Sys2Proof.Machine.execBusRead m tag addr n waits det host s
  | .busWrite m tag addr act waits det => Sys2Proof.Machine.execBusWrite m tag addr act waits det s
  | .qosAging ix => Sys2Proof.Machine.execQosAging ix s
  | .detWriteRetire bank => Sys2Proof.Machine.execDetWriteRetire bank s
  | .domainReady d => Sys2Proof.Machine.execDomainReady d s
  | .scrubStep read => Sys2Proof.Machine.execScrubStep read s
  | .rowRemap crew => Sys2Proof.Machine.execRowRemap crew s
  | .writeData crew m => Sys2Proof.Machine.execWriteData crew m s
  | .writeCheck crew m => Sys2Proof.Machine.execWriteCheck crew m s
  | .readRaw crew m => Sys2Proof.Machine.execReadRaw crew m s
  | .ownerWrite m bank v => Sys2Proof.Machine.execOwnerWrite m bank v s
  | .ownerHandoverDone bank => Sys2Proof.Machine.execOwnerHandoverDone bank s
  | .marchStart m v => Sys2Proof.Machine.execMarchStart m v s
  | .marchDone fails => Sys2Proof.Machine.execMarchDone fails s
  | .jobAdmitMemory src ue => Sys2Proof.Machine.execJobAdmitMemory src ue s
  | .jobAdmitRegister src ue => Sys2Proof.Machine.execJobAdmitRegister src ue s
  | .jobAdmitResume src ue => Sys2Proof.Machine.execJobAdmitResume src ue s
  | .jobAdmitRaft q ue => Sys2Proof.Machine.execJobAdmitRaft q ue s
  | .queueBind m q h => Sys2Proof.Machine.execQueueBind m q h s
  | .queueErrorBind m q h => Sys2Proof.Machine.execQueueErrorBind m q h s
  | .schedCancel m cls => Sys2Proof.Machine.execSchedCancel m cls s
  | .jobStart => Sys2Proof.Machine.execJobStart s
  | .jobStartAtCatch slot => Sys2Proof.Machine.execJobStartAtCatch slot s
  | .resumeSuspended sh => Sys2Proof.Machine.execResumeSuspended sh s
  | .strokeCommit sh time => Sys2Proof.Machine.execStrokeCommit sh time s
  | .strokeDrainDone sh => Sys2Proof.Machine.execStrokeDrainDone sh s
  | .jobComplete sh time => Sys2Proof.Machine.execJobComplete sh time s
  | .jobHalt sh => Sys2Proof.Machine.execJobHalt sh s
  | .drainHeld sh => Sys2Proof.Machine.execDrainHeld sh s
  | .retry m sh => Sys2Proof.Machine.execRetry m sh s
  | .discard m sh => Sys2Proof.Machine.execDiscard m sh s
  | .preemptStop sh => Sys2Proof.Machine.execPreemptStop sh s
  | .windowYield sh => Sys2Proof.Machine.execWindowYield sh s
  | .cancelStop sh => Sys2Proof.Machine.execCancelStop sh s
  | .ringSpaceWaitEnd ix => Sys2Proof.Machine.execRingSpaceWaitEnd ix s
  | .create p atIdx index => Sys2Proof.Machine.execCreate p atIdx index s
  | .destroy p => Sys2Proof.Machine.execDestroy p s
  | .query p => Sys2Proof.Machine.execQuery p s
  | .reclaim p index => Sys2Proof.Machine.execReclaim p index s
  | .stkCommandComplete p ue => Sys2Proof.Machine.execStkCommandComplete p ue s
  | .ringRecordOffer o ue => Sys2Proof.Machine.execRingRecordOffer o ue s
  | .ringRecordWritten r => Sys2Proof.Machine.execRingRecordWritten r s
  | .prodWrite m r v => Sys2Proof.Machine.execProdWrite m r v s
  | .consWrite m r v => Sys2Proof.Machine.execConsWrite m r v s
  | .moverCopy e n => Sys2Proof.Machine.execMoverCopy e n s
  | .moverFill e n => Sys2Proof.Machine.execMoverFill e n s
  | .moverGather e n => Sys2Proof.Machine.execMoverGather e n s
  | .moverScatter e n => Sys2Proof.Machine.execMoverScatter e n s
  | .moverTagfill e n => Sys2Proof.Machine.execMoverTagfill e n s
  | .moverCrc32c e n => Sys2Proof.Machine.execMoverCrc32c e n s
  | .moverHalt e => Sys2Proof.Machine.execMoverHalt e s
  | .moverWriteError e => Sys2Proof.Machine.execMoverWriteError e s
  | .moverDescriptorComplete e => Sys2Proof.Machine.execMoverDescriptorComplete e s
  | .channelEnable m => Sys2Proof.Machine.execChannelEnable m s
  | .channelDisable m => Sys2Proof.Machine.execChannelDisable m s
  | .channelResume m => Sys2Proof.Machine.execChannelResume m s
  | .channelSkip m => Sys2Proof.Machine.execChannelSkip m s
  | .channelCancel m => Sys2Proof.Machine.execChannelCancel m s
  | .issueGroup c => Sys2Proof.Machine.execIssueGroup c s
  | .sysStateWrite c port v => Sys2Proof.Machine.execSysStateWrite c port v s
  | .fetchLineArrival c => Sys2Proof.Machine.execFetchLineArrival c s
  | .loadDataArrival c => Sys2Proof.Machine.execLoadDataArrival c s
  | .operationComplete c => Sys2Proof.Machine.execOperationComplete c s
  | .storeBufferDrain c => Sys2Proof.Machine.execStoreBufferDrain c s
  | .storeErrorResponse c => Sys2Proof.Machine.execStoreErrorResponse c s
  | .walkComplete c => Sys2Proof.Machine.execWalkComplete c s
  | .tlbBcastComplete c => Sys2Proof.Machine.execTlbBcastComplete c s
  | .cacheOpDone c => Sys2Proof.Machine.execCacheOpDone c s
  | .interruptEntry c => Sys2Proof.Machine.execInterruptEntry c s
  | .syncExceptionEntry c => Sys2Proof.Machine.execSyncExceptionEntry c s
  | .irqInput j level => Sys2Proof.Machine.execIrqInput j level s
  | .fetchSync c t => Sys2Proof.Machine.execFetchSync c t s
  | .wait c t => Sys2Proof.Machine.execWait c t s
  | .tlbWrite c t => Sys2Proof.Machine.execTlbWrite c t s
  | .tlbRead c t => Sys2Proof.Machine.execTlbRead c t s
  | .tlbInvVa c t => Sys2Proof.Machine.execTlbInvVa c t s
  | .tlbInvAll c t => Sys2Proof.Machine.execTlbInvAll c t s
  | .tlbBcast c t => Sys2Proof.Machine.execTlbBcast c t s
  | .cleanDLine c t => Sys2Proof.Machine.execCleanDLine c t s
  | .invalDLine c t => Sys2Proof.Machine.execInvalDLine c t s
  | .cleanInvalDLine c t => Sys2Proof.Machine.execCleanInvalDLine c t s
  | .invalILine c t => Sys2Proof.Machine.execInvalILine c t s
  | .cleanDAll c t => Sys2Proof.Machine.execCleanDAll c t s
  | .cleanInvalDAll c t => Sys2Proof.Machine.execCleanInvalDAll c t s
  | .invalIAll c t => Sys2Proof.Machine.execInvalIAll c t s
  | .saveRead c t => Sys2Proof.Machine.execSaveRead c t s
  | .saveWrite c t => Sys2Proof.Machine.execSaveWrite c t s
  | .jump c t => Sys2Proof.Machine.execJump c t s
  | .jumpRel c t => Sys2Proof.Machine.execJumpRel c t s
  | .call c t => Sys2Proof.Machine.execCall c t s
  | .callRel c t => Sys2Proof.Machine.execCallRel c t s
  | .ret c t => Sys2Proof.Machine.execRet c t s
  | .trap c t => Sys2Proof.Machine.execTrap c t s
  | .eret c t => Sys2Proof.Machine.execEret c t s
  | .loopStart c t => Sys2Proof.Machine.execLoopStart c t s
  | .loopPop c t => Sys2Proof.Machine.execLoopPop c t s
  | .add c u t => Sys2Proof.Machine.execAdd c u t s
  | .sub c u t => Sys2Proof.Machine.execSub c u t s
  | .addc c u t => Sys2Proof.Machine.execAddc c u t s
  | .subb c u t => Sys2Proof.Machine.execSubb c u t s
  | .add32 c u t => Sys2Proof.Machine.execAdd32 c u t s
  | .sub32 c u t => Sys2Proof.Machine.execSub32 c u t s
  | .adds c u t => Sys2Proof.Machine.execAdds c u t s
  | .subs c u t => Sys2Proof.Machine.execSubs c u t s
  | .and c u t => Sys2Proof.Machine.execAnd c u t s
  | .or c u t => Sys2Proof.Machine.execOr c u t s
  | .xor c u t => Sys2Proof.Machine.execXor c u t s
  | .andn c u t => Sys2Proof.Machine.execAndn c u t s
  | .min c u t => Sys2Proof.Machine.execMin c u t s
  | .max c u t => Sys2Proof.Machine.execMax c u t s
  | .minu c u t => Sys2Proof.Machine.execMinu c u t s
  | .maxu c u t => Sys2Proof.Machine.execMaxu c u t s
  | .abs c u t => Sys2Proof.Machine.execAbs c u t s
  | .neg c u t => Sys2Proof.Machine.execNeg c u t s
  | .pass c u t => Sys2Proof.Machine.execPass c u t s
  | .shl c t => Sys2Proof.Machine.execShl c t s
  | .shr c t => Sys2Proof.Machine.execShr c t s
  | .shra c t => Sys2Proof.Machine.execShra c t s
  | .rotl c t => Sys2Proof.Machine.execRotl c t s
  | .rotr c t => Sys2Proof.Machine.execRotr c t s
  | .shl32 c t => Sys2Proof.Machine.execShl32 c t s
  | .shr32 c t => Sys2Proof.Machine.execShr32 c t s
  | .shra32 c t => Sys2Proof.Machine.execShra32 c t s
  | .fshl c t => Sys2Proof.Machine.execFshl c t s
  | .fshr c t => Sys2Proof.Machine.execFshr c t s
  | .mulu c t => Sys2Proof.Machine.execMulu c t s
  | .muls c t => Sys2Proof.Machine.execMuls c t s
  | .mulsu c t => Sys2Proof.Machine.execMulsu c t s
  | .mul32u c t => Sys2Proof.Machine.execMul32u c t s
  | .mul32s c t => Sys2Proof.Machine.execMul32s c t s
  | .divu c t => Sys2Proof.Machine.execDivu c t s
  | .divs c t => Sys2Proof.Machine.execDivs c t s
  | .divu32 c t => Sys2Proof.Machine.execDivu32 c t s
  | .divs32 c t => Sys2Proof.Machine.execDivs32 c t s
  | .fadd64 c t => Sys2Proof.Machine.execFadd64 c t s
  | .fsub64 c t => Sys2Proof.Machine.execFsub64 c t s
  | .fmul64 c t => Sys2Proof.Machine.execFmul64 c t s
  | .fma64 c t => Sys2Proof.Machine.execFma64 c t s
  | .fnms64 c t => Sys2Proof.Machine.execFnms64 c t s
  | .fmin64 c t => Sys2Proof.Machine.execFmin64 c t s
  | .fmax64 c t => Sys2Proof.Machine.execFmax64 c t s
  | .fadd32 c t => Sys2Proof.Machine.execFadd32 c t s
  | .fsub32 c t => Sys2Proof.Machine.execFsub32 c t s
  | .fmul32 c t => Sys2Proof.Machine.execFmul32 c t s
  | .fma32 c t => Sys2Proof.Machine.execFma32 c t s
  | .fnms32 c t => Sys2Proof.Machine.execFnms32 c t s
  | .fmin32 c t => Sys2Proof.Machine.execFmin32 c t s
  | .fmax32 c t => Sys2Proof.Machine.execFmax32 c t s
  | .fdiv64 c t => Sys2Proof.Machine.execFdiv64 c t s
  | .fsqrt64 c t => Sys2Proof.Machine.execFsqrt64 c t s
  | .fdiv32 c t => Sys2Proof.Machine.execFdiv32 c t s
  | .fsqrt32 c t => Sys2Proof.Machine.execFsqrt32 c t s
  | .f64tof32 c t => Sys2Proof.Machine.execF64tof32 c t s
  | .f32tof64 c t => Sys2Proof.Machine.execF32tof64 c t s
  | .f64tos64 c t => Sys2Proof.Machine.execF64tos64 c t s
  | .f64tou64 c t => Sys2Proof.Machine.execF64tou64 c t s
  | .s64tof64 c t => Sys2Proof.Machine.execS64tof64 c t s
  | .u64tof64 c t => Sys2Proof.Machine.execU64tof64 c t s
  | .f32tos32 c t => Sys2Proof.Machine.execF32tos32 c t s
  | .s32tof32 c t => Sys2Proof.Machine.execS32tof32 c t s
  | .f64tos32 c t => Sys2Proof.Machine.execF64tos32 c t s
  | .s32tof64 c t => Sys2Proof.Machine.execS32tof64 c t s
  | .f64round c t => Sys2Proof.Machine.execF64round c t s
  | .f32round c t => Sys2Proof.Machine.execF32round c t s
  | .dadd c t => Sys2Proof.Machine.execDadd c t s
  | .dsub c t => Sys2Proof.Machine.execDsub c t s
  | .dchk c t => Sys2Proof.Machine.execDchk c t s
  | .dneg c t => Sys2Proof.Machine.execDneg c t s
  | .dtobin c t => Sys2Proof.Machine.execDtobin c t s
  | .bintod c t => Sys2Proof.Machine.execBintod c t s
  | .eq c t => Sys2Proof.Machine.execEq c t s
  | .ne c t => Sys2Proof.Machine.execNe c t s
  | .lt c t => Sys2Proof.Machine.execLt c t s
  | .le c t => Sys2Proof.Machine.execLe c t s
  | .ltu c t => Sys2Proof.Machine.execLtu c t s
  | .leu c t => Sys2Proof.Machine.execLeu c t s
  | .tst c t => Sys2Proof.Machine.execTst c t s
  | .eq32 c t => Sys2Proof.Machine.execEq32 c t s
  | .lt32 c t => Sys2Proof.Machine.execLt32 c t s
  | .ltu32 c t => Sys2Proof.Machine.execLtu32 c t s
  | .feq64 c t => Sys2Proof.Machine.execFeq64 c t s
  | .flt64 c t => Sys2Proof.Machine.execFlt64 c t s
  | .fle64 c t => Sys2Proof.Machine.execFle64 c t s
  | .fun64 c t => Sys2Proof.Machine.execFun64 c t s
  | .feq32 c t => Sys2Proof.Machine.execFeq32 c t s
  | .flt32 c t => Sys2Proof.Machine.execFlt32 c t s
  | .fle32 c t => Sys2Proof.Machine.execFle32 c t s
  | .fun32 c t => Sys2Proof.Machine.execFun32 c t s
  | .ld8u c u t => Sys2Proof.Machine.execLd8u c u t s
  | .ld8s c u t => Sys2Proof.Machine.execLd8s c u t s
  | .ld16u c u t => Sys2Proof.Machine.execLd16u c u t s
  | .ld16s c u t => Sys2Proof.Machine.execLd16s c u t s
  | .ld32u c u t => Sys2Proof.Machine.execLd32u c u t s
  | .ld32s c u t => Sys2Proof.Machine.execLd32s c u t s
  | .ld64 c u t => Sys2Proof.Machine.execLd64 c u t s
  | .prefetch c u t => Sys2Proof.Machine.execPrefetch c u t s
  | .st8 c u t => Sys2Proof.Machine.execSt8 c u t s
  | .st16 c u t => Sys2Proof.Machine.execSt16 c u t s
  | .st32 c u t => Sys2Proof.Machine.execSt32 c u t s
  | .st64 c u t => Sys2Proof.Machine.execSt64 c u t s
  | .aadd32 c u t => Sys2Proof.Machine.execAadd32 c u t s
  | .aadd64 c u t => Sys2Proof.Machine.execAadd64 c u t s
  | .aswp32 c u t => Sys2Proof.Machine.execAswp32 c u t s
  | .aswp64 c u t => Sys2Proof.Machine.execAswp64 c u t s
  | .submit c t => Sys2Proof.Machine.execSubmit c t s
  | .timeRead c t => Sys2Proof.Machine.execTimeRead c t s
  | .tripArm c t => Sys2Proof.Machine.execTripArm c t s
  | .tripCancel c t => Sys2Proof.Machine.execTripCancel c t s
  | .send c t => Sys2Proof.Machine.execSend c t s
  | .recv c t => Sys2Proof.Machine.execRecv c t s
  | .clz c t => Sys2Proof.Machine.execClz c t s
  | .ctz c t => Sys2Proof.Machine.execCtz c t s
  | .popc c t => Sys2Proof.Machine.execPopc c t s
  | .brev c t => Sys2Proof.Machine.execBrev c t s
  | .bswap c t => Sys2Proof.Machine.execBswap c t s
  | .extract c t => Sys2Proof.Machine.execExtract c t s
  | .extracts c t => Sys2Proof.Machine.execExtracts c t s
  | .insert c t => Sys2Proof.Machine.execInsert c t s
  | .pdep c t => Sys2Proof.Machine.execPdep c t s
  | .pext c t => Sys2Proof.Machine.execPext c t s
  | .crc32c c t => Sys2Proof.Machine.execCrc32c c t s
  | .timebaseCapture m => Sys2Proof.Machine.execTimebaseCapture m s
  | .tbSet m => Sys2Proof.Machine.execTbSet m s
  | .tbStep m => Sys2Proof.Machine.execTbStep m s
  | .slewWrite m v => Sys2Proof.Machine.execSlewWrite m v s
  | .ppsEdge tap => Sys2Proof.Machine.execPpsEdge tap s
  | .ppsLost => Sys2Proof.Machine.execPpsLost s
  | .eventEdge j level tap => Sys2Proof.Machine.execEventEdge j level tap s
  | .eventEdgeAccept j => Sys2Proof.Machine.execEventEdgeAccept j s
  | .delayLineSwap j cal => Sys2Proof.Machine.execDelayLineSwap j cal s
  | .tripCmdArm m n level => Sys2Proof.Machine.execTripCmdArm m n level s
  | .tripCmdCancel m n => Sys2Proof.Machine.execTripCmdCancel m n s
  | .tripCommit n => Sys2Proof.Machine.execTripCommit n s
  | .tripEdge n => Sys2Proof.Machine.execTripEdge n s
  | .slotRead m => Sys2Proof.Machine.execSlotRead m s
  | .slotWrite m => Sys2Proof.Machine.execSlotWrite m s
  | .preWake slot => Sys2Proof.Machine.execPreWake slot s
  | .precommitHandover slot => Sys2Proof.Machine.execPrecommitHandover slot s
  | .catchEdge slot => Sys2Proof.Machine.execCatchEdge slot s
  | .finishEdge slot => Sys2Proof.Machine.execFinishEdge slot s
  | .irqqPop m c => Sys2Proof.Machine.execIrqqPop m c s
  | .timerExpiry idx => Sys2Proof.Machine.execTimerExpiry idx s
  | .linkEnable m k v => Sys2Proof.Machine.execLinkEnable m k v s
  | .syncHeaderLock k => Sys2Proof.Machine.execSyncHeaderLock k s
  | .embLock k => Sys2Proof.Machine.execEmbLock k s
  | .sysrefEdge edge => Sys2Proof.Machine.execSysrefEdge edge s
  | .rbdRelease k => Sys2Proof.Machine.execRbdRelease k s
  | .syncHeaderLoss k => Sys2Proof.Machine.execSyncHeaderLoss k s
  | .multiblockCrcCheck k lane mb ok => Sys2Proof.Machine.execMultiblockCrcCheck k lane mb ok s
  | .batchClose k samples => Sys2Proof.Machine.execBatchClose k samples s
  | .frameReceive p bytes => Sys2Proof.Machine.execFrameReceive p bytes s
  | .hsrForward p => Sys2Proof.Machine.execHsrForward p s
  | .dupEntryAgeout pair => Sys2Proof.Machine.execDupEntryAgeout pair s
  | .txRequest p => Sys2Proof.Machine.execTxRequest p s
  | .scheduledTransmit p => Sys2Proof.Machine.execScheduledTransmit p s
  | .portLinkChange p up speed => Sys2Proof.Machine.execPortLinkChange p up speed s
  | .pcieLinkChange up gen width => Sys2Proof.Machine.execPcieLinkChange up gen width s
  | .pcieInbound bar off act => Sys2Proof.Machine.execPcieInbound bar off act s
  | .pcieCompletionTimeout m tag => Sys2Proof.Machine.execPcieCompletionTimeout m tag s
  | .msixUnmask v => Sys2Proof.Machine.execMsixUnmask v s
  | .hostMessage m h => Sys2Proof.Machine.execHostMessage m h s
  | .ddrZqRecal start => Sys2Proof.Machine.execDdrZqRecal start s
  | .xspiCommand m v => Sys2Proof.Machine.execXspiCommand m v s
  | .xspiCommandDone result => Sys2Proof.Machine.execXspiCommandDone result s
  | .boathouse cause => Sys2Proof.Machine.execBoathouse cause s
  | .paddle cause => Sys2Proof.Machine.execPaddle cause s
  | .easyAll cause => Sys2Proof.Machine.execEasyAll cause s
  | .holdWater cause => Sys2Proof.Machine.execHoldWater cause s
  | .modeRequestTimeout => Sys2Proof.Machine.execModeRequestTimeout s
  | .boathouseEntry => Sys2Proof.Machine.execBoathouseEntry s
  | .wakeTimer w => Sys2Proof.Machine.execWakeTimer w s
  | .wakeEvtin j w => Sys2Proof.Machine.execWakeEvtin j w s
  | .wakeIrqin j w => Sys2Proof.Machine.execWakeIrqin j w s
  | .wakeEth w => Sys2Proof.Machine.execWakeEth w s
  | .wakePcie w => Sys2Proof.Machine.execWakePcie w s
  | .wakeSupply w => Sys2Proof.Machine.execWakeSupply w s
  | .wakeWindow w => Sys2Proof.Machine.execWakeWindow w s
  | .wakeTimeout comp ready => Sys2Proof.Machine.execWakeTimeout comp ready s
  | .refretry m ok => Sys2Proof.Machine.execRefretry m ok s
  | .domainIdleStage d => Sys2Proof.Machine.execDomainIdleStage d s
  | .domainForce m d v => Sys2Proof.Machine.execDomainForce m d v s
  | .domainWakeWrite m d => Sys2Proof.Machine.execDomainWakeWrite m d s
  | .domainWakeTimeout d => Sys2Proof.Machine.execDomainWakeTimeout d s
  | .padRelease m d => Sys2Proof.Machine.execPadRelease m d s
  | .dvfsRequest m v => Sys2Proof.Machine.execDvfsRequest m v s
  | .voltageConfirmed => Sys2Proof.Machine.execVoltageConfirmed s
  | .frequencySwitch => Sys2Proof.Machine.execFrequencySwitch s
  | .vregTimeout => Sys2Proof.Machine.execVregTimeout s
  | .regulatorPoll icore => Sys2Proof.Machine.execRegulatorPoll icore s
  | .supplyMonitor k permille => Sys2Proof.Machine.execSupplyMonitor k permille s
  | .thermalSample temps => Sys2Proof.Machine.execThermalSample temps s
  | .ratingCapRaise => Sys2Proof.Machine.execRatingCapRaise s
  | .currentSample amps => Sys2Proof.Machine.execCurrentSample amps s
  | .ratingRamp sh => Sys2Proof.Machine.execRatingRamp sh s
  | .ballastStart sh => Sys2Proof.Machine.execBallastStart sh s
  | .porstAssert => Sys2Proof.Machine.execPorstAssert s
  | .launch x => Sys2Proof.Machine.execLaunch x s
  | .railGood ix => Sys2Proof.Machine.execRailGood ix s
  | .railTimeout ix => Sys2Proof.Machine.execRailTimeout ix s
  | .launchOscTimeout => Sys2Proof.Machine.execLaunchOscTimeout s
  | .chipReset => Sys2Proof.Machine.execChipReset s
  | .lifecycleRequest m target o => Sys2Proof.Machine.execLifecycleRequest m target o s
  | .advance m ok => Sys2Proof.Machine.execAdvance m ok s
  | .preferA m => Sys2Proof.Machine.execPreferA m s
  | .preferB m => Sys2Proof.Machine.execPreferB m s
  | .commit m h => Sys2Proof.Machine.execCommit m h s
  | .commitEnd o => Sys2Proof.Machine.execCommitEnd o s
  | .systemRecordWrite o => Sys2Proof.Machine.execSystemRecordWrite o s
  | .pfailAssert => Sys2Proof.Machine.execPfailAssert s
  | .pfailNegate => Sys2Proof.Machine.execPfailNegate s
  | .hupSenseFall => Sys2Proof.Machine.execHupSenseFall s
  | .cutMarker => Sys2Proof.Machine.execCutMarker s
  | .vaultCompaction ok => Sys2Proof.Machine.execVaultCompaction ok s
  | .blockReset b => Sys2Proof.Machine.execBlockReset b s
  | .blockResetEnd b => Sys2Proof.Machine.execBlockResetEnd b s
  | .shadowEnd b => Sys2Proof.Machine.execShadowEnd b s
  | .nmiWaitExpiry => Sys2Proof.Machine.execNmiWaitExpiry s
  | .umpireToggle => Sys2Proof.Machine.execUmpireToggle s
  | .umpireHealthy => Sys2Proof.Machine.execUmpireHealthy s
  | .umpireReadback t c => Sys2Proof.Machine.execUmpireReadback t c s
  | .extest => Sys2Proof.Machine.execExtest s
  | .samplePreload => Sys2Proof.Machine.execSamplePreload s
  | .idcode => Sys2Proof.Machine.execIdcode s
  | .lcstat => Sys2Proof.Machine.execLcstat s
  | .bypass => Sys2Proof.Machine.execBypass s
  | .nop => Sys2Proof.Machine.execNop s
  | .setaddr operand => Sys2Proof.Machine.execSetaddr operand s
  | .dbgRead32 => Sys2Proof.Machine.execDbgRead32 s
  | .dbgRead64 => Sys2Proof.Machine.execDbgRead64 s
  | .dbgWrite32 operand => Sys2Proof.Machine.execDbgWrite32 operand s
  | .dbgWrite64 operand => Sys2Proof.Machine.execDbgWrite64 operand s
  | .dbgChipreset => Sys2Proof.Machine.execDbgChipreset s
  | .lcreq operand => Sys2Proof.Machine.execLcreq operand s
  | .otpprog operand => Sys2Proof.Machine.execOtpprog operand s
  | .ergstart operand => Sys2Proof.Machine.execErgstart operand s
  | .ergStart m v => Sys2Proof.Machine.execErgStart m v s
  | .ergGroupDone result => Sys2Proof.Machine.execErgGroupDone result s
  | .timebaseAdvance time => Sys2Proof.Machine.execTimebaseAdvance time s
  | .freqInChange present => Sys2Proof.Machine.execFreqInChange present s
  | .ddrReady => Sys2Proof.Machine.execDdrReady s
  | .crystalStable => Sys2Proof.Machine.execCrystalStable s

end Sys2Proof.Machine
end

