-- ==== Sys2Proof/Safety.lean ====
section
/-!
DEFINITION. The terms that claims are stated in: what a command gives, what stays the same, the invariant of the machine, and
when a Cox issues a group undisturbed.
-/
namespace Sys2Proof.Machine

/-- A command completes: it answers a next state, which has a property. -/
def Gives (i : Instr) (s : State) (P : State → Prop) : Prop := ∃ t, exec i s = .next t ∧ P t

/-- Every byte of memory reads as before. -/
def SameMem (s t : State) : Prop := ∀ a, memByte t a = memByte s a

/-- Every byte of memory outside n bytes from an address reads as before. -/
def SameMemBut (a n : Nat) (s t : State) : Prop := ∀ x, x < a ∨ a + n ≤ x → memByte t x = memByte s x

/-- Every byte of memory outside a list of ranges, each an address and a number of bytes, reads as before. -/
def SameMemOut (l : List (Nat × Nat)) (s t : State) : Prop :=
  ∀ x, (∀ r ∈ l, x < r.1 ∨ r.1 + r.2 ≤ x) → memByte t x = memByte s x

/-- Every register outside a list of addresses holds what it held. -/
def SameRegsBut (as : List Nat) (s t : State) : Prop := ∀ a, a ∉ as → t.reg a = s.reg a

/-- Nothing but registers differs, and of these none outside a list of addresses. -/
def OnlyRegs (as : List Nat) (s t : State) : Prop := t = { s with regs := t.regs } ∧ SameRegsBut as s t

/-- The address of a block's register. -/
def at_ (b : Blk) (off : Nat) : Nat := b.base + off

/-- The invariant that every step keeps: memory is in its canonical form. -/
def Inv (s : State) : Prop := Memory.wf s.mem = true

/-- The bounds that every step keeps: the admission pool (02, R23), the queue of commits (16, R471), the demand queues of the
scrubbers (04, R145), and the places of locked TLB entries (09, R305). -/
def Bounded (s : State) : Prop :=
  s.vec.pool.length ≤ 64 ∧ s.cus.queue.length ≤ 4 ∧ s.memx.demand0.length ≤ 8 ∧ s.memx.demand1.length ≤ 8
  ∧ ∀ (c : CoxId), ∀ p ∈ (core s c).tlb, p.2.lock = true → p.1 ≤ 15

/-- Memory, the Cox cores, and every register outside a list of addresses are as before. -/
def Keeps (as : List Nat) (s t : State) : Prop := SameMem s t ∧ SameRegsBut as s t ∧ t.cox = s.cox

/-- The registers in which a fault report of a block may leave its mark (R478, R486): its fault set, HWSRC and CAUSES. -/
def faultMarks (b : Blk) : List Nat := [faultReg b 0, faultReg b 4, faultReg b 8, at_ .pwrFlt 0x014, at_ .pwrCtl 8]

/-- CONFIG_ERR of a block. -/
def errReg (b : Blk) : Nat := faultReg b 0x18

/-- CONFIG_ERR of a block is set. -/
def ErrSet (b : Blk) (t : State) : Prop := (t.reg (errReg b)).testBit 31 = true

/-- A master has access to a range of on-chip memory, and finds no error and no queued write there: its groups run, no block
under test or in reset holds it, and a Crew bank is the master's (R125, R129, R136, R143, R156). -/
def Open (m : Nat) (a n : Nat) (s : State) : Prop :=
  0 < n ∧ (a + n ≤ courseSize ∨ (crewBase ≤ a ∧ a + n ≤ crewBase + crewSize))
  ∧ (∀ x, a ≤ x → x < a + n → domState s (memDom x) = 0 ∧ inTest s x = false
      ∧ (arrOf (inCrew x) (bankOf s x).1).1 ∉ s.flt.resets
      ∧ (inCrew x = true → ownCheck s m (crewBank x).1 = .allowed))
  ∧ ∀ wa ∈ wordsOf a n, patternOf s wa = 0 ∧ queuedWord s wa = none ∧ flipMask s wa = none

/-- The bus is calm: no transaction and no flash command waits for its turn, what custody has to write is under way, and the crossbar
runs, clock and supply (R394, R404, R405, R421). -/
def Calm (s : State) : Prop :=
  s.held = [] ∧ s.host.xspi = none ∧ (custodyReady s = true → s.cus.flying.isSome = true) ∧ domState s 102 = 0 ∧ s.mode ≠ modeBoathouse

/-! ### A Cox that issues undisturbed -/

/-- The core issues in this cycle (06, R203; 07, R236; 08, R271, R288): released, not in WAIT, no exception before it, no
catch-up, no operation in flight, no store buffered, no transfer, shadow bundle or empty cycle pending. -/
def Quiet (s : State) (c : CoxId) : Prop :=
  mayIssue s c = true ∧ (core s c).catchup = none ∧ (core s c).flight = [] ∧ (core s c).sb = [] ∧ (core s c).xfer = none
  ∧ (core s c).shadow = none ∧ (core s c).owe = 0 ∧ (core s c).gap = 0

/-- A core's operand port as its next trigger samples it. -/
def o1 (s : State) (c : CoxId) (unit : Nat) : Nat := operandPort s c unit 0
def o2 (s : State) (c : CoxId) (unit : Nat) : Nat := operandPort s c unit 1

/-- An operation of a latency delivers a value at a result port (R205): with latency 1 the port holds it for the next group, else an
operation is in flight that will write it in its cycle, or later where its result has then not come (R256). -/
def Delivers (s t : State) (c : CoxId) (lat port v : Nat) : Prop :=
  if lat = 1 then nget port (core t c).res = some v
  else ∃ f ∈ (core t c).flight, (port, v) ∈ f.writes ∧ f.land = (core s c).cyc + lat

/-- Two cores agree in every register and store that a program or another agent can find changed, the result ports, flags,
predicates and the pipeline's own state apart. -/
def SameCore (k k' : Core) : Prop :=
  k'.on = k.on ∧ k'.pc = k.pc ∧ k'.g = k.g ∧ k'.banks = k.banks ∧ k'.maskLev = k.maskLev ∧ k'.user = k.user ∧ k'.sua = k.sua
  ∧ k'.det = k.det ∧ k'.vbase = k.vbase ∧ k'.xlate = k.xlate ∧ k'.ssp = k.ssp ∧ k'.link = k.link ∧ k'.mailLev = k.mailLev
  ∧ k'.causes = k.causes ∧ k'.saves = k.saves ∧ k'.loops = k.loops ∧ k'.xfer = k.xfer ∧ k'.tlb = k.tlb ∧ k'.walks = k.walks
  ∧ k'.dcache = k.dcache ∧ k'.sb = k.sb ∧ k'.sbErr = k.sbErr ∧ k'.cacheOps = k.cacheOps ∧ k'.inbox = k.inbox

/-- One core has become as given, in the sense of SameCore, and no other core differs. -/
def CoreIs (c : CoxId) (k : Core) (s t : State) : Prop := SameCore k (core t c) ∧ ∀ d, d ≠ c → core t d = core s d

/-- The core past one bundle. -/
def past (s : State) (c : CoxId) : Core := { core s c with pc := (core s c).pc + 16 }

/-- What an operation leaves as it was that only delivers results: memory, registers, every other core, and its own core past
the bundle. -/
def UnitFrame (s t : State) (c : CoxId) : Prop := SameMem s t ∧ t.regs = s.regs ∧ CoreIs c (past s c) s t

end Sys2Proof.Machine
end

