-- ==== Sys2Proof/Certificates/Slice0/Obligations.lean ====
section
/-!
DEFINITION. The statements for the provers. First the terms that several of them share; a statement's docstring names its rules.
-/
open Sys2Proof Sys2Proof.Machine

/-! ### What the rules say of the arithmetic units, written apart from the meanings -/

namespace Sys2Proof.Claims

open Sys2Proof.Machine

/-- A signed value that w bits cannot hold. -/
def beyond (w : Nat) (i : Int) : Bool := decide (i < -(2 ^ (w - 1) : Nat) ∨ (2 ^ (w - 1) : Nat) ≤ i)
def low32 (x : W64) : W32 := x.setWidth 32
def carryBit (cy : Bool) : W64 := if cy then 1 else 0
/-- A signed value saturated to 64 bits (R322). -/
def sat64 (i : Int) : W64 := BitVec.ofInt 64 (max (-(2 ^ 63 : Nat)) (min i ((2 ^ 63 : Nat) - 1)))

/-- An ALU command: its core, ALU1 or ALU0, and Q, C and V as R221, R321 and R322 give them from x = O1 and the unit's C. -/
structure AluSays where
  c : CoxId
  u : Bool
  q : W64 → Bool → W64
  cf : W64 → Bool → Bool
  vf : W64 → Bool → Bool

def alu : Instr → Option AluSays
  | .add c u t => some ⟨c, u, fun x _ => x + t, fun x _ => decide (2 ^ 64 ≤ x.toNat + t.toNat),
      fun x _ => beyond 64 (x.toInt + t.toInt)⟩
  | .sub c u t => some ⟨c, u, fun x _ => x - t, fun x _ => decide (x.toNat < t.toNat), fun x _ => beyond 64 (x.toInt - t.toInt)⟩
  | .addc c u t => some ⟨c, u, fun x cy => x + t + carryBit cy,
      fun x cy => decide (2 ^ 64 ≤ x.toNat + t.toNat + bnat cy), fun x cy => beyond 64 (x.toInt + t.toInt + bnat cy)⟩
  | .subb c u t => some ⟨c, u, fun x cy => x - t - carryBit cy,
      fun x cy => decide (x.toNat < t.toNat + bnat cy), fun x cy => beyond 64 (x.toInt - t.toInt - bnat cy)⟩
  | .add32 c u t => some ⟨c, u, fun x _ => (low32 x + low32 t).signExtend 64,
      fun x _ => decide (2 ^ 32 ≤ (low32 x).toNat + (low32 t).toNat), fun x _ => beyond 32 ((low32 x).toInt + (low32 t).toInt)⟩
  | .sub32 c u t => some ⟨c, u, fun x _ => (low32 x - low32 t).signExtend 64,
      fun x _ => decide ((low32 x).toNat < (low32 t).toNat), fun x _ => beyond 32 ((low32 x).toInt - (low32 t).toInt)⟩
  | .adds c u t => some ⟨c, u, fun x _ => sat64 (x.toInt + t.toInt), fun x _ => decide (2 ^ 64 ≤ x.toNat + t.toNat),
      fun x _ => beyond 64 (x.toInt + t.toInt)⟩
  | .subs c u t => some ⟨c, u, fun x _ => sat64 (x.toInt - t.toInt), fun x _ => decide (x.toNat < t.toNat),
      fun x _ => beyond 64 (x.toInt - t.toInt)⟩
  | .and c u t => some ⟨c, u, fun x _ => x &&& t, fun _ _ => false, fun _ _ => false⟩
  | .or c u t => some ⟨c, u, fun x _ => x ||| t, fun _ _ => false, fun _ _ => false⟩
  | .xor c u t => some ⟨c, u, fun x _ => x ^^^ t, fun _ _ => false, fun _ _ => false⟩
  | .andn c u t => some ⟨c, u, fun x _ => x &&& ~~~t, fun _ _ => false, fun _ _ => false⟩
  | .min c u t => some ⟨c, u, fun x _ => if x.toInt ≤ t.toInt then x else t, fun _ _ => false, fun _ _ => false⟩
  | .max c u t => some ⟨c, u, fun x _ => if x.toInt ≤ t.toInt then t else x, fun _ _ => false, fun _ _ => false⟩
  | .minu c u t => some ⟨c, u, fun x _ => if x.toNat ≤ t.toNat then x else t, fun _ _ => false, fun _ _ => false⟩
  | .maxu c u t => some ⟨c, u, fun x _ => if x.toNat ≤ t.toNat then t else x, fun _ _ => false, fun _ _ => false⟩
  | .abs c u t => some ⟨c, u, fun _ _ => if t.msb then -t else t, fun _ _ => false, fun _ _ => t == BitVec.intMin 64⟩
  | .neg c u t => some ⟨c, u, fun _ _ => -t, fun _ _ => t != 0, fun _ _ => t == BitVec.intMin 64⟩
  | .pass c u t => some ⟨c, u, fun _ _ => t, fun _ _ => false, fun _ _ => false⟩
  | _ => none

/-- SHIFT (R222): core, and Q from O1 and O2. -/
def shift : Instr → Option (CoxId × (W64 → W64 → W64))
  | .shl c t => some (c, fun x _ => x <<< (t.toNat % 64))
  | .shr c t => some (c, fun x _ => x >>> (t.toNat % 64))
  | .shra c t => some (c, fun x _ => x.sshiftRight (t.toNat % 64))
  | .rotl c t => some (c, fun x _ => x.rotateLeft (t.toNat % 64))
  | .rotr c t => some (c, fun x _ => x.rotateRight (t.toNat % 64))
  | .shl32 c t => some (c, fun x _ => (low32 x <<< (t.toNat % 32)).signExtend 64)
  | .shr32 c t => some (c, fun x _ => (low32 x >>> (t.toNat % 32)).setWidth 64)
  | .shra32 c t => some (c, fun x _ => ((low32 x).sshiftRight (t.toNat % 32)).signExtend 64)
  | .fshl c t => some (c, fun x y => ((x ++ y) <<< (t.toNat % 64)).extractLsb' 64 64)
  | .fshr c t => some (c, fun x y => ((x ++ y) >>> (t.toNat % 64)).extractLsb' 0 64)
  | _ => none

/-- MUL (R223): core, Q and Q2 from O1. -/
def mul : Instr → Option (CoxId × (W64 → W64 × W64))
  | .mulu c t => some (c, fun x => let p := BitVec.ofNat 128 (x.toNat * t.toNat); (p.extractLsb' 0 64, p.extractLsb' 64 64))
  | .muls c t => some (c, fun x => let p := BitVec.ofInt 128 (x.toInt * t.toInt); (p.extractLsb' 0 64, p.extractLsb' 64 64))
  | .mulsu c t => some (c, fun x => let p := BitVec.ofInt 128 (x.toInt * t.toNat); (p.extractLsb' 0 64, p.extractLsb' 64 64))
  | .mul32u c t => some (c, fun x => (BitVec.ofNat 64 ((low32 x).toNat * (low32 t).toNat), 0))
  | .mul32s c t => some (c, fun x =>
      let q := BitVec.ofInt 64 ((low32 x).toInt * (low32 t).toInt); (q, if q.msb then BitVec.allOnes 64 else 0))
  | _ => none

/-- Q, Q2 and FLAGS of a signed division of w-bit values, by R324. -/
def sdivSays {w : Nat} (a b : BitVec w) : W64 × W64 × Nat :=
  if b = 0 then (BitVec.allOnes 64, a.signExtend 64, 2)
  else if a = BitVec.intMin w ∧ b = BitVec.allOnes w then (a.signExtend 64, 0, 1)
  else (BitVec.ofInt 64 (a.toInt.tdiv b.toInt), BitVec.ofInt 64 (a.toInt.tmod b.toInt), 0)

/-- Q, Q2 and FLAGS of an unsigned division of w-bit values, sign-extended, by R224 and R324. -/
def udivSays {w : Nat} (a b : BitVec w) : W64 × W64 × Nat :=
  if b = 0 then (BitVec.allOnes 64, a.signExtend 64, 2) else ((a / b).signExtend 64, (a % b).signExtend 64, 0)

/-- DIV (R224, R324): core, latency, Q, Q2 and FLAGS from O1. -/
def div : Instr → Option (CoxId × Nat × (W64 → W64 × W64 × Nat))
  | .divu c t => some (c, 40, fun x => udivSays x t)
  | .divs c t => some (c, 40, fun x => sdivSays x t)
  | .divu32 c t => some (c, 24, fun x => udivSays (low32 x) (low32 t))
  | .divs32 c t => some (c, 24, fun x => sdivSays (low32 x) (low32 t))
  | _ => none

/-- Bit i of a value of 64 truth values. -/
def bitsFrom (f : Nat → Bool) : W64 := BitVec.ofNat 64 ((List.range 64).map (fun i => if f i then 2 ^ i else 0)).sum
/-- How many of the low n bits are set. -/
def ones (t : W64) (n : Nat) : Nat := ((List.range n).filter (fun i => t.getLsbD i)).length

/-- BITS (R231): core, latency, and Q from O1 and O2. The field operations only for a field inside the word. -/
def bitsUnit : Instr → Option (CoxId × Nat × (W64 → W64 → W64))
  | .clz c t => some (c, 1, fun _ _ => t.clz)
  | .ctz c t => some (c, 1, fun _ _ => t.ctz)
  | .popc c t => some (c, 1, fun _ _ => BitVec.ofNat 64 (ones t 64))
  | .brev c t => some (c, 1, fun _ _ => t.reverse)
  | .bswap c t => some (c, 1, fun _ _ => bitsFrom (fun i => t.getLsbD (8 * (7 - i / 8) + i % 8)))
  | .extract c t => if bits t.toNat 5 0 + bits t.toNat 11 6 + 1 ≤ 64 ∧ t.toNat < 2 ^ 12 then
      some (c, 1, fun x _ => bitsFrom (fun i => decide (i ≤ bits t.toNat 11 6) && x.getLsbD (bits t.toNat 5 0 + i))) else none
  | .extracts c t => if bits t.toNat 5 0 + bits t.toNat 11 6 + 1 ≤ 64 ∧ t.toNat < 2 ^ 12 then
      some (c, 1, fun x _ => bitsFrom (fun i => x.getLsbD (bits t.toNat 5 0 + min i (bits t.toNat 11 6)))) else none
  | .insert c t => if bits t.toNat 5 0 + bits t.toNat 11 6 + 1 ≤ 64 ∧ t.toNat < 2 ^ 12 then
      some (c, 1, fun x y => bitsFrom (fun i =>
        if bits t.toNat 5 0 ≤ i ∧ i ≤ bits t.toNat 5 0 + bits t.toNat 11 6 then y.getLsbD (i - bits t.toNat 5 0) else x.getLsbD i))
      else none
  | .pdep c t => some (c, 2, fun x _ => bitsFrom (fun i => t.getLsbD i && x.getLsbD (ones t i)))
  | .pext c t => some (c, 2, fun x _ => bitsFrom (fun j =>
      (List.range 64).any (fun i => t.getLsbD i && ones t i == j && x.getLsbD i)))
  | .crc32c c t => some (c, 2, fun x _ => BitVec.ofNat 64 (crcBytes (low32 x).toNat (leBytes 8 t.toNat)))
  | _ => none

/-- The integer compares of CMP (R228): core, and the condition from O1. -/
def compare : Instr → Option (CoxId × (W64 → Bool))
  | .eq c t => some (c, fun x => x == t)
  | .ne c t => some (c, fun x => x != t)
  | .lt c t => some (c, fun x => x.slt t)
  | .le c t => some (c, fun x => x.sle t)
  | .ltu c t => some (c, fun x => x.ult t)
  | .leu c t => some (c, fun x => x.ule t)
  | .tst c t => some (c, fun x => x &&& t != 0)
  | .eq32 c t => some (c, fun x => low32 x == low32 t)
  | .lt32 c t => some (c, fun x => (low32 x).slt (low32 t))
  | .ltu32 c t => some (c, fun x => (low32 x).ult (low32 t))
  | _ => none

/-- The floating-point operations and compares (R225, R226, R228): core, unit, trigger offset, T, latency. -/
def float : Instr → Option (CoxId × Nat × Nat × W64 × Nat)
  | .fadd64 c t => some (c, 8, 8, t, 4)
  | .fsub64 c t => some (c, 8, 9, t, 4)
  | .fmul64 c t => some (c, 8, 10, t, 4)
  | .fma64 c t => some (c, 8, 11, t, 5)
  | .fnms64 c t => some (c, 8, 12, t, 5)
  | .fmin64 c t => some (c, 8, 13, t, 2)
  | .fmax64 c t => some (c, 8, 14, t, 2)
  | .fadd32 c t => some (c, 8, 16, t, 4)
  | .fsub32 c t => some (c, 8, 17, t, 4)
  | .fmul32 c t => some (c, 8, 18, t, 4)
  | .fma32 c t => some (c, 8, 19, t, 5)
  | .fnms32 c t => some (c, 8, 20, t, 5)
  | .fmin32 c t => some (c, 8, 21, t, 2)
  | .fmax32 c t => some (c, 8, 22, t, 2)
  | .fdiv64 c t => some (c, 9, 8, t, 22)
  | .fsqrt64 c t => some (c, 9, 9, t, 22)
  | .fdiv32 c t => some (c, 9, 10, t, 14)
  | .fsqrt32 c t => some (c, 9, 11, t, 14)
  | .f64tof32 c t => some (c, 9, 12, t, 4)
  | .f32tof64 c t => some (c, 9, 13, t, 4)
  | .f64tos64 c t => some (c, 9, 14, t, 4)
  | .f64tou64 c t => some (c, 9, 15, t, 4)
  | .s64tof64 c t => some (c, 9, 16, t, 4)
  | .u64tof64 c t => some (c, 9, 17, t, 4)
  | .f32tos32 c t => some (c, 9, 18, t, 4)
  | .s32tof32 c t => some (c, 9, 19, t, 4)
  | .f64tos32 c t => some (c, 9, 20, t, 4)
  | .s32tof64 c t => some (c, 9, 21, t, 4)
  | .f64round c t => some (c, 9, 22, t, 4)
  | .f32round c t => some (c, 9, 23, t, 4)
  | .feq64 c t => some (c, 11, 18, t, 1)
  | .flt64 c t => some (c, 11, 19, t, 1)
  | .fle64 c t => some (c, 11, 20, t, 1)
  | .fun64 c t => some (c, 11, 21, t, 1)
  | .feq32 c t => some (c, 11, 22, t, 1)
  | .flt32 c t => some (c, 11, 23, t, 1)
  | .fle32 c t => some (c, 11, 24, t, 1)
  | .fun32 c t => some (c, 11, 25, t, 1)
  | _ => none

/-- The packed-decimal operations (R227, R334): core, latency, T, and Q, DEC_INVALID, OVERFLOW from the values of O1 and T. -/
def decimal : Instr → Option (CoxId × Nat × W64 × (Option Int → Option Int → Nat × Nat))
  | .dadd c t => some (c, 2, t, fun a b => match a, b with
      | some a, some b => (decPack (a + b), bnat (decide (10 ^ 15 ≤ (a + b).natAbs)))
      | _, _ => (0, 2))
  | .dsub c t => some (c, 2, t, fun a b => match a, b with
      | some a, some b => (decPack (a - b), bnat (decide (10 ^ 15 ≤ (a - b).natAbs)))
      | _, _ => (0, 2))
  | .dchk c t => some (c, 1, t, fun _ b => (t.toNat, if b.isSome then 0 else 2))
  | .dneg c t => some (c, 1, t, fun _ b => match b with
      | some b => (decPack (-b), 0)
      | none => (0, 2))
  | .dtobin c t => some (c, 4, t, fun _ b => match b with
      | some b => ((BitVec.ofInt 64 b).toNat, 0)
      | none => (0, 2))
  | .bintod c t => some (c, 6, t, fun _ _ => (decPack t.toInt, bnat (decide (10 ^ 15 ≤ t.toInt.natAbs))))
  | _ => none

end Sys2Proof.Claims

/-! ### The block as a whole -/

/-- The front command is executed on the rest of the queue, and every command completes: none ends a run (the spec gives every
command an effect in every state, be it that it is turned away or has nothing to do). The model's choice: a command whose event
cannot come in a state leaves it unchanged (log entry 12). -/
def Obligations.StepRunsTheFrontCommand : Prop :=
  ∀ (c : Instr) (rest : List Instr) (s : State), step { s with pending := c :: rest } = exec c { s with pending := rest }
    ∧ ∃ t, exec c s = .next t

/-- The reset state meets both invariants. -/
def Obligations.ResetMeetsTheInvariant : Prop := Inv State.reset ∧ Bounded State.reset

/-- Memory keeps its canonical form in every step. -/
def Obligations.EveryStepKeepsMemoryCanonical : Prop := ∀ s t : State, Inv s → step s = .next t → Inv t

/-- The admission pool never holds more than 64 jobs, the vault never more than 4 commits, a scrubber's demand queue never more than 8
words, and a locked TLB entry lies at one of the indices 0 to 15 (R23, R471, R145, R305): every step keeps this. -/
def Obligations.EveryStepKeepsTheBounds : Prop := ∀ s t : State, Bounded s → step s = .next t → Bounded t

/-- What the spec gives for reset: Launch (R405), every handle-table entry FREE with GEN 0 (R172), the pair shows fault (R488),
no core released, RWL fields open (R5). The model's choices: Course and Crew memory read zero before the wipe of Launch (log entry 3),
and no core is released and nothing waits at power-on (log entry 7). -/
def Obligations.ResetLeaves : Prop :=
  State.reset.mode = 1 ∧ (∀ i, (entryAt State.reset i).st = 0 ∧ (entryAt State.reset i).gen = 0)
  ∧ State.reset.flt.pairFault = true ∧ (∀ c, (core State.reset c).on = false) ∧ State.reset.pending = [] ∧ State.reset.locked = false
  ∧ ∀ a, a < courseSize ∨ (crewBase ≤ a ∧ a < crewBase + crewSize) → memByte State.reset a = 0

/-! ### Registers and transactions -/

/-- A register write of each kind of access (R5, R8): RW takes a legal value, of 32 bits or of 64, an RO field stays, a reserved encoding
and a locked RWL field stay and set CONFIG_ERR, an RWL field takes a legal value until the lock, W1C clears the bits written 1, and WO
performs its action and holds nothing; nothing else changes. The registers: HST_PCIE HMSG_W6 and OUTBASE (RW), STAT (RO), CTL (RW CPLTO,
RWL BAR2 and MAXGEN), HMSG (WO, here with a handle that fails its check, R399), and CRS_CTL LOST (W1C). -/
def Obligations.RegisterWriteByAccessType : Prop :=
  ∀ (m : Master) (s : State) (v : W64), Calm s → .hstPcie ∉ s.flt.underTest → .hstPcie ∉ s.flt.resets →
    Gives (.registerWrite m (BitVec.ofNat 44 (at_ .hstPcie 0x010)) false v) s (fun t =>
        t.rd (F32 .hstPcie 0x010) = v.toNat % 2 ^ 32 ∧ t.replies[m] = ⟨rOkay, []⟩ ∧ Keeps [at_ .hstPcie 0x010] s t)
    ∧ Gives (.registerWrite m (BitVec.ofNat 44 (at_ .hstPcie 8)) true v) s (fun t =>
        t.rd (F64 .hstPcie 8) = v.toNat ∧ t.replies[m] = ⟨rOkay, []⟩ ∧ Keeps [at_ .hstPcie 8] s t)
    ∧ Gives (.registerWrite m (BitVec.ofNat 44 (at_ .hstPcie 0x004)) false v) s (fun t => Keeps [] s t)
    ∧ (bits v.toNat 19 12 = 0 → Gives (.registerWrite m (BitVec.ofNat 44 (at_ .hstPcie 0)) false v) s (fun t =>
        t.rd (F .hstPcie 0 19 12) = s.rd (F .hstPcie 0 19 12) ∧ ErrSet .hstPcie t ∧ Keeps [at_ .hstPcie 0, errReg .hstPcie] s t))
    ∧ (s.locked = true → s.lc ≠ lcDevelop → bits v.toNat 3 0 ≠ s.rd (F .hstPcie 0 3 0) →
        Gives (.registerWrite m (BitVec.ofNat 44 (at_ .hstPcie 0)) false v) s (fun t =>
          t.rd (F .hstPcie 0 3 0) = s.rd (F .hstPcie 0 3 0) ∧ ErrSet .hstPcie t ∧ Keeps [at_ .hstPcie 0, errReg .hstPcie] s t))
    ∧ (s.locked = false → bits v.toNat 19 12 ≠ 0 → bits v.toNat 7 4 ≤ 6 → 1 ≤ bits v.toNat 3 0 → bits v.toNat 3 0 ≤ 4 →
        Gives (.registerWrite m (BitVec.ofNat 44 (at_ .hstPcie 0)) false v) s (fun t =>
          t.rd (F .hstPcie 0 3 0) = bits v.toNat 3 0 ∧ t.rd (F .hstPcie 0 7 4) = bits v.toNat 7 4
          ∧ t.rd (F .hstPcie 0 19 12) = bits v.toNat 19 12 ∧ Keeps [at_ .hstPcie 0] s t))
    ∧ (checkHandle s kVector (v.toNat % 2 ^ 32) ≠ 0 →
        Gives (.registerWrite m (BitVec.ofNat 44 (at_ .hstPcie 0x018)) false v) s (fun t => ErrSet .hstPcie t ∧ Keeps [errReg .hstPcie] s t))
    ∧ (.crsCtl ∉ s.flt.underTest → .crsCtl ∉ s.flt.resets →
        Gives (.registerWrite m (BitVec.ofNat 44 (at_ .crsCtl 8)) true v) s (fun t =>
          (∀ i, i < 64 → ((t.reg (at_ .crsCtl 8)).testBit i = true ↔ (s.reg (at_ .crsCtl 8)).testBit i = true ∧ v.getLsbD i = false))
          ∧ Keeps [at_ .crsCtl 8] s t))

/-- The counters in which a transaction's waiting is counted (R128, R142). -/
def waitRegs (m : Master) (a : Nat) : List Nat :=
  [at_ .crsCtl (0x100 + 8 * m.val), at_ .crwCtl (0x400 + 4 * (16 * m.val + (crewBank a).1 / 4))]

/-- A read transaction and an inbound host read of on-chip memory that is open to the master answer OKAY with its bytes, and
change nothing but the counters of waiting. -/
def Piece.ReadsReturnMemory : Prop :=
  ∀ (m : Master) (tag : BitVec 6) (addr : BitVec 44) (n waits : Nat) (s : State), Calm s →
    (Open m.val addr.toNat n s → Gives (.busRead m tag addr n waits false .data) s (fun t =>
      t.replies[m] = ⟨rOkay, memBytes s addr.toNat n⟩ ∧ Keeps (waitRegs m addr.toNat) s t))
    ∧ (pcieUp s = true → Open 11 addr.toNat n s → addr.toNat < 0x8000000 → Gives (.pcieInbound 1 addr.toNat (.read n)) s (fun t =>
      t.replies[(11 : Master)] = ⟨rOkay, memBytes s addr.toNat n⟩ ∧ Keeps [] s t))

/-- A write transaction to on-chip memory that is open to the master stores its bytes and no others. -/
def Piece.WritesStoreTheirBytes : Prop :=
  ∀ (m : Master) (tag : BitVec 6) (addr : BitVec 44) (d : List Byte) (waits : Nat) (s : State), Calm s →
    Open m.val addr.toNat d.length s → Gives (.busWrite m tag addr (.store d) waits false) s (fun t =>
      t.replies[m] = ⟨rOkay, []⟩ ∧ memBytes t addr.toNat d.length = d ∧ SameMemBut addr.toNat d.length s t
      ∧ SameRegsBut (waitRegs m addr.toNat) s t ∧ t.cox = s.cox)

/-- Atomic add and swap of an aligned word of an open Crew bank return the old value (R141); an unaligned one, and one to
Course memory, answer an error and change nothing. -/
def Piece.AtomicTransactions : Prop :=
  ∀ (m : Master) (tag : BitVec 6) (addr : BitVec 44) (n v waits : Nat) (s : State), Calm s → n = 4 ∨ n = 8 →
    let a := addr.toNat
    (Open m.val a n s → crewBase ≤ a → a % n = 0 →
      Gives (.busWrite m tag addr (.add n v) waits false) s (fun t =>
        t.replies[m] = ⟨rOkay, memBytes s a n⟩ ∧ leNat (memBytes t a n) = (leNat (memBytes s a n) + v) % 2 ^ (8 * n)
        ∧ SameMemBut a n s t ∧ SameRegsBut (waitRegs m a) s t ∧ t.cox = s.cox)
      ∧ Gives (.busWrite m tag addr (.swap n v) waits false) s (fun t =>
        t.replies[m] = ⟨rOkay, memBytes s a n⟩ ∧ leNat (memBytes t a n) = v % 2 ^ (8 * n)
        ∧ SameMemBut a n s t ∧ SameRegsBut (waitRegs m a) s t ∧ t.cox = s.cox))
    ∧ (Open m.val a n s → a % n ≠ 0 ∨ a + n ≤ courseSize →
      Gives (.busWrite m tag addr (.add n v) waits false) s (fun t =>
        t.replies[m] = ⟨rUnsupported, leBytes n 0⟩ ∧ Keeps (waitRegs m a ++ faultMarks .hstPcie) s t))

/-! ### Course and Crew memory -/

/-- WRITE_DATA, WRITE_CHECK and READ_RAW on the word at TEST_ADDR while SPLIT is set (R153): the bits named and no others. -/
def Piece.TestCommandsOnTheTestWord : Prop :=
  ∀ (crew : Bool) (m : Master) (s : State),
    let c := ctlOf crew
    let a := s.reg (c.base + 0x240) / 8 * 8
    blkOpen s c = true → s.rd (F c 0x254 31 31) = 1 → rangeIn (memBase crew) (memSize crew) a 8 = true → domState s (memDom a) = 0 →
    queuedWord s a = none →
      Gives (.writeData crew m) s (fun t => rawData t a = s.reg (c.base + 0x248) % 2 ^ 64 ∧ rawCheck t a = rawCheck s a
        ∧ SameMemBut a 8 s t ∧ SameRegsBut [] s t ∧ t.cox = s.cox)
      ∧ Gives (.writeCheck crew m) s (fun t => rawCheck t a = s.rd (F c 0x250 7 0) ∧ rawData t a = rawData s a
        ∧ SameMemBut a 8 s t ∧ SameRegsBut [] s t ∧ t.cox = s.cox)
      ∧ Gives (.readRaw crew m) s (fun t => t.reg (c.base + 0x248) = rawData s a ∧ t.rd (F c 0x250 7 0) = rawCheck s a
        ∧ Keeps [c.base + 0x248, c.base + 0x250] s t)

/-- A write of CRW_CTL_OWNn (R140): while PENDING is set OWNER stays and CONFIG_ERR sets; the current owner changes nothing and
starts no drain; QUIET takes effect in every case. -/
def Obligations.OwnerWriteKeepsOrder : Prop :=
  ∀ (m : Master) (bank : BitVec 6) (v : W32) (s : State),
    let n := bank.toNat
    blkOpen s .crwCtl = true →
    Gives (.ownerWrite m bank v) s (fun t => t.rd (ownFld n 4 4) = bits v.toNat 4 4 ∧ t.rd (ownFld n 3 0) = s.rd (ownFld n 3 0)
      ∧ (s.rd (ownFld n 5 5) = 1 → ErrSet .crwCtl t ∧ t.memx.ownNext = s.memx.ownNext ∧ t.rd (ownFld n 5 5) = 1)
      ∧ (s.rd (ownFld n 5 5) = 0 → bits v.toNat 3 0 = s.rd (ownFld n 3 0) → bits v.toNat 3 0 ≤ 8 →
          t.memx = s.memx ∧ t.rd (ownFld n 5 5) = 0 ∧ Keeps [at_ .crwCtl (4 * n)] s t)
      ∧ Keeps [at_ .crwCtl (4 * n), errReg .crwCtl] s t)

/-- A handover (R138): a write of another owner sets PENDING; its end gives OWNER the new value and clears PENDING; memory stays. -/
def Obligations.OwnershipHandover : Prop :=
  ∀ (m : Master) (bank : BitVec 6) (v : W32) (s : State),
    let n := bank.toNat
    (blkOpen s .crwCtl = true → s.rd (ownFld n 5 5) = 0 → bits v.toNat 3 0 ≤ 8 → bits v.toNat 3 0 ≠ s.rd (ownFld n 3 0) →
      Gives (.ownerWrite m bank v) s (fun t => t.rd (ownFld n 5 5) = 1 ∧ nget n t.memx.ownNext = some (bits v.toNat 3 0)
        ∧ t.rd (ownFld n 3 0) = s.rd (ownFld n 3 0) ∧ Keeps [at_ .crwCtl (4 * n)] s t))
    ∧ ∀ (o : Nat), o < 16 → nget n s.memx.ownNext = some o → (∀ h ∈ s.held, h.why ≠ .handover n ∧ h.why ≠ .order) →
      Gives (.ownerHandoverDone bank) s (fun t => t.rd (ownFld n 3 0) = o ∧ t.rd (ownFld n 5 5) = 0
        ∧ nget n t.memx.ownNext = none ∧ Keeps [at_ .crwCtl (4 * n)] s t)

/-- Registers that a correctable event of a word marks (R145, R150, R154). -/
def ceMarks (crew : Bool) (s : State) (wa : Nat) : List Nat :=
  let b := arrOf crew (bankOf s wa).1
  [at_ (ctlOf crew) 0x200, at_ (ctlOf crew) 0x208, at_ (ctlOf crew) 0x20C, at_ b.1 (0x100 + 8 * b.2), at_ (scrubOf crew) 0x010]

/-- The scrubber corrects the word at the front of its demand queue (R145, R148): a single flipped bit goes, unless its cell is stuck
(R150), and the data stay. -/
def Piece.ScrubberCorrectsASingleBit : Prop :=
  ∀ (crew stuck : Bool) (s : State) (wa i : Nat) (q : List Nat),
    (if crew then s.memx.demand1 else s.memx.demand0) = wa :: q → inCrew wa = crew → wa % 8 = 0 → wa < crewBase + crewSize →
    i < 72 → patternOf s wa = BitVec.ofNat 72 (2 ^ i) → scrubSkips s wa = false → queuedWord s wa = none → flipMask s wa = none →
    scrubOf crew ∉ s.flt.underTest → scrubOf crew ∉ s.flt.resets → s.rd (F (scrubOf crew) 0 23 0) ≠ 0 →
    domState s (memDom wa) = 0 → inTest s wa = false →
      Gives (.scrubStep ⟨crew, stuck⟩) s (fun t => patternOf t wa = (if stuck then patternOf s wa else 0) ∧ (∀ x, x ≠ wa → patternOf t x = patternOf s x)
        ∧ (if crew then t.memx.demand1 else t.memx.demand0) = q ∧ Keeps (ceMarks crew s wa) s t)

/-- A stuck row goes to the next spare row of its bank (R150 items 3 to 5): the spare register takes the row, the count rises,
the words stay. -/
def Piece.RowRemapUsesTheNextSpare : Prop :=
  ∀ (crew : Bool) (s : State) (wa : Nat),
    s.memx.remaps.find? (fun x => inCrew x = crew) = some wa → detRunning s = false → s.memx.march = none →
    (∀ x ∈ rowWords s wa, patternOf s x = 0 ∧ flipMask s x = none) → vaultThere s = true → s.cus.pfail = false →
    domState s (memDom wa) = 0 → (arrOf crew (bankOf s wa).1).1 ∉ s.flt.underTest →
    let b := arrOf crew (bankOf s wa).1
    let k := s.rd (F b.1 (0x100 + 8 * b.2) 29 27)
    k < 3 →
      Gives (.rowRemap crew) s (fun t => t.rd (F b.1 (0x100 + 8 * b.2) 29 27) = k + 1
        ∧ t.rd (F b.1 (0x300 + 4 * b.2) (8 * k + 7) (8 * k)) = 0x80 + (bankOf s wa).2 / 64 % 128
        ∧ wa ∉ t.memx.remaps ∧ t.cus.sys = s.cus.sys ++ [.repair (repairWord crew (bankOf s wa).1 ((bankOf s wa).2 / 64) k)]
        ∧ Keeps [at_ b.1 (0x100 + 8 * b.2), at_ b.1 (0x300 + 4 * b.2), at_ (scrubOf crew) 0x014] s t)

/-- A march test (R155, R156): START takes the banks of MARCH_BANKS; at its end a destructive test leaves zeros with valid check
bits in its banks and nothing else changed, and MARCH_FAIL names the failing banks. -/
def Piece.MarchTest : Prop :=
  (∀ (m : Master) (v : W32) (s : State), blkOpen s .crwMarch = true → bit v.toNat 0 = true → s.rd (F .crwMarch 8 31 31) = 0 →
    Gives (.marchStart m v) s (fun t => t.rd (F .crwMarch 8 31 31) = 1 ∧ t.reg (at_ .crwMarch 0x010) = 0
      ∧ t.memx.march = some ⟨BitVec.ofNat 64 (s.reg (at_ .crwMarch 0)), bit v.toNat 1⟩
      ∧ Keeps [at_ .crwMarch 8, at_ .crwMarch 0x010, at_ .crwMarch 0x018, at_ .crwArr 8] s t))
  ∧ ∀ (banks : W64) (fails : List MarchFail) (s : State), s.memx.march = some ⟨banks, false⟩ →
    s.rd (F .crwArr 8 31 31) = 0 → Gives (.marchDone fails) s (fun t => t.memx.march = none ∧ t.rd (F .crwMarch 8 31 31) = 0 ∧ t.rd (F .crwMarch 8 30 30) = 1
      ∧ (∀ x, (inCrew x = true ∧ banks.getLsbD (crewBank x).1 = true → memByte t x = 0 ∧ patternOf t x = 0)
        ∧ (¬ (inCrew x = true ∧ banks.getLsbD (crewBank x).1 = true) → memByte t x = memByte s x))
      ∧ ((∃ f ∈ fails, banks.getLsbD f.bank.toNat = true) → ∀ n, n < 64 → ((t.reg (at_ .crwMarch 0x010)).testBit n = true ↔
          banks.getLsbD n = true ∧ ∃ f ∈ fails, f.bank.toNat = n))
      ∧ SameRegsBut ([at_ .crwMarch 8, at_ .crwMarch 0x010, at_ .crwMarch 0x018] ++ faultMarks .crwMarch) s t ∧ t.cox = s.cox)

/-- A queued DET write retires into its bank (R129); a waiting transaction's effective QoS rises to at most 14 (R392). -/
def Piece.QueuedWritesAndWaitingRequests : Prop :=
  (∀ (bank : BitVec 10) (wa v : Nat) (q : List (Nat × Nat)) (s : State), ngetD s.memx.detQ bank.toNat [] = (wa, v) :: q →
    flipMask s wa = none → Gives (.detWriteRetire bank) s (fun t => memBytes t wa 8 = leBytes 8 v ∧ patternOf t wa = 0
      ∧ ngetD t.memx.detQ bank.toNat [] = q ∧ SameMemBut wa 8 s t ∧ SameRegsBut [] s t ∧ t.cox = s.cox))
  ∧ ∀ (i : Nat) (h : Held) (s : State), s.held[i]? = some h → Gives (.qosAging i) s (fun t =>
      t.held[i]? = some { h with qos := if h.qos < 14 then h.qos + 1 else h.qos }
      ∧ (∀ j, j ≠ i → t.held[j]? = s.held[j]?) ∧ Keeps [] s t)

/-! ### Handles and rings -/

/-- The commands of MOV_STK_CMD begin (R173, R174): BUSY sets and the command with its sampled inputs is in progress. -/
def Piece.StakeboatCommandsBegin : Prop :=
  ∀ (m : Master) (atIdx : Bool) (i : BitVec 15) (s : State), blkOpen s .movStk = true → s.rd (stkF 0xC 31 31) = 0 → domState s 100 = 0 →
    let staged := (List.range 7).map (fun j => s.rd (F32 .movStk (0x24 + 4 * j)))
    let begun (op : Nat) (a : Bool) (x : Nat) (t : State) : Prop :=
      t.rd (stkF 0xC 31 31) = 1 ∧ t.stk = { s.stk with regCmd := some ⟨op, a, x, s.rd (F32 .movStk 4), staged⟩ }
      ∧ Keeps [at_ .movStk 0xC] s t
    Gives (.create (.register m) atIdx i) s (begun 1 atIdx i.toNat) ∧ Gives (.destroy (.register m)) s (begun 2 false 0)
    ∧ Gives (.query (.register m)) s (begun 3 false 0) ∧ Gives (.reclaim (.register m) i) s (begun 4 false i.toNat)

/-- The end of a command of MOV_STK_CMD (R163, R169, R170, R174): a CREATE that meets its checks makes a LIVE entry at the lowest
FREE index, or at INDEX with AT, whose handle carries the GEN held there; DESTROY frees an unbound entry and advances its
generation, or retires it at the last; RECLAIM frees a RETIRED entry with GEN 0; QUERY returns the entry's words. -/
def Piece.StakeboatCommandsEnd : Prop :=
  ∀ (m : Master) (c : StkCmd) (s : State), s.stk.regCmd = some c →
    let ended (code result : Nat) (t : State) : Prop :=
      t.stk.regCmd = none ∧ t.rd (stkF 0xC 31 31) = 0 ∧ t.rd (stkF 0xC 7 0) = code ∧ t.rd (F32 .movStk 8) = result ∧ SameMem s t
    (c.op = 1 → createCode s c = 0 →
      let i := if c.atIdx then c.index else lowestFree 0 s.stk.table
      let kind := bits c.arg 31 28
      Gives (.stkCommandComplete (.register m) false) s (fun t => ended 0 (handleOf kind (entryAt s i).gen i % 2 ^ 32) t
        ∧ (entryAt t i).st = 1 ∧ (entryAt t i).kind = kind ∧ (entryAt t i).gen = (entryAt s i).gen
        ∧ (rising s.stk.table = true → (entryAt s i).st = 0 ∧ (c.atIdx = false → ∀ j, j < i → (entryAt s j).st ≠ 0))))
    ∧ (c.op = 2 → destroyCode s c.arg = 0 → (entryOf s c.arg).kind ≠ kWindow →
      Gives (.stkCommandComplete (.register m) false) s (fun t => ended 0 0 t
        ∧ ((entryOf s c.arg).gen = 8191 → (entryOf t c.arg).st = 2)
        ∧ ((entryOf s c.arg).gen ≠ 8191 → (entryOf t c.arg).st = 0 ∧ (entryOf t c.arg).gen = (entryOf s c.arg).gen + 1)))
    ∧ (c.op = 3 → checkHandle s (hKind c.arg) c.arg = 0 →
      Gives (.stkCommandComplete (.register m) false) s (fun t => ended 0 (c.arg % 2 ^ 32) t ∧ t.stk.table = s.stk.table
        ∧ ∀ j, 1 ≤ j → j < 8 → t.rd (F32 .movStk (0x20 + 4 * j)) = (entryOf s c.arg).word j % 2 ^ 32))
    ∧ (c.op = 4 → (entryAt s c.index).st = 2 →
      Gives (.stkCommandComplete (.register m) false) s (fun t => ended 0 0 t ∧ (entryAt t c.index).st = 0
        ∧ (entryAt t c.index).gen = 0 ∧ ∀ j, j ≠ c.index → entryAt t j = entryAt s j))

/-- An uncorrectable error in an entry makes the use of its handle fail with HANDLE_STALE and retires the entry (R171). -/
def Piece.TableErrorMakesHandlesStale : Prop :=
  ∀ (m : Master) (c : StkCmd) (s : State), s.stk.regCmd = some c → c.op = 3 → checkHandle s (hKind c.arg) c.arg = 0 →
    Gives (.stkCommandComplete (.register m) true) s (fun t => t.rd (stkF 0xC 7 0) = cStale ∧ (entryOf t c.arg).st = 2
      ∧ (s.flt.underTest = [] → (t.reg (faultReg .movStk 0)).testBit 0 = true) ∧ SameMem s t)

/-- The registers that a notification of a ring may set (R187, R399). -/
def notifyMarks (r : Nat) : List Nat :=
  (List.range 4).map (fun c => at_ .movStk (0x1000 + 0x400 * c + 4 * (r / 32))) ++ (List.range 64).map (fun i => at_ .hstPcie (0xC000 + 4 * i))

/-- The doorbell and the release of space (R178), at a block that is neither under test nor in reset: a legal value is taken; a value that would overfill the ring, or pass PROD, or a
write to a ring that is not LIVE, is ignored and sets CONFIG_ERR. -/
def Obligations.RingPointersFromSoftware : Prop :=
  ∀ (m : Master) (r : BitVec 13) (v : W32) (s : State),
    let n := r.toNat
    let cons := s.reg (ringReg n 0x14)
    blkOpen s (ringBlk n) = true →
    (ringLive s n = true → (v.toNat + 2 ^ 32 - cons) % 2 ^ 32 ≤ ringSize s n →
      Gives (.prodWrite m r v) s (fun t => t.reg (ringReg n 0x10) = v.toNat
        ∧ Keeps ([ringReg n 0x10, ringReg n 0x1C] ++ notifyMarks n) s t))
    ∧ (ringLive s n = true → (v.toNat + 2 ^ 32 - cons) % 2 ^ 32 ≤ occupancy s n →
      Gives (.consWrite m r v) s (fun t => t.reg (ringReg n 0x14) = v.toNat
        ∧ Keeps ([ringReg n 0x14, ringReg n 0x1C] ++ notifyMarks n) s t))
    ∧ ((ringLive s n = false ∨ ringSize s n < (v.toNat + 2 ^ 32 - cons) % 2 ^ 32) →
      Gives (.prodWrite m r v) s (fun t => ErrSet (ringBlk n) t ∧ Keeps [errReg (ringBlk n)] s t))
    ∧ ((ringLive s n = false ∨ occupancy s n < (v.toNat + 2 ^ 32 - cons) % 2 ^ 32) →
      Gives (.consWrite m r v) s (fun t => ErrSet (ringBlk n) t ∧ Keeps [errReg (ringBlk n)] s t))

/-- The drop counter of a producer, where it keeps one (R374, R378, R348). -/
def dropCounter : Producer → Option Fld
  | .ingest k => some (F32 (.ingLink k) 0x034)
  | .port n => some (F32 (.netPort n) 0x060)
  | .photo j => some (F32 .timPf (0x108 + 16 * j.val))
  | _ => none

/-- What the offer of a record does to a ring (R177, R181, R182): with space it is allocated its footprint, a multiple of 32 bytes,
and the next sequence number; under BLOCK without space the producer waits and no number is taken; under DROP_NEW, and of a size that
the ring never holds, the record is discarded, takes a number, its producer counts it, and the next one will carry GAP; under DROP_OLD,
here where the oldest record makes room, that is removed, and GAP goes to the oldest survivor, or to the new record (R181, R183). -/
def Obligations.RecordOffers : Prop :=
  ∀ (o : RecordOffer) (r : Nat) (g : Ring) (s : State), domState s 100 = 0 → checkHandle s kRing o.handle.toNat = 0 → ringNo s o.handle.toNat = r →
    nget r s.stk.rings = some g →
    let foot := roundUp (32 + o.body.payload.length) 32
    let seq := s.reg (ringReg r 0x18)
    (foot ≤ ringSize s r → foot ≤ ringSpace s r g →
      Gives (.ringRecordOffer o false) s (fun t => t.reg (ringReg r 0x18) = (seq + 1) % 2 ^ 32
        ∧ (∃ g' x, nget r t.stk.rings = some g' ∧ g'.recs = g.recs ++ [x] ∧ x.start = g.allocEnd ∧ x.bytes.length = foot
            ∧ leNat ((x.bytes.drop 20).take 4) = seq % 2 ^ 32 ∧ g'.allocEnd = (g.allocEnd + foot) % 2 ^ 32 ∧ g'.lost = 0)
        ∧ Keeps [ringReg r 0x18, ringReg r 0x1C] s t))
    ∧ (foot ≤ ringSize s r → ringSpace s r g < foot → s.rd (ringFld r 8 7 6) = 0 →
      Gives (.ringRecordOffer o false) s (fun t => t.stk.rings = s.stk.rings
        ∧ t.stk.waits.length = s.stk.waits.length + 1 ∧ Keeps [] s t))
    ∧ (ringSize s r < foot ∨ (ringSpace s r g < foot ∧ s.rd (ringFld r 8 7 6) = 1) →
      Gives (.ringRecordOffer o false) s (fun t => t.reg (ringReg r 0x18) = (seq + 1) % 2 ^ 32 ∧ t.rd (ringFld r 0x1C 2 2) = 1
        ∧ nget r t.stk.rings = some { g with lost := g.lost + 1 }
        ∧ (∀ f, dropCounter o.producer = some f → t.rd f = (s.rd f + 1) % 2 ^ 32)
        ∧ Keeps ([ringReg r 0x18, ringReg r 0x1C] ++ ((dropCounter o.producer).map Fld.addr).toList) s t))
    ∧ (let cons := s.reg (ringReg r 0x14)
      let m := producerMaster o.producer
      let len := leNat (memBytes s (ringAddr s r (cons + 4)) 4) % 2 ^ 16
      let fp := roundUp len 32
      let next := (cons + fp) % 2 ^ 32
      let a := ringAddr s r (next + 4)
      let w := leNat (memBytes s a 4)
      let dropped (t : State) : Prop := t.reg (ringReg r 0x14) = next ∧ t.reg (ringReg r 0x18) = (seq + 1) % 2 ^ 32
        ∧ t.rd (ringFld r 0x1C 2 2) = 1 ∧ t.rd (ringFld r 0x1C 31 16) = 1
        ∧ SameRegsBut ([ringReg r 0x14, ringReg r 0x18, ringReg r 0x1C] ++ notifyMarks r) s t ∧ t.cox = s.cox
      foot ≤ ringSize s r → ringSpace s r g < foot → s.rd (ringFld r 8 7 6) = 2 → g.recs = [] → g.lost = 0 →
      Open m (ringAddr s r (cons + 4)) 4 s → 32 ≤ len → fp ≤ occupancy s r →
      foot ≤ ringSize s r - (g.allocEnd + 2 ^ 32 - next) % 2 ^ 32 →
      (s.reg (ringReg r 0x10) = next →
        Gives (.ringRecordOffer o false) s (fun t => dropped t ∧ SameMem s t ∧ ∃ g' x, nget r t.stk.rings = some g' ∧ g'.recs = [x]
          ∧ x.start = g.allocEnd ∧ (x.bytes.getD 7 0).getLsbD 7 = true))
      ∧ (s.reg (ringReg r 0x10) < 2 ^ 32 → s.reg (ringReg r 0x10) ≠ next → Open m a 4 s → 32 ≤ w % 2 ^ 16 →
        roundUp (w % 2 ^ 16) 32 ≤ (s.reg (ringReg r 0x10) + 2 ^ 32 - next) % 2 ^ 32 →
        Gives (.ringRecordOffer o false) s (fun t => dropped t ∧ SameMemBut a 4 s t
          ∧ leNat (memBytes t a 4) = w % 2 ^ 31 + 2 ^ 31 ∧ ∃ g' x, nget r t.stk.rings = some g' ∧ g'.recs = [x] ∧ x.start = g.allocEnd)))

/-- A record offered to a ring handle that fails its check (R525): the producer writes nothing and the record takes no sequence
number; a producer with a drop counter counts it there, every other one sets CONFIG_ERR of its own block. -/
def Obligations.StaleRingHandleWritesNothing : Prop :=
  ∀ (o : RecordOffer) (s : State), checkHandle s kRing o.handle.toNat ≠ 0 →
    let counted (f : Fld) (t : State) : Prop := t.rd f = (s.rd f + 1) % 2 ^ 32 ∧ Keeps [f.addr] s t
    let refused (b : Blk) (t : State) : Prop := ErrSet b t ∧ Keeps [errReg b] s t
    Gives (.ringRecordOffer o false) s (fun t => t.stk = s.stk ∧ match o.producer with
      | .ingest k => counted (F32 (.ingLink k) 0x034) t
      | .port n => counted (F32 (.netPort n) 0x060) t
      | .photo j => counted (F32 .timPf (0x108 + 16 * j.val)) t
      | .vector _ => refused .vecSched t
      | .mover _ => refused .movMvr t
      | .timer => refused .timReg t
      | .vault => refused .cusVlt t
      | .host => refused .hstPcie t)

/-- A record that is written lies in the ring at its index, with the time of the write where its producer is a shell or the Mover
(R76, R196), and PROD passes it (R176, R177). The ring's memory is open to the
producer and the record does not meet the ring's end. -/
def Piece.RecordsAreWrittenAndPublished : Prop :=
  ∀ (r : BitVec 13) (g : Ring) (x : RingRec) (s : State),
    let n := r.toNat
    let a := ringAddr s n x.start
    nget n s.stk.rings = some g → g.recs = [x] → x.written = false → 32 ≤ x.bytes.length →
    x.start % ringSize s n + x.bytes.length ≤ ringSize s n → Open (producerMaster x.producer) a x.bytes.length s →
      Gives (.ringRecordWritten r) s (fun t => memBytes t a x.bytes.length = stamped x s ∧ SameMemBut a x.bytes.length s t
        ∧ t.reg (ringReg n 0x10) = (x.start + x.bytes.length) % 2 ^ 32
        ∧ (∃ g', nget n t.stk.rings = some g' ∧ g'.recs = [])
        ∧ SameRegsBut ([ringReg n 0x10, ringReg n 0x1C] ++ notifyMarks n) s t ∧ t.cox = s.cox)

/-- A record that waited for space on a BLOCK ring, and a host message to a live vector handle with a ring, take the ring's next
sequence number and are written (R182, R399). The ring is empty, its memory is open to the producer, and the record does not meet
its end. -/
def Piece.WaitingRecordsAndHostMessages : Prop :=
  ∀ (m : Master) (i r : Nat) (w : RingWait) (h : W32) (g : Ring) (s : State),
    let seq := s.reg (ringReg r 0x18)
    let a := ringAddr s r g.allocEnd
    let posted (n : Nat) (t : State) : Prop :=
      t.reg (ringReg r 0x18) = (seq + 1) % 2 ^ 32 ∧ t.reg (ringReg r 0x10) = (g.allocEnd + n) % 2 ^ 32
      ∧ leNat (memBytes t (a + 20) 4) = seq % 2 ^ 32 ∧ SameMemBut a n s t
      ∧ SameRegsBut ([ringReg r 0x10, ringReg r 0x18, ringReg r 0x1C] ++ notifyMarks r) s t ∧ t.cox = s.cox
    nget r s.stk.rings = some g → g.recs = [] → domState s 100 = 0 →
    (s.stk.waits[i]? = some w → w.who = .other → checkHandle s kRing w.offer.handle.toNat = 0 → ringNo s w.offer.handle.toNat = r →
      let n := roundUp (32 + w.offer.body.payload.length) 32
      n ≤ ringSpace s r g → g.allocEnd % ringSize s r + n ≤ ringSize s r →
      Open (producerMaster w.offer.producer) a n s →
        Gives (.ringSpaceWaitEnd i) s (fun t => posted n t ∧ t.stk.waits = s.stk.waits.eraseIdx i))
    ∧ (blkOpen s .hstPcie = true → checkHandle s kVector h.toNat = 0 → (entryOf s h.toNat).word 2 ≠ 0 → (entryOf s h.toNat).word 2 < 2 ^ 32 →
      checkHandle s kRing ((entryOf s h.toNat).word 2) = 0 → ringNo s ((entryOf s h.toNat).word 2) = r →
      32 ≤ ringSpace s r g → g.allocEnd % ringSize s r + 32 ≤ ringSize s r → Open 11 a 32 s →
        Gives (.hostMessage m h) s (fun t => posted 32 t ∧ memByte t (a + 6) = 0x40))

/-! ### Vector jobs -/

/-- The memory words of a descriptor at an address. -/
def descAt (s : State) (a : Nat) : List Nat := leWords 4 32 (memBytes s a 128)

/-- A direct submission admits the descriptor at its offset (R24, R28, R40, R63): with admission status 0 the pool takes a new job
of those descriptors, otherwise the core gets the status and the pool stays. -/
def Piece.DirectSubmissionAdmits : Prop :=
  ∀ (c : CoxId) (h : W32) (off : Nat) (reg : Region) (s : State),
    let a := reg.base + off
    let d := descAt s a
    regionAt s h.toNat = .ok reg → reg.rd = true → off + 128 ≤ reg.len → s.vec.pool.length < 64 → Open 4 a 128 s →
    let admits (st : Nat) (ds : List (List Nat)) (resumed : Bool) (t : State) : Prop :=
      t.vec.status[c] = st ∧ Keeps [] s t
      ∧ (st = 0 → ∃ j, t.vec.pool = s.vec.pool ++ [j] ∧ j.descs = ds ∧ j.started = false ∧ j.resumed = resumed
          ∧ j.ring = (entryOf s (jClass (leadOf ds))).word 2)
      ∧ (st ≠ 0 → t.vec.pool = s.vec.pool)
    (rowForm d = 0 → Gives (.jobAdmitMemory (.submit c h off) false) s (admits (admissionStatus s [d]) [d] false))
    ∧ (rowForm d = 1 → Gives (.jobAdmitRegister (.submit c h off) false) s (admits (admissionStatus s [d]) [d] false))
    ∧ (∀ j, rowForm d = 2 → resumeFieldsBad d = false → checkHandle s kClass (jClass d) = 0 →
        readSave (16 + c.val) d s = (s, .ok j) → j.resumed = true → j.started = false →
        Gives (.jobAdmitResume (.submit c h off) false) s (admits (admissionStatus s j.descs) j.descs true))

/-- A raft group at the head of a served queue is admitted whole, and the queue's ring moves past all of it (R43, R25). -/
def Piece.RaftGroupAdmittedWhole : Prop :=
  ∀ (q : Fin 16) (s : State),
    let h := s.rd (qBind q)
    let r := ringNo s h
    let cons := s.reg (ringReg r 0x14)
    let d (i : Nat) : List Nat := descAt s (ringAddr s r (cons + 128 * i))
    let n := raftSize (d 0)
    let ds := (List.range n).map d
    h ≠ 0 → checkHandle s kRing h = 0 → bit (s.reg (at_ .vecSched (0x40 + 4 * q.val))) 0 = true →
    bit (s.reg (at_ .vecSched (0x40 + 4 * q.val))) 1 = false → q.val ∉ s.vec.qhold → s.vec.pool.length < 64 →
    128 * n ≤ occupancy s r → rowForm (d 0) = 3 → (∀ i, 0 < i → i < n → jForm (d i) = 3) →
    (∀ i, i < n → Open 4 (ringAddr s r (cons + 128 * i)) 128 s) → admissionStatus s ds = 0 →
      Gives (.jobAdmitRaft q false) s (fun t => (∃ j, t.vec.pool = s.vec.pool ++ [j] ∧ j.descs = ds ∧ j.origin = q.val)
        ∧ t.reg (ringReg r 0x14) = (cons + 128 * n) % 2 ^ 32
        ∧ Keeps ([ringReg r 0x14, ringReg r 0x1C] ++ notifyMarks r) s t)

/-- Binding a queue, and its error ring (R23, R25, R162, R168, R187): a bindable BLOCK ring is bound to an unbound queue, its
binding counted and its TARGET made SCHED; another policy is refused with CONFIG_ERR; an error ring may have any policy. -/
def Piece.QueueBindings : Prop :=
  ∀ (m : Master) (q : Fin 16) (h : W32) (g : Ring) (s : State),
    let r := ringNo s h.toNat
    blkOpen s .vecSched = true → h.toNat ≠ 0 → ringBindable s h.toNat = true → nget r s.stk.rings = some g →
    (s.rd (qBind q) = 0 → ringPolicy s h.toNat = 0 →
      Gives (.queueBind m q h) s (fun t => t.rd (qBind q) = h.toNat ∧ (entryOf t h.toNat).binds = (entryOf s h.toNat).binds + 1
        ∧ t.rd (ringFld r 0xC 31 30) = 2 ∧ Keeps [at_ .vecSched (4 * q.val), ringReg r 0xC] s t))
    ∧ (s.rd (qBind q) = 0 → ringPolicy s h.toNat ≠ 0 →
      Gives (.queueBind m q h) s (fun t => t.rd (qBind q) = 0 ∧ ErrSet .vecSched t ∧ t.stk = s.stk
        ∧ Keeps [errReg .vecSched] s t))
    ∧ (s.rd (qErr q) = 0 →
      Gives (.queueErrorBind m q h) s (fun t => t.rd (qErr q) = h.toNat
        ∧ (entryOf t h.toNat).binds = (entryOf s h.toNat).binds + 1 ∧ Keeps [at_ .vecSched (0xC0 + 4 * q.val)] s t))

/-- The registers of shells that a start or an end writes. -/
def shellRegs (l : List Nat) : List Nat :=
  l.flatMap (fun n => [at_ (shBlk n) 0, at_ (shBlk n) 4, at_ (shBlk n) 0x00C, at_ (shBlk n) 0x018])

/-- A job runs on shells: each shows RUNNING with its PRIO, DET, rating and COOKIE, and the first holds the job. -/
def Started (j : Job) (c : List Nat) (s t : State) : Prop :=
  (∀ n ∈ c, t.rd (shState n) = stRunning ∧ t.rd (shPrio n) = jPrio (leadOf j.descs) ∧ t.rd (shDet n) = bnat (jDet (leadOf j.descs))
    ∧ t.rd (shRating n) = allowedRating s c ∧ t.reg (at_ (shBlk n) 4) = jCookie (leadOf j.descs) % 2 ^ 64)
  ∧ (∃ k, (run t (c.headD 0)).job = some k ∧ k.id = j.id ∧ k.descs = j.descs ∧ k.shells = c ∧ k.started = true)
  ∧ (∀ k ∈ t.vec.pool, k.id ≠ j.id) ∧ Keeps (shellRegs c) s t

/-- Shells on which a job can start at once: there are some, their domains run and no domain that the job needs has failed, the
rating limit lets them issue, no handle of the job is stale, and the device is not entering Boathouse (R54, R67, R69, R409, R436). -/
def CanStart (j : Job) (c : List Nat) (s : State) : Prop :=
  c ≠ [] ∧ (∀ n ∈ c, n < 4) ∧ (∀ d ∈ shellDomains j.descs c, domState s d = 0)
  ∧ (jobNeeds s { j with shells := c }).any (domFails s) = false
  ∧ jobStale s j = false ∧ 0 < allowedRating s c ∧ entering s = false

/-- The scheduler starts the ready job of highest PRIO that has a free place (R26). -/
def Piece.HighestPriorityStarts : Prop :=
  ∀ (j : Job) (c : List Nat) (s : State), j ∈ s.vec.pool → jobReady s j = true → j.past = false → placeFor s j = some c →
    (∀ k ∈ s.vec.pool, k ≠ j → jobReady s k = true → (placeFor s k).isSome = true →
      k.past = false ∧ jPrio (leadOf k.descs) < jPrio (leadOf j.descs)) →
    CanStart j c s → Gives .jobStart s (Started j c s)

/-- A window-bound job starts at its catch on its reserved shells, late otherwise (R66, R68); a free shell resumes its suspended
job (R57). -/
def Piece.CatchStartsAndResumption : Prop :=
  ∀ (j : Job) (s : State), CanStart j j.shells s →
    (∀ (slot : BitVec 14) (e : Due), s.vec.due = [e] → e.slot = slot.toNat → e.job = some j.id → s.vec.pool = [j] →
      catchNow s e.instant = true → j.late = false → fenceOpen s j = true →
      ((∀ n ∈ j.shells, s.rd (shState n) = stReserved ∧ slot.toNat ∈ (run s n).reserved) →
        Gives (.jobStartAtCatch slot) s (Started j j.shells s))
      ∧ ((∃ n ∈ j.shells, s.rd (shState n) ≠ stReserved) →
        Gives (.jobStartAtCatch slot) s (fun t => t.vec.pool = [{ j with late := true }] ∧ t.vec.due = [] ∧ Keeps [] s t)))
    ∧ ∀ (sh : ShellId), (run s sh.val).stack = [j] → s.vec.pool = [] → (∀ k : ShellId, k ≠ sh → (run s k.val).stack = []) →
      (∀ n ∈ j.shells, shellFree s j n = true ∧ s.rd (shState n) ≠ stReserved) →
      Gives (.resumeSuspended sh) s (fun t => (∀ n ∈ j.shells, t.rd (shState n) = stRunning)
        ∧ (∃ k, (run t (j.shells.headD 0)).job = some k ∧ k.id = j.id ∧ k.next = j.next ∧ k.descs = j.descs)
        ∧ (run t sh.val).stack = [] ∧ t.rd (shDepth sh.val) = 0 ∧ Keeps (shellRegs (sh.val :: j.shells)) s t)

/-- The registers in which the waiting of a stroke's accesses at memory banks is counted, and a DET read that missed its slack is
reported (R75, R128, R132, R142). -/
def bankMarks (ws : List BankWait) : List Nat :=
  ws.flatMap (fun w => waitRegs (Fin.ofNat 16 (mShell w.shell.val)) w.addr.toNat) ++ [at_ .crsCtl 0x010] ++ faultMarks .crsCtl

/-- A stroke (R50, R51, R53): at most up to the next multiple of 512 elements; at its commit the partials are merged, and the
position, STROKES and the flags go on; a stroke that meets an error is discarded and the job is left as it was. The reads of the
stroke leave the machine as it is, but for the counters of their waiting. The model's choice: strokes end at multiples of 512 elements,
so that the first one after a resume may be short (log entry 59). -/
def Obligations.StrokesCommitOrAreDiscarded : Prop :=
  ∀ (sh : ShellId) (cycles : Nat) (waits : List BankWait) (j : Job) (s : State),
    let n := sh.val
    let s1 := strokeWaits n j waits s
    let m := min (512 - j.next % 512) (jLen (leadOf j.descs) - j.next)
    (run s n).job = some j → s.rd (shState n) = stRunning → s.rd (shRating n) ≠ 0 → isRegForm j.descs = false → j.next < jLen (leadOf j.descs) →
    (run s n).drain = none → (run s n).halt = none → (run s n).stop = none →
    (∀ o, runStroke j j.next m s1 = (s1, .ok o) → jobStale s j = false →
      Gives (.strokeCommit sh ⟨cycles, waits⟩) s (fun t => (∃ k, (run t n).job = some k ∧ k.next = j.next + m ∧ k.strokes = j.strokes + 1
          ∧ k.acc0 = mergeAccum j.acc0 o.acc0 ∧ k.acc1 = mergeAccum j.acc1 o.acc1 ∧ k.flags = j.flags ||| o.flags ∧ k.descs = j.descs)
        ∧ t.reg (at_ (shBlk (recordShell j)) 0x010) = (s.reg (at_ (shBlk (recordShell j)) 0x010) + 1) % 2 ^ 64
        ∧ Keeps (at_ (shBlk (recordShell j)) 0x010 :: bankMarks waits) s t))
    ∧ (∀ h, runStroke j j.next m s1 = (s1, .error h) →
      Gives (.strokeCommit sh ⟨cycles, waits⟩) s (fun t => (∃ k, (run t n).job = some k ∧ { k with exact := j.exact } = j)
        ∧ (run t n).halt = some h ∧ Keeps (bankMarks waits) s t))

/-- Write-out of a committed stroke (R52, R55): it drains to memory; an error response holds the shell in DRAIN_HELD with its fault
condition; RETRY writes the held stroke again and the job runs on. The model's choice: it issues on at the least of its rating and of
what the limit allows by then, and waits while that is 0 (R73, R436; log entry 61). -/
def Obligations.WriteOutDrainsAndRetries : Prop :=
  ∀ (sh : ShellId) (m : Master) (j : Job) (a : Nat) (bs : List Byte) (s : State),
    let n := sh.val
    let drained (t : State) : Prop := memBytes t a bs.length = bs ∧ SameMemBut a bs.length s t ∧ (run t n).drain = none
      ∧ (run t n).drainErr = none ∧ (∃ k, (run t n).job = some k ∧ k.id = j.id ∧ k.descs = j.descs ∧ k.next = j.next ∧ k.acc0 = j.acc0
        ∧ k.acc1 = j.acc1 ∧ k.ord = j.ord) ∧ t.cox = s.cox
    (run s n).job = some j → (run s n).drain = some [.data a bs] → jDet (leadOf j.descs) = false → n ∈ j.shells → (∀ k ∈ j.shells, k < 4) →
    (s.rd (shState n) = stRunning → (run s n).drainErr = none → Open (mShell (recordShell j)) a bs.length s →
      Gives (.strokeDrainDone sh) s (fun t => drained t ∧ SameRegsBut [] s t))
    ∧ (∀ x, (run s n).drainErr = some x → s.rd (shState n) = stRunning →
      Gives (.drainHeld sh) s (fun t => (∀ k ∈ j.shells, t.rd (shState k) = stHeld) ∧ t.rdBit (fLive (shBlk (recordShell j))) 0 = true
        ∧ Keeps (shellRegs j.shells ++ faultMarks (shBlk (recordShell j))) s t))
    ∧ (blkOpen s (shBlk n) = true → s.rd (shState n) = stHeld → Open (mShell (recordShell j)) a bs.length s →
      Gives (.retry m sh) s (fun t => drained t ∧ (∀ k ∈ j.shells, t.rd (shState k) = stRunning)
        ∧ (∀ k ∈ j.shells, t.rd (shRating k) = min (s.rd (shRating n)) (allowedRating s j.shells))
        ∧ t.rdBit (fLive (shBlk (recordShell j))) 0 = false ∧ SameRegsBut (shellRegs j.shells ++ [faultReg (shBlk (recordShell j)) 4]) s t))

/-- A ring with nothing unpublished can take a record of n bytes from a master without meeting its end. -/
def RingReady (m h n : Nat) (s : State) : Prop :=
  checkHandle s kRing h = 0 ∧ h < 2 ^ 32 ∧ domState s 100 = 0 ∧ ∃ g, nget (ringNo s h) s.stk.rings = some g ∧ g.recs = [] ∧ n ≤ ringSpace s (ringNo s h) g
    ∧ g.allocEnd % ringSize s (ringNo s h) + n ≤ ringSize s (ringNo s h) ∧ Open m (ringAddr s (ringNo s h) g.allocEnd) n s

/-- Where that record goes. -/
def recordAt (h : Nat) (s : State) : Nat :=
  ringAddr s (ringNo s h) (((nget (ringNo s h) s.stk.rings).map Ring.allocEnd).getD 0)

/-- The registers that a record marks. -/
def recordMarks (h : Nat) (s : State) : List Nat :=
  [ringReg (ringNo s h) 0x10, ringReg (ringNo s h) 0x18, ringReg (ringNo s h) 0x1C] ++ notifyMarks (ringNo s h)

/-- The record has taken a sequence number and PROD has passed it. -/
def Recorded (h n : Nat) (s t : State) : Prop :=
  t.reg (ringReg (ringNo s h) 0x18) = (s.reg (ringReg (ringNo s h) 0x18) + 1) % 2 ^ 32
  ∧ ∃ g, nget (ringNo s h) s.stk.rings = some g ∧ t.reg (ringReg (ringNo s h) 0x10) = (g.allocEnd + n) % 2 ^ 32

/-- The save area of a job, and that its shell may write it. -/
def saveArea (j : Job) (s : State) : List (Nat × Nat) :=
  match regionAt s (jSave (leadOf j.descs)) with
  | .ok r => [(r.base, 2752)]
  | .error _ => []
def SaveOpen (j : Job) (s : State) : Prop := ∀ x ∈ saveArea j s, Open (mShell (recordShell j)) x.1 x.2 s

/-- The shells of a job are free again. -/
def Freed (j : Job) (s t : State) : Prop :=
  ∀ n ∈ j.shells, (run t n).job = none ∧ t.rd (shState n) = (if (run s n).reserved.isEmpty then stIdle else stReserved)

/-- The ends of a job (R53, R55, R58, R76, R77): a halt, a cancellation, a discard and a completion free its shells and write its
record; memory changes only there and in its save area. -/
def Obligations.JobEndsFreeTheShellsAndRecord : Prop :=
  ∀ (sh : ShellId) (m : Master) (cycles : Nat) (waits : List BankWait) (j : Job) (s : State),
    let n := sh.val
    let ended (ws : List BankWait) (t : State) : Prop := Freed j s t ∧ Recorded j.ring 64 s t
      ∧ SameMemOut ((recordAt j.ring s, 64) :: saveArea j s) s t
      ∧ SameRegsBut (bankMarks ws ++ shellRegs j.shells ++ recordMarks j.ring s ++ [faultReg (shBlk (recordShell j)) 4]) s t ∧ t.cox = s.cox
    (run s n).job = some j → s.pow.hwEntry = false → s.pow.req ≠ some 3 → j.shells ≠ [] → (∀ k ∈ j.shells, k < 4) → j.shells.Nodup → j.ring ≠ 0 →
    RingReady (mShell (recordShell j)) j.ring 64 s → SaveOpen j s →
    (∀ x, (run s n).halt = some x → x.status ≠ 0 → (run s n).drain = none → Gives (.jobHalt sh) s (ended []))
    ∧ ((run s n).stop = some .cancel → (run s n).drain = none → (run s n).halt = none → Gives (.cancelStop sh) s (ended []))
    ∧ (blkOpen s (shBlk n) = true → s.rd (shState n) = stHeld → Gives (.discard m sh) s (ended []))
    ∧ (s.rd (shState n) = stRunning → (run s n).halt = none → (run s n).stop = none → (run s n).drain = none →
      isRegForm j.descs = false → jLen (leadOf j.descs) ≤ j.next → jQuiet (leadOf j.descs) = false →
      Gives (.jobComplete sh ⟨cycles, waits⟩) s (ended waits))

/-- A preempted or yielding job is saved, pushed on the suspension stack of its shell, and its shells are free (R56, R57, R67). -/
def Piece.SuspensionSavesAndFrees : Prop :=
  ∀ (sh : ShellId) (j : Job) (s : State),
    let n := sh.val
    let suspended (t : State) : Prop := Freed j s t
      ∧ (∃ k, (run t n).stack = k :: (run s n).stack ∧ k.id = j.id ∧ k.next = j.next ∧ k.preempted = true)
      ∧ t.rd (shDepth n) = (run s n).stack.length + 1
      ∧ SameMemOut (saveArea j s) s t ∧ SameRegsBut (shellRegs (n :: j.shells)) s t ∧ t.cox = s.cox
    (run s n).job = some j → (run s n).drain = none → (run s n).halt = none → (run s n).stack.length < 7 → SaveOpen j s →
    (∀ k ∈ j.shells, k < 4) → j.shells.Nodup →
    ((run s n).stop = some .preempt → Gives (.preemptStop sh) s suspended)
    ∧ ((run s n).stop = some .yield → Gives (.windowYield sh) s suspended)

/-- VEC_SCHED_CANCEL (R78): a running job of the class is marked to stop at its next commit, a pooled or suspended one ends and its
record is written; jobs of other classes stay as they are. -/
def Piece.CancelByClass : Prop :=
  ∀ (m : Master) (cls : W32) (s : State),
    let ofClass (j : Job) : Prop := jClass (leadOf j.descs) = cls.toNat
    let depths := (List.range 4).map (fun n => at_ (shBlk n) 0)
    blkOpen s .vecSched = true →
    ((∀ j ∈ s.vec.pool, ¬ ofClass j) → (∀ n, n < 4 → ∀ j ∈ (run s n).stack, ¬ ofClass j) →
      Gives (.schedCancel m cls) s (fun t => t.vec.pool = s.vec.pool
        ∧ (∀ n, n < 4 → (run t n).job = (run s n).job ∧ (run t n).stack = (run s n).stack
          ∧ ((run t n).cancel = true ↔ (run s n).cancel = true ∨ ∃ j, (run s n).job = some j ∧ ofClass j))
        ∧ Keeps depths s t))
    ∧ (∀ (j : Job), s.vec.pool = [j] → j.started = false → ofClass j → (∀ n, n < 4 → (run s n).stack = []) → RingReady 4 j.ring 64 s →
      Gives (.schedCancel m cls) s (fun t => t.vec.pool = [] ∧ Recorded j.ring 64 s t
        ∧ SameMemBut (recordAt j.ring s) 64 s t ∧ SameRegsBut (depths ++ recordMarks j.ring s) s t ∧ t.cox = s.cox))
    ∧ (∀ (j : Job) (k : Nat), s.vec.pool = [] → k < 4 → (run s k).stack = [j] → ofClass j → (∀ n, n < 4 → n ≠ k → (run s n).stack = []) →
      j.started = true → recordShell j < 4 → RingReady (mShell (recordShell j)) j.ring 64 s →
      Gives (.schedCancel m cls) s (fun t => (run t k).stack = [] ∧ t.rd (shDepth k) = 0
        ∧ Recorded j.ring 64 s t ∧ SameMemBut (recordAt j.ring s) 64 s t
        ∧ SameRegsBut (depths ++ [at_ (shBlk (recordShell j)) 0x018] ++ recordMarks j.ring s) s t ∧ t.cox = s.cox))

/-! ### The Mover -/

/-- An engine is in the middle of a descriptor of an operation, with live region handles: descriptor, next byte or element. -/
def Moving (e : Fin 16) (op : Nat) (d : List Nat) (k : Nat) (s : State) : Prop :=
  let g := s.stk.engines[e]
  g.cur.isSome = true ∧ g.desc = d ∧ dOp d = op ∧ g.pos = k ∧ k < dLen d ∧ g.ended = none ∧ g.failing = none ∧ g.cancel = false
  ∧ g.waiting = false ∧ checkpoint s d k = none

/-- The region that a handle of an engine's descriptor named when it was last checked (R163, R193). -/
def regionFor (s : State) (e : Fin 16) (h : Nat) : Region :=
  ((s.stk.engines[e].regions.find? (fun p => p.1 = h)).map Prod.snd).getD ⟨0, 0, false, false⟩

/-- One transfer of each operation (R190): what reaches the destination, and that nothing else changes. The ranges of the transfer
are open to the Mover. -/
def Piece.MoverMovesWhatItsDescriptorSays : Prop :=
  ∀ (e : Fin 16) (d : List Nat) (k : Nat) (s : State),
    let src := (regionFor s e (dSrc d)).base + dSrcOff d
    let dst := (regionFor s e (dDst d)).base + dDstOff d
    let pos (t : State) : Nat := t.stk.engines[e].pos
    let stored (a : Nat) (bs : List Byte) (t : State) : Prop :=
      memBytes t a bs.length = bs ∧ SameMemBut a bs.length s t ∧ SameRegsBut [] s t ∧ t.cox = s.cox
    (Moving e opCopy d k s → let n := chunk [src + k, dst + k] k (dLen d)
      Open mMover (src + k) n s → Open mMover (dst + k) n s →
      Gives (.moverCopy e 1) s (fun t => stored (dst + k) (memBytes s (src + k) n) t ∧ pos t = k + n))
    ∧ (Moving e opFill d k s → let n := chunk [dst + k] k (dLen d)
      Open mMover (dst + k) n s →
      Gives (.moverFill e 1) s (fun t => stored (dst + k) ((List.range n).map (fun j => (dPattern d).getD ((k + j) % 8) 0)) t
        ∧ pos t = k + n))
    ∧ (Moving e opTagfill d k s → Open mMover ((regionFor s e (dDst d)).base + (dDstOff d + k) / 2) 1 s →
      let a := (regionFor s e (dDst d)).base + (dDstOff d + k) / 2
      Gives (.moverTagfill e 1) s (fun t => SameMemBut a 1 s t ∧ pos t = k + 1 ∧ SameRegsBut [] s t ∧ t.cox = s.cox
        ∧ (if (dDstOff d + k) % 2 = 0
           then bits (memByte t a).toNat 3 0 = bits (wordAt d 13) 3 0 ∧ bits (memByte t a).toNat 7 4 = bits (memByte s a).toNat 7 4
           else bits (memByte t a).toNat 7 4 = bits (wordAt d 13) 3 0 ∧ bits (memByte t a).toNat 3 0 = bits (memByte s a).toNat 3 0)))
    ∧ (Moving e opCrc32c d k s → let n := chunk [src + k] k (dLen d)
      Open mMover (src + k) n s →
      Gives (.moverCrc32c e 1) s (fun t => t.stk.engines[e].crc = crc32c (s.stk.engines[e].crc) (memBytes s (src + k) n)
        ∧ pos t = k + n ∧ Keeps [] s t))

/-- One element of a GATHER and of a SCATTER (R190): its index is read from the index list, and the element goes from or to the
indexed place; an indexed side outside its region fails at that element (R192). -/
def Piece.MoverFollowsTheIndexList : Prop :=
  ∀ (e : Fin 16) (d : List Nat) (k : Nat) (s : State),
    let src := regionFor s e (dSrc d)
    let dst := regionFor s e (dDst d)
    let ia := (regionFor s e (dIdx d)).base + dIdxOff d + 4 * k
    let x := leNat (memBytes s ia 4)
    let z := dEsize d
    let element (a b : Nat) (t : State) : Prop := memBytes t b z = memBytes s a z ∧ SameMemBut b z s t
      ∧ t.stk.engines[e].pos = k + 1 ∧ SameRegsBut [] s t ∧ t.cox = s.cox
    let fails (side a : Nat) (t : State) : Prop := t.stk.engines[e].failing = some ⟨mvRegion, 0, side, a⟩ ∧ Keeps [] s t
    Open mMover ia 4 s →
    (Moving e opGather d k s →
      let a := src.base + (dSrcOff d + x * z)
      let b := dst.base + (dDstOff d + k * z)
      (dSrcOff d + x * z + z ≤ src.len → Open mMover a z s → Open mMover b z s → Gives (.moverGather e 1) s (element a b))
      ∧ (src.len < dSrcOff d + x * z + z → Gives (.moverGather e 1) s (fails 0 a)))
    ∧ (Moving e opScatter d k s →
      let a := src.base + (dSrcOff d + k * z)
      let b := dst.base + (dDstOff d + x * z)
      (dDstOff d + x * z + z ≤ dst.len → Open mMover a z s → Open mMover b z s → Gives (.moverScatter e 1) s (element a b))
      ∧ (dst.len < dDstOff d + x * z + z → Gives (.moverScatter e 1) s (fails 1 b)))

/-- The end of a descriptor (R192, R193, R196): its record, STATUS in the channel, CONS past the descriptor and the engine idle; a
failure halts the channel at its element and raises CHANNEL_HALT. PARTIAL and ERROR of the record stand where the model's reading of R193
to R196 has them (log entry 40). -/
def Piece.MoverDescriptorEnds : Prop :=
  ∀ (e : Fin 16) (h : Nat) (f : MovFail) (s : State),
    let g := s.stk.engines[e]
    let ring := (entryOf s h).word 3
    let r := ringNo s ((entryOf s h).word 2)
    let recorded (t : State) : Prop := Recorded ring 64 s t ∧ SameMemBut (recordAt ring s) 64 s t ∧ t.cox = s.cox
      ∧ t.stk.engines[e].cur = none ∧ t.rd (F .movMvr (0x100 + 4 * e.val) 31 31) = 0 ∧ (entryOf t h).word 6 = f.status
    let marks := [at_ .movMvr (0x100 + 4 * e.val)] ++ recordMarks ring s
    g.cur = some h → g.leaving = [] → checkHandle s kChannel h = 0 → (entryOf s h).words.length = 7 →
    RingReady mMover ring 64 s →
    (g.ended = some f → (dQuiet g.desc = false ∨ f.status ≠ mvOk) → descThere s h = true →
      Gives (.moverDescriptorComplete e) s (fun t => recorded t
        ∧ t.reg (ringReg r 0x14) = (s.reg (ringReg r 0x14) + 64) % 2 ^ 32
        ∧ SameRegsBut (marks ++ [ringReg r 0x14, ringReg r 0x1C] ++ notifyMarks r) s t))
    ∧ (g.failing = some f → f.status ≠ mvWrite →
      Gives (.moverHalt e) s (fun t => recorded t ∧ halted t h = true ∧ (entryOf t h).word 4 = g.pos
        ∧ SameRegsBut (marks ++ faultMarks .movMvr) s t))
    ∧ (g.failing = some f → f.status = mvWrite →
      Gives (.moverWriteError e) s (fun t => recorded t ∧ halted t h = true ∧ (entryOf t h).word 4 = g.pos
        ∧ SameRegsBut (marks ++ faultMarks .movMvr) s t))

/-- Commands on the channel in CHARG (R195), at a block that is neither under test nor in reset. The model's readings: a DISABLE while a
descriptor runs lets it finish, and an ENABLE before its end keeps the channel served (log entry 39); a descriptor works in the regions of
its last check, RESUME's for one that is continued (log entry 40). -/
def Piece.ChannelCommands : Prop :=
  ∀ (m : Master) (s : State),
    let h := charg s
    let e := engineOf s h
    let g := s.stk.engines[e]
    let enabled (t : State) : Bool := bit ((entryOf t h).word 1) 8
    blkOpen s .movMvr = true → checkHandle s kChannel h = 0 → (entryOf s h).words.length = 7 →
    (enabled s = false → (∀ x ∈ channelBinds s h, bindsFull s x 3 = false) →
      Gives (.channelEnable m) s (fun t => enabled t = true ∧ t.stk.engines[e].chans = g.chans ++ [h] ∧ Keeps [] s t))
    ∧ (enabled s = true →
      Gives (.channelEnable m) s (fun t => t.stk.engines[e] = { g with leaving := g.leaving.filter (· ≠ h) } ∧ t.stk.table = s.stk.table
        ∧ Keeps [] s t))
    ∧ (enabled s = true → g.cur ≠ some h →
      Gives (.channelDisable m) s (fun t => enabled t = false ∧ h ∉ t.stk.engines[e].chans ∧ Keeps [] s t))
    ∧ (enabled s = true → g.cur = some h →
      Gives (.channelDisable m) s (fun t => t.stk.engines[e].leaving = (if h ∈ g.leaving then g.leaving else g.leaving ++ [h]) ∧ t.stk.table = s.stk.table ∧ Keeps [] s t))
    ∧ (∀ (d : List Nat), halted s h = true → fetchDesc h s = some (s, d) → descCheck s d = 0 →
      Gives (.channelResume m) s (fun t => halted t h = false ∧ Keeps [] s t
        ∧ t.stk.engines[e].resumes.map (fun x => (x.ch, x.pos, x.crc))
            = g.resumes.map (fun x => (x.ch, x.pos, x.crc)) ++ [(h, (entryOf s h).word 4, (entryOf s h).word 5)]))
    ∧ (∀ (d : List Nat), halted s h = true → fetchDesc h s = some (s, d) → RingReady mMover ((entryOf s h).word 3) 64 s →
      let r := descRing s h
      Gives (.channelSkip m) s (fun t => halted t h = false ∧ (entryOf t h).word 6 = mvSkipped
        ∧ Recorded ((entryOf s h).word 3) 64 s t ∧ t.reg (ringReg r 0x14) = (s.reg (ringReg r 0x14) + 64) % 2 ^ 32
        ∧ SameMemBut (recordAt ((entryOf s h).word 3) s) 64 s t ∧ t.cox = s.cox
        ∧ SameRegsBut ([ringReg r 0x14, ringReg r 0x1C] ++ notifyMarks r ++ recordMarks ((entryOf s h).word 3) s) s t))
    ∧ (g.cur = some h → g.ended = none → halted s h = false →
      Gives (.channelCancel m) s (fun t => t.stk.engines[e].cancel = true ∧ t.stk.engines[e].pos = g.pos ∧ Keeps [] s t))

/-- A command on a handle in CHARG that fails its check sets CONFIG_ERR and does nothing else. -/
def Piece.ChannelCommandNeedsAChannel : Prop :=
  ∀ (m : Master) (s : State), blkOpen s .movMvr = true → checkHandle s kChannel (charg s) ≠ 0 →
    ∀ i ∈ [Instr.channelEnable m, .channelDisable m, .channelResume m, .channelSkip m, .channelCancel m],
      Gives i s (fun t => ErrSet .movMvr t ∧ t.stk = s.stk ∧ Keeps [errReg .movMvr] s t)

/-! ### External interfaces -/

/-- The PCIe link (R397, R527): it comes up at a rate of at most MAXGEN and one of the endpoint's widths when PERST_N is negated, the
profile applied and the pads open; at no other width or rate;
its going down clears UP and makes the fault condition true. -/
def Piece.PcieLinkChanges : Prop :=
  ∀ (gen : BitVec 3) (width : BitVec 4) (s : State),
    let regs := [at_ .hstPcie 4] ++ faultMarks .hstPcie
    (pcieMayTrain s = true → linkOk gen.toNat width.toNat = true → Gives (.pcieLinkChange true gen width) s (fun t => pcieUp t = true
      ∧ t.rd (F .hstPcie 4 3 1) = min gen.toNat (s.rd (F .hstPcie 0 3 0)) ∧ t.rd (F .hstPcie 4 7 4) = width.toNat
      ∧ t.rdBit (fLive .hstPcie) 0 = false ∧ Keeps regs s t))
    ∧ (linkOk gen.toNat width.toNat = false → Gives (.pcieLinkChange true gen width) s (fun t => t = s))
    ∧ (pcieUp s = true → Gives (.pcieLinkChange false gen width) s (fun t => pcieUp t = false
      ∧ t.rdBit (fLive .hstPcie) 0 = true ∧ Keeps regs s t))

/-- Unmasking an MSI-X vector sends one message if it is pending, none otherwise (R399); an outbound read without a completion in
time answers PCIE_TIMEOUT (R396). -/
def Piece.MsixUnmaskAndCompletionTimeout : Prop :=
  (∀ (v : BitVec 11) (s : State),
    let n := v.toNat
    blkOpen s .hstPcie = true → Gives (.msixUnmask v) s (fun t => t.rd (msixCtl n) = 0 ∧ t.rd (msixPend n) = 0
      ∧ t.out = (if s.rd (msixPend n) = 1 then .msix n :: s.out else s.out)
      ∧ Keeps [at_ .hstPcie (0x4000 + 16 * n + 0xC), at_ .hstPcie (0xC000 + 4 * (n / 32))] s t))
  ∧ ∀ (m : Master) (tag : BitVec 6) (h : Held) (s : State),
    s.held.find? (fun h => h.why = .host ∧ h.req.master = m ∧ h.req.tag = tag) = some h → m.val ≠ 11 →
    (∀ x ∈ s.held, x.why ≠ .hostFull ∧ x.why ≠ .order) →
    Gives (.pcieCompletionTimeout m tag) s (fun t => t.replies[m] = emptyReply h.req 0xB ∧ t.held = s.held.erase h ∧ Keeps [] s t)

/-- xSPI commands (R404): CMD sets BUSY, and the command goes to the flash at once unless CUSTODY has one ready or the pad hold is closed
(R426); one given while BUSY is ignored and sets CONFIG_ERR; its end clears
BUSY and loads the data that it returned. -/
def Piece.XspiCommands : Prop :=
  ∀ (m : Master) (v : W32) (s : State),
    let goes := !(custodyReady s || padHeld s 117)
    (blkOpen s .hstXspi = true → s.host.xspi = none → domState s 117 = 0 → Gives (.xspiCommand m v) s (fun t => t.rd (F .hstXspi 4 31 31) = 1
      ∧ t.host.xspi = some ⟨bits v.toNat 15 8, bits v.toNat 0 0, s.rd (F32 .hstXspi 8), xspiData s, goes⟩
      ∧ (if goes then ∃ o, t.out = o :: s.out else t.out = s.out) ∧ Keeps [at_ .hstXspi 4] s t))
    ∧ (blkOpen s .hstXspi = true → s.host.xspi.isSome = true → Gives (.xspiCommand m v) s (fun t => ErrSet .hstXspi t ∧ t.host = s.host
      ∧ Keeps [errReg .hstXspi] s t))
    ∧ (∀ (c : XspiCmd) (ok : Bool) (data : List Byte), s.host.xspi = some c → c.started = true → s.pow.req ≠ some 3 →
      (custodyReady s = true → s.cus.flying.isSome = true) → (∀ x ∈ s.held, x.why ≠ .flash c.cs ∧ x.why ≠ .order) → data.length % 4 = 0 → data.length ≤ 256 →
      Gives (.xspiCommandDone ⟨ok, data⟩) s (fun t => t.rd (F .hstXspi 4 31 31) = 0 ∧ t.host.xspi = none
        ∧ (∀ i, i < 64 → 4 * i < data.length → t.rd (F32 .hstXspi (0x010 + 4 * i)) = leNat ((data.drop (4 * i)).take 4))
        ∧ (ok = false → t.flash0 = s.flash0 ∧ t.flash1 = s.flash1)
        ∧ Keeps (at_ .hstXspi 4 :: (List.range 64).map (fun i => at_ .hstXspi (0x010 + 4 * i))) s t))

/-- The DDR5 channel (R402, R411): a recalibration holds accesses until it ends; the retraining after a wake sets READY. -/
def Piece.DdrChannelHoldsAndServes : Prop :=
  ∀ (s : State),
    (ddrReady s = true → Gives (.ddrZqRecal true) s (fun t => ddrServes t = false ∧ Keeps [] s t))
    ∧ (ddrReady s = true → s.host.recal = true → padHeld s 113 = false → (∀ h ∈ s.held, h.why ≠ .ddr ∧ h.why ≠ .order) →
      Gives (.ddrZqRecal false) s (fun t => ddrServes t = true ∧ Keeps [] s t))
    ∧ (s.host.retrain = true → s.mode ≠ modeBoathouse → s.mode ≠ modeLaunch → (∀ h ∈ s.held, h.why ≠ .ddr ∧ h.why ≠ .order) →
      Gives .ddrReady s (fun t => ddrReady t = true ∧ t.host.retrain = false ∧ Keeps [at_ .hstDdr 4] s t))

/-! ### The time unit -/

/-- The timebase runs (R337): three cycles of the time PLL are 2 ns and the RATE units; with no pending slew nothing else moves it. The
model's reading: it is held in units of 2^-48 ns with the phase of the group of three (log entry 28). -/
def Piece.ThreeCyclesAreTwoNanoseconds : Prop :=
  ∀ (k : Nat) (upsets : List Upset) (s : State), s.mode ≠ modeBoathouse → timeOn s = true → s.tim.phase < 3 → s.tim.slew = 0 → s.pow.req ≠ some 3 →
    Gives (.timebaseAdvance ⟨3 * k, upsets⟩) s (fun t =>
      (t.tb : Int) = ((s.tb : Int) + k * 2 ^ 49 + 2 * sgn 40 (s.rd (tbF 0x028 39 0)) * k) % (tbTop : Int)
      ∧ t.elapsed = s.elapsed + 3 * k ∧ t.tim.phase = s.tim.phase ∧ SameMem s t ∧ SameRegsBut (at_ .pwrAon 8 :: faultMarks .movStk) s t)

/-- SET and STEP where they pass no scheduled edge (R341): the timebase takes its new value, the pending slew clears, STEPS counts
and STEPPED is reported (the fraction below the written units clears: log entry 28); a window edge that comes within its hand-over distance may raise its own fault (R359). -/
def Piece.SetAndStepMoveTheTimebase : Prop :=
  ∀ (m : Master) (s : State),
    let new := unstamp96 (s.rd (tbF 0x010 31 0) + s.rd (tbF 0x014 31 0) * 2 ^ 32 + s.rd (tbF 0x018 31 0) * 2 ^ 64) * 2 ^ 32 % tbTop
    let sum : Int := (s.tb : Int) + sgn 64 (s.rd (tbF 0x020 63 0)) * 2 ^ 32
    let moved (v : Nat) (t : State) : Prop := t.tb = v ∧ t.tim.slew = 0 ∧ t.rd (tbF 0x044 31 16) = (s.rd (tbF 0x044 31 16) + 1) % 2 ^ 16
      ∧ t.rd (tbF 0x044 0 0) = 1 ∧ (s.flt.underTest = [] → (t.reg (faultReg .timTb 0)).testBit 0 = true)
      ∧ Keeps (at_ .timTb 0x044 :: faultMarks .timTb ++ faultMarks .timReg) s t
    (passedEdges s s.tb new = [] → Gives (.tbSet m) s (moved new))
    ∧ (passedEdges s s.tb sum.toNat = [] → Gives (.tbStep m) s (moved (sum % (tbTop : Int)).toNat))

/-- Reading, slewing and changing the rate of the timebase, and FREQ_IN (R338, R339, R340). -/
def Piece.TimebaseRegisters : Prop :=
  ∀ (m : Master) (v : W64) (present : Bool) (s : State),
    Gives (.timebaseCapture m) s (fun t => t.tim.now[m] = stamp96 (now16 s) ∧ t.replies[m] = ⟨0, leBytes 4 (stamp96 (now16 s) % 2 ^ 32)⟩
      ∧ (∀ j : Master, j ≠ m → t.tim.now[j] = s.tim.now[j]) ∧ Keeps [] s t)
    ∧ Gives (.slewWrite m v) s (fun t => t.tim.slew = s.tim.slew + sgn 64 v.toNat * 2 ^ 32 ∧ t.tb = s.tb ∧ Keeps [] s t)
    ∧ Gives (.freqInChange present) s (fun t => t.rd (tbF 0x044 2 2) = bnat (present && tbMode s == 2) ∧ t.tb = s.tb
      ∧ Keeps [at_ .timTb 0x044] s t)
    ∧ (Calm s → blkOpen s .timTb = true → Gives (.registerWrite m (BitVec.ofNat 44 (at_ .timTb 0x028)) true v) s (fun t =>
      t.rd (tbF 0x028 39 0) = v.toNat % 2 ^ 40 ∧ t.tb = s.tb ∧ t.tim = s.tim ∧ Keeps [at_ .timTb 0x028] s t))

/-- The PPS loop (R342): below the step limit the error joins the pending slew with its sign turned and RATE loses the error's share, and
the fourth edge in a row, and each later one, below 100 ns locks; at the limit or above the timebase is stepped by it; without edges for
1.5 s the lock is lost and the fault condition begins. That RATE's share is rounded half up is the model's reading (log entry 28). -/
def Piece.PpsLoop : Prop :=
  ∀ (tap : BitVec 6) (s : State),
    let sec : Nat := 1000000000 * 65536
    let f := tapStamp s ppsTab tap.toNat % sec
    let e : Int := if 2 * f ≤ sec then f else (f : Int) - sec
    let limit := s.rd (tbF 0x048 19 0) * 1000 * 65536
    let share : Nat := 1000000000 * 2 ^ s.rd (tbF 0x040 17 14)
    let rate : Int := sgn 40 (s.rd (tbF 0x028 39 0)) - (2 * (e * 2 ^ 32) + share) / (2 * share : Nat)
    let marks := [at_ .timTb 0x028, at_ .timTb 0x044, at_ .timTb 0x050] ++ faultMarks .timTb ++ faultMarks .timReg
    tbMode s = 2 → timeOn s = true →
    (padHeld s 114 = false → e.natAbs < limit → Gives (.ppsEdge tap) s (fun t => t.tim.slew = s.tim.slew - e * 2 ^ 32 ∧ t.tb = s.tb
      ∧ t.reg (at_ .timTb 0x050) = wrap 64 e ∧ (-(2 ^ 39 : Int) ≤ rate → rate < 2 ^ 39 → t.rd (tbF 0x028 39 0) = wrap 40 rate)
      ∧ (e.natAbs < 100 * 65536 → t.tim.ppsRun = s.tim.ppsRun + 1 ∧ (3 ≤ s.tim.ppsRun → t.rd (tbF 0x044 1 1) = 1))
      ∧ (100 * 65536 ≤ e.natAbs → t.tim.ppsRun = 0 ∧ t.rd (tbF 0x044 1 1) = s.rd (tbF 0x044 1 1)) ∧ Keeps marks s t))
    ∧ (padHeld s 114 = false → limit ≤ e.natAbs → passedEdges s s.tb ((s.tb : Int) + -e * 2 ^ 32).toNat = [] →
      Gives (.ppsEdge tap) s (fun t => t.tb = (((s.tb : Int) - e * 2 ^ 32) % (tbTop : Int)).toNat ∧ t.tim.slew = 0 ∧ Keeps marks s t))
    ∧ (2250000000 ≤ s.elapsed - s.tim.ppsAt.getD 0 → Gives .ppsLost s (fun t => t.rd (tbF 0x044 1 1) = 0
      ∧ t.rdBit (fLive .timTb) 1 = true ∧ t.tb = s.tb ∧ Keeps marks s t))

/-- Event inputs (R344 to R348): an edge is stamped and enters the filter; when it has stayed for the filter time it is accepted,
and a wanted edge of an ungated input, the first one or 16 cycles after the one before it, is recorded in the input's ring; one that
follows sooner is counted and not recorded; a return to the accepted level leaves the filter empty, and nothing is accepted before the
filter time. The stamp takes a tap's place from the line's table (log entry 63). -/
def Piece.EventEdgesAreStampedAndRecorded : Prop :=
  ∀ (j : Fin 32) (level : Bool) (tap : BitVec 6) (s : State),
    let x := s.tim.pf[pfIx j]
    let h := s.rd (pfF j.val 4 31 0)
    timeOn s = true →
    (padHeld s 114 = false → level ≠ x.level → level ≠ x.acc →
      Gives (.eventEdge j level tap) s (fun t => (t.tim.pf[pfIx j]).cand = some (level, tapStamp s (lineTab s (pfIx j)) tap.toNat, s.elapsed)
        ∧ (t.tim.pf[pfIx j]).level = level ∧ Keeps [] s t))
    ∧ (padHeld s 114 = false → level ≠ x.level → level = x.acc →
      Gives (.eventEdge j level tap) s (fun t => (t.tim.pf[pfIx j]).cand = none ∧ (t.tim.pf[pfIx j]).level = level ∧ Keeps [] s t))
    ∧ (∀ (stamp since : Nat), x.cand = some (level, stamp, since) → s.elapsed < since + s.rd (pfF j.val 0 6 2) →
      Gives (.eventEdgeAccept j) s (fun t => t = s))
    ∧ (∀ (stamp since l : Nat), x.cand = some (level, stamp, since) → since + s.rd (pfF j.val 0 6 2) ≤ s.elapsed →
      s.rd (pfF j.val 0 31 31) = 1 → bit (s.rd (pfF j.val 0 1 0)) (if level then 0 else 1) = true → x.lastAt = some l → since < l + 16 →
      Gives (.eventEdgeAccept j) s (fun t => (t.tim.pf[pfIx j]).cand = none ∧ (t.tim.pf[pfIx j]).acc = level
        ∧ (t.tim.pf[pfIx j]).lastAt = some l ∧ t.rd (pfF j.val 8 31 0) = (s.rd (pfF j.val 8 31 0) + 1) % 2 ^ 32
        ∧ Keeps [at_ .timPf (0x108 + 16 * j.val)] s t))
    ∧ (∀ (stamp since : Nat), x.cand = some (level, stamp, since) → since + s.rd (pfF j.val 0 6 2) ≤ s.elapsed →
      s.rd (pfF j.val 0 31 31) = 1 → bit (s.rd (pfF j.val 0 1 0)) (if level then 0 else 1) = true →
      x.lastAt.all (fun l => decide (l + 16 ≤ since)) = true →
      s.rd (pfF j.val 0 30 30) = 0 → RingReady 9 h 32 s →
      Gives (.eventEdgeAccept j) s (fun t => (t.tim.pf[pfIx j]).cand = none ∧ (t.tim.pf[pfIx j]).acc = level
        ∧ (t.tim.pf[pfIx j]).lastAt = some since ∧ Recorded h 32 s t ∧ SameMemBut (recordAt h s) 32 s t
        ∧ SameRegsBut (recordMarks h s) s t ∧ t.cox = s.cox))

/-- A calibrated delay line goes into service with its table; one of which a tap is not 3 to 20 ps wide stays out, the other serves on
with its table, and CAL_FAIL holds (R345). -/
def Piece.DelayLineCalibration : Prop :=
  ∀ (j : Fin 33) (cal : LineCal) (s : State),
    let others (t : State) : Prop := (∀ i, i ≠ j → t.tim.pf[i] = s.tim.pf[i]) ∧ Keeps (at_ .timPf 4 :: faultMarks .timPf) s t
    (calPasses cal = true → Gives (.delayLineSwap j cal) s (fun t => (t.tim.pf[j]).line = !(s.tim.pf[j]).line
      ∧ lineTab t j = calTable cal ∧ others t))
    ∧ (calPasses cal = false → Gives (.delayLineSwap j cal) s (fun t => (t.tim.pf[j]).line = (s.tim.pf[j]).line
      ∧ lineTab t j = lineTab s j ∧ t.rdBit (fLive .timPf) 0 = true ∧ others t))

/-- The trip commands and TIME's (R350): an edge is armed by its owner at least 48 cycles ahead, and cancelled unless committed; the
code says what came of it. -/
def Piece.TripEdgesAreArmedAndCancelled : Prop :=
  ∀ (m : Master) (n : Fin 16) (level : Bool) (s : State),
    let x := s.tim.trips[n]
    let said (c : Nat) (t : State) : Prop := t.rd (tripF n 0x14 7 0) = c ∧ (∀ i, i ≠ n → t.tim.trips[i] = s.tim.trips[i])
      ∧ Keeps [at_ .timTrip (32 * n.val + 0x14)] s t
    (tripOwner s n ≠ 5 → Gives (.tripCmdArm m n level) s (fun t => said taNotAssigned t ∧ t.tim.trips[n] = x)
      ∧ Gives (.tripCmdCancel m n) s (fun t => said tcNotAssigned t ∧ t.tim.trips[n] = x))
    ∧ (tripOwner s n = 5 → x.armed.isSome = true → Gives (.tripCmdArm m n level) s (fun t => said taBusy t ∧ t.tim.trips[n] = x))
    ∧ (tripOwner s n = 5 → x.armed = none → cyclesAhead s (tripAt s n) 48 = false →
      Gives (.tripCmdArm m n level) s (fun t => said taPast t ∧ t.tim.trips[n] = x))
    ∧ (tripOwner s n = 5 → x.armed = none → cyclesAhead s (tripAt s n) 48 = true →
      Gives (.tripCmdArm m n level) s (fun t => said taArmed t ∧ (t.tim.trips[n]).armed = some ⟨tripAt s n, level, 0⟩
        ∧ (t.tim.trips[n]).committed = false))
    ∧ (tripOwner s n = 5 → x.armed = none → Gives (.tripCmdCancel m n) s (fun t => said tcNone t ∧ t.tim.trips[n] = x))
    ∧ (∀ (e : TripAt), tripOwner s n = 5 → x.armed = some e → (x.committed = true ∨ cyclesAhead s e.at_ 32 = false) →
      Gives (.tripCmdCancel m n) s (fun t => said tcTooLate t ∧ t.tim.trips[n] = x))
    ∧ (∀ (e : TripAt), tripOwner s n = 5 → x.armed = some e → x.committed = false → cyclesAhead s e.at_ 32 = true →
      Gives (.tripCmdCancel m n) s (fun t => said tcCancelled t ∧ (t.tim.trips[n]).armed = none))

/-- An armed edge is committed 32 cycles before its instant and drives the output's level at it (R350, R351). -/
def Piece.TripEdgesAreCommittedAndDriven : Prop :=
  ∀ (n : Fin 16) (e : TripAt) (s : State),
    let x := s.tim.trips[n]
    x.armed = some e → x.due = [] →
    (within_ s e.at_ 32 = true → Gives (.tripCommit n) s (fun t => (t.tim.trips[n]).committed = true
      ∧ (t.tim.trips[n]).armed = some e ∧ Keeps [] s t))
    ∧ (within_ s e.at_ 1 = true → x.grid ≠ some (gridPoint s e.at_) → (x.last.all (fun l => decide (l + 8 ≤ gridPoint s e.at_)) = true) →
      padHeld s 114 = false →
      Gives (.tripEdge n) s (fun t => tripLevel t n = e.level ∧ (t.tim.trips[n]).pin = e.level ∧ (t.tim.trips[n]).armed = none
        ∧ (t.tim.trips[n]).last = some (gridPoint s e.at_) ∧ Keeps [at_ .timTrip (32 * n.val)] s t))

/-- Slot commands (R355, R360): READ copies the slot into DATA; WRITE makes DATA the slot's words 0 to 9, refuses reserved words with
status 1 and a one-shot window that is not 64 cycles ahead with status 2. -/
def Piece.SlotCommands : Prop :=
  ∀ (m : Master) (s : State),
    let k := regSlot s
    let d := (List.range 16).map (fun i => s.rd (F32 .timReg (0x40 + 4 * i)))
    let data := (List.range 16).map (fun i => at_ .timReg (0x40 + 4 * i))
    let refused (c : Nat) (t : State) : Prop := t.rd (F .timReg 4 3 2) = c ∧ t.tim = s.tim ∧ Keeps [at_ .timReg 4] s t
    blkOpen s .timReg = true →
    Gives (.slotRead m) s (fun t => (∀ i, i < 16 → t.rd (F32 .timReg (0x40 + 4 * i)) = wordAt (slotWords s k) i % 2 ^ 32)
      ∧ t.rd (F .timReg 4 3 2) = 0 ∧ t.tim = s.tim ∧ Keeps (at_ .timReg 4 :: data) s t)
    ∧ (slotReserved d = true → Gives (.slotWrite m) s (refused 1))
    ∧ (slotReserved d = false → swEn d = true → swPeriodic d = false → cyclesAhead s (swCatch d) 64 = false →
      Gives (.slotWrite m) s (refused 2))
    ∧ (slotReserved d = false → (swEn d = false ∨ cyclesAhead s (swCatch d) 64 = true) →
      Gives (.slotWrite m) s (fun t => t.rd (F .timReg 4 3 2) = 0 ∧ (slotWords t k).take 3 = d.take 3
        ∧ ((slotWords t k).drop 6).take 4 = (d.drop 6).take 4 ∧ (swPeriodic d = false → (slotWords t k).take 10 = d.take 10)
        ∧ (∀ i, i ≠ k → slotWords t i = slotWords s i)
        ∧ Keeps (at_ .timReg 4 :: (List.range 4).map (fun n => at_ (shBlk n) 0)) s t))

/-- No edge of an instant comes before a window's edge (R358). -/
def FirstOfItsInstant (s : State) (t : Nat) (e : Passed) : Prop :=
  (slotEdges s (· == t)).all (fun f => !edgeBefore f (t, e)) = true

/-- A window opens at its catch and closes at its finish (R356): one with no actions, of whose instant no edge comes before it; its
instance number and OPEN in the slot. -/
def Piece.WindowsOpenAndClose : Prop :=
  ∀ (slot : BitVec 14) (s : State),
    let k := slot.toNat
    let w := slotWords s k
    let r := slotRun s k
    timeOn s = true → w.length = 16 →
    (catchDue s k = true → reached s (swCatch w) = true → actOf (wordAt w 1) = 0 → actOf (wordAt w 2) = 0 →
      FirstOfItsInstant s (swCatch w) (.catch_ k) →
      Gives (.catchEdge slot) s (fun t => (slotRun t k).opens = r.opens ++
          [⟨swCatch w, swCatch w + swDur w, wordAt w 2, swWakeSet w, r.next, false, !swPeriodic w⟩]
        ∧ (slotRun t k).next = (r.next + 1) % 2 ^ 64 ∧ bit (wordAt (slotWords t k) 12) 31 = true
        ∧ wordAt (slotWords t k) 10 = r.next % 2 ^ 32
        ∧ (swPeriodic w = true → ∀ i, 3 ≤ i → i < 6 → wordAt (slotWords t k) i = stamp96 (swCatch w + swPer w) / 2 ^ (32 * (i - 3)) % 2 ^ 32)
        ∧ Keeps [] s t))
    ∧ (∀ (o : OpenInst), r.opens = [o] → reached s o.finish = true → actOf o.act = 0 → actOf (wordAt w 1) = 0 →
      FirstOfItsInstant s o.finish (.finish k o) →
      Gives (.finishEdge slot) s (fun t => (slotRun t k).opens = [] ∧ (slotRun t k).closed = some o
        ∧ bit (wordAt (slotWords t k) 12) 31 = false ∧ (o.oneShot = true → swEn (slotWords t k) = false) ∧ Keeps [] s t))

/-- Before an edge (R359, R362): the pre-wake of a WAKE catch, served in time, wakes its set's domains and keeps them; a TRIP catch within its
hand-over distance is given to an output that the regatta table owns. -/
def Piece.PreWakeAndHandover : Prop :=
  ∀ (slot : BitVec 14) (s : State),
    let k := slot.toNat
    let w := slotWords s k
    let r := slotRun s k
    timeOn s = true → swEn w = true →
    (r.woke = false → r.passed = false → actOf (wordAt w 1) = 2 → reached s (swCatch w - swLead w * 65536) = true →
      passedBy s (swCatch w - swLead w * 65536) 64 = false ∨ r.soon = true →
      Gives (.preWake slot) s (fun t => (slotRun t k).woke = true
        ∧ (∀ d ∈ wakeSet s (swWakeSet w), (d, k) ∈ t.dom.kept ∧ (domForce s d = 0 → domState s d ∈ [1, 2, 3] → domState t d = 4))
        ∧ Keeps ((wakeSet s (swWakeSet w)).map (fun d => at_ .pwrDom (16 * d + 0xC))) s t))
    ∧ (∀ (n : Fin 16), r.opens = [] → r.handed = false → r.passed = false → actOf (wordAt w 1) = 3 → bits (wordAt w 1) 3 0 = n.val → tripOwner s n = 4 →
      (s.mode = modeHoldWater → s.rd (tripF n 0 5 5) ≠ 1) → within_ s (swCatch w) 128 = true → cyclesAhead s (swCatch w) 64 = true →
      Gives (.precommitHandover slot) s (fun t => (slotRun t k).handed = true
        ∧ (t.tim.trips[n]).due = (s.tim.trips[n]).due ++ [⟨swCatch w, bit (wordAt w 1) 4, edgeRank true k⟩] ∧ Keeps [] s t))

/-- The interrupt queue of the regatta table gives its oldest slot and loses it (R361); a timer's expiry is recorded, and the timer
moves on by its period or stops (R366). -/
def Piece.IrqQueueAndTimers : Prop :=
  (∀ (m : Master) (c : CoxId) (k : Nat) (q : List Nat) (s : State), blkOpen s .timReg = true → s.tim.irqq[c] = k :: q → k < 2 ^ 14 →
    Gives (.irqqPop m c) s (fun t => t.tim.irqq[c] = q
      ∧ t.replies[m] = ⟨0, leBytes 4 (2 ^ 31 + s.rd (F .timReg (0x800 + 4 * c.val) 23 16) * 2 ^ 16 + k)⟩ ∧ Keeps [] s t))
  ∧ ∀ (idx : BitVec 15) (s : State),
    let e := entryAt s idx.toNat
    let at' := timerAt e
    let p := timerPeriod e
    timeOn s = true → timerOn e = true → reached s at' = true → e.words.length = 7 → RingReady 9 (e.word 6) 32 s →
    Gives (.timerExpiry idx) s (fun t => Recorded (e.word 6) 32 s t ∧ SameMemBut (recordAt (e.word 6) s) 32 s t
      ∧ SameRegsBut (recordMarks (e.word 6) s) s t ∧ t.cox = s.cox
      ∧ (p = 0 → timerOn (entryAt t idx.toNat) = false)
      ∧ (p ≠ 0 → at' % (65536 * 1000000000 * 2 ^ 48) = at' → now16 s < tbTop / 2 ^ 32 - p →
          timerAt (entryAt t idx.toNat) = at' + ((now16 s - at') / p + 1) * p ∧ timerOn (entryAt t idx.toNat) = true))

/-! ### Signal ingest and network ports -/

/-- Links of the signal ingest come up state by state (R368, R369), align and re-anchor on SYSREF (R370, R371), drop on the loss of
lock, and keep the multiblocks whose CRC failed (R375). A SYSREF edge aligns the links in EMB_LOCK; it re-anchors a link in periodic
mode where it falls on a boundary of that link. That boundaries lie so many instants apart, that a SYSREF edge carries the boundary's
number, and that the CRC is checked once a link has locked to its sync headers are the model's choices (log entry 64), as is that an
event that cannot come in a state changes nothing (log entry 12). -/
def Piece.IngestLinksComeUpAndAlign : Prop :=
  ∀ (m : Master) (k : Fin 4) (v : W32) (tap : BitVec 6) (bounds : Vector (Option Nat) 4) (lane : Fin 8) (mb : Nat) (s : State),
    let cfg := plain32 (.ingLink k) 0 (setBit v.toNat 31 false) s
    let l := s.io.links[k]
    let others (t : State) : Prop := ∀ j, j ≠ k → t.io.links[j] = s.io.links[j]
    let st := at_ (.ingLink k) 0x02C
    let marks := [at_ (.ingLink k) 0, st, errReg (.ingLink k)] ++ faultMarks (.ingLink k)
    let lanes := (List.range 4).flatMap (fun q => [at_ .pwrDom (16 * (107 + q)), at_ .pwrDom (16 * (107 + q) + 0xC)])
    let stamp := tapStamp s (lineTab s 32) tap.toNat
    (blkOpen s (.ingLink k) = true → lkEn s k = false → v.getLsbD 31 = true → lkLegal cfg k = true →
      Gives (.linkEnable m k v) s (fun t => lkEn t k = true ∧ t.rd (lkState k) = 1 ∧ t.io.links[k] = freshLink ∧ others t
        ∧ Keeps (marks ++ lanes) s t))
    ∧ (blkOpen s (.ingLink k) = true → lkEn s k = false → v.getLsbD 31 = true → lkLegal cfg k = false →
      Gives (.linkEnable m k v) s (fun t => lkEn t k = false ∧ ErrSet (.ingLink k) t ∧ t.io = s.io ∧ Keeps marks s t))
    ∧ (blkOpen s (.ingLink k) = true → lkEn s k = true → v.getLsbD 31 = false →
      Gives (.linkEnable m k v) s (fun t => lkEn t k = false ∧ t.rd (lkState k) = 0 ∧ t.io = s.io ∧ Keeps marks s t))
    ∧ (lkEn s k = true → lkPads s k = true → s.rd (lkState k) = 1 →
      Gives (.syncHeaderLock k) s (fun t => t.rd (lkState k) = 2 ∧ t.io = s.io ∧ Keeps [st] s t))
    ∧ (lkEn s k = true → lkPads s k = true → s.rd (lkState k) = 2 →
      Gives (.embLock k) s (fun t => t.rd (lkState k) = 3 ∧ t.io = s.io ∧ Keeps [st] s t))
    ∧ (lkEn s k = true → (∀ j, j ≠ k → lkEn s j = false) →
      (s.rd (lkState k) = 3 → Gives (.sysrefEdge ⟨tap, bounds⟩) s (fun t => t.rd (lkState k) = 4
        ∧ (t.io.links[k]).anchor = stamp ∧ (t.io.links[k]).anchorAt = 0 ∧ (t.io.links[k]).inst = 0 ∧ others t
        ∧ Keeps [st] s t))
      ∧ (∀ (n : Nat), bounds[k] = some n → 4 ≤ s.rd (lkState k) → s.rd (lkF k 0 29 29) = 1 →
        Gives (.sysrefEdge ⟨tap, bounds⟩) s (fun t => (t.io.links[k]).anchor = stamp ∧ (t.io.links[k]).anchors = (l.anchor, l.anchorAt) :: l.anchors
          ∧ (t.io.links[k]).anchorAt = l.anchorAt + n * lemcInstants s k / max 1 (lkF8 s k)
          ∧ others t ∧ Keeps (at_ (.ingLink k) 0x020 :: faultMarks (.ingLink k)) s t)))
    ∧ (lkEn s k = true → lkPads s k = true → s.rd (lkState k) = 4 →
      Gives (.rbdRelease k) s (fun t => t.rd (lkState k) = 5 ∧ t.io.links[k] = { l with ran := true, up := true } ∧ others t
        ∧ t.rdBit (fLive (.ingLink k)) 0 = false ∧ Keeps marks s t))
    ∧ (3 ≤ s.rd (lkState k) →
      Gives (.syncHeaderLoss k) s (fun t => t.rd (lkState k) = 1 ∧ t.io.links[k] = { l with down := l.ran } ∧ others t
        ∧ t.rdBit (fLive (.ingLink k)) 0 = true ∧ Keeps marks s t))
    ∧ (lkEn s k = true → 2 ≤ s.rd (lkState k) → lane.val < lkL s k →
      Gives (.multiblockCrcCheck k lane mb false) s (fun t => t.rd (F32 (.ingLink k) 0x030) = (s.rd (F32 (.ingLink k) 0x030) + 1) % 2 ^ 32
        ∧ t.io.links[k] = { l with failed := l.failed ++ [(lane.val, mb)] } ∧ others t ∧ Keeps [at_ (.ingLink k) 0x030] s t))
    ∧ Gives (.multiblockCrcCheck k lane mb true) s (fun t => t = s)

/-- A batch of a link closes (R372, R373, R376): a record that carries the samples, instant by instant, joins its ring; a closed gate
drops and counts it; either way the batch number and the instant advance. Which batches a SYSREF re-anchoring stamps anew, and how a
batch is filled in a record, follow log entries 23 and 64 where the spec leaves them open: the model's choice. -/
def Piece.BatchesAreRecordedOrGatedOut : Prop :=
  ∀ (k : Fin 4) (samples : List Int) (s : State),
    let l := s.io.links[k]
    let h := s.rd (lkF k 0xC 31 0)
    let n := lkInst s k * lkM s k
    let stamp := instStamp s k l.inst
    let advanced (t : State) : Prop := (t.io.links[k]).batch = l.batch + 1 ∧ (t.io.links[k]).inst = l.inst + lkInst s k
      ∧ ∀ j, j ≠ k → t.io.links[j] = s.io.links[j]
    lkEn s k = true → l.ran = true → samples.length = n →
    (s.rd (lkF k 0 30 30) = 1 → gateOpen s k stamp = false →
      Gives (.batchClose k (samples.map some)) s (fun t => t.rd (F32 (.ingLink k) 0x038) = (s.rd (F32 (.ingLink k) 0x038) + 1) % 2 ^ 32
        ∧ advanced t ∧ t.stk = s.stk ∧ Keeps [at_ (.ingLink k) 0x038] s t))
    ∧ (s.rd (lkF k 0 30 30) = 0 → l.up = true → s.rd (lkF k 8 1 1) = 0 → s.rd (lkF k 8 2 2) = 0 → s.rd (lkF k 8 4 3) = 0 →
      linkBuffered s k + batchLen s k ≤ 65536 → domState s 100 = 0 → ∀ (g : Ring), checkHandle s kRing h = 0 → nget (ringNo s h) s.stk.rings = some g →
      roundUp (batchLen s k) 32 ≤ ringSpace s (ringNo s h) g →
      Gives (.batchClose k (samples.map some)) s (fun t => advanced t
        ∧ (∃ g', nget (ringNo s h) t.stk.rings = some g' ∧ ∃ x, g'.recs = g.recs ++ [x] ∧ x.start = g.allocEnd ∧ x.bytes.getD 6 0 = 0x10
          ∧ x.bytes.length = roundUp (batchLen s k) 32
          ∧ ∀ i, i < samples.length → leNat ((x.bytes.drop (32 + i * lkZ s k)).take (lkZ s k))
              = wrap (8 * lkZ s k) (sgn (lkN s k) (wrap (lkN s k) (samples.getD i 0))))
        ∧ Keeps [ringReg (ringNo s h) 0x18, ringReg (ringNo s h) 0x1C] s t))

/-- A received frame (R378, R379, R382): one with a bad FCS, too short or too long is counted and lost; a good one outside
redundancy goes whole, without its FCS, to the ring of its lowest matching filter, or to the port's default ring. Which octets of the
frame the record holds is the model's reading (log entry 24). -/
def Piece.ReceivedFrames : Prop :=
  ∀ (p : Fin 4) (f check : List Byte) (s : State),
    let counts (i : Nat) : Nat := at_ (.netPort p) (0x040 + 4 * i)
    let counted (i : Nat) (t : State) : Prop := t.rd (F32 (.netPort p) (0x040 + 4 * i)) = (s.rd (F32 (.netPort p) (0x040 + 4 * i)) + 1) % 2 ^ 32
    let n := f.length + 4
    ptUp s p = true → padHeld s (103 + p.val) = false → domState s (103 + p.val) = 0 → quietNow s = false →
    .netPort p ∉ s.flt.underTest → check.length = 4 →
    (check ≠ fcs f → Gives (.frameReceive p (f ++ check)) s (fun t => counted 1 t ∧ Keeps [counts 1] s t))
    ∧ (check = fcs f → n < 64 → Gives (.frameReceive p (f ++ check)) s (fun t => counted 2 t ∧ Keeps [counts 2] s t))
    ∧ (check = fcs f → 64 ≤ n → maxLen s p < n → Gives (.frameReceive p (f ++ check)) s (fun t => counted 3 t ∧ Keeps [counts 3] s t))
    ∧ (∀ (ring : Nat), check = fcs f → 64 ≤ n → n ≤ maxLen s p → pairMode s p = 0 → vlanLen f = 0 → etherAt f ≠ 0x8808 →
      isIec (etherAt f) = false → ring ≠ 0 →
      (match matchFilter s p (etherAt f) (be16 (f.drop 14) 0) 0 with
        | some (_, _, e) => bit (e.word 5) 0 = false ∧ ring = e.word 4
        | none => ring = s.rd (ptF p 4 31 0)) →
      RingReady 10 ring (roundUp (32 + f.length) 32) s →
      Gives (.frameReceive p (f ++ check)) s (fun t => counted 0 t ∧ memBytes t (recordAt ring s + 32) f.length = f
        ∧ memByte t (recordAt ring s + 6) = 0x18 ∧ Recorded ring (roundUp (32 + f.length) 32) s t
        ∧ SameMemBut (recordAt ring s) (roundUp (32 + f.length) 32) s t
        ∧ SameRegsBut (counts 0 :: recordMarks ring s) s t ∧ t.cox = s.cox))

/-- A port's link (R377), the forwarding of a frame around an HSR ring and the ageing of duplicates (R385). That a forwarded frame
waits for a free line and the guard of R390 is the model's choice (notes/assumptions/65.md). -/
def Piece.LinksForwardingAndDuplicates : Prop :=
  ∀ (p : Fin 4) (speed : BitVec 2) (s : State),
    (ptEn s p = true → domState s (103 + p.val) = 0 → padHeld s (103 + p.val) = false →
      Gives (.portLinkChange p true speed) s (fun t => ptUp t p = true ∧ t.rdBit (fLive (.netPort p)) 0 = false
        ∧ Keeps (at_ (.netPort p) 0x028 :: faultMarks (.netPort p)) s t))
    ∧ (ptUp s p = true → Gives (.portLinkChange p false speed) s (fun t => ptUp t p = false ∧ t.rdBit (fLive (.netPort p)) 0 = true
        ∧ Keeps ([at_ (.netPort p) 0x028, at_ (.netPort p) 0x074] ++ faultMarks (.netPort p)) s t))
    ∧ (∀ (f : List Byte) (rx : Nat) (rest : List (List Byte × Nat)), (s.io.ports[p]).fwd = (f, rx) :: rest → be16 f (12 + vlanLen f) = 0x892F → be16 f (18 + vlanLen f) ≠ 0x88F7 →
      portHeld s (otherPort p) = false → .netPort (otherPort p) ∉ s.flt.underTest → quietNow s = false → lineFree s (otherPort p) = true →
      guarded s (otherPort p) f.length = false → ptUp s (otherPort p) = true →
      Gives (.hsrForward p) s (fun t => t.out = .frame (otherPort p).val (f ++ fcs f) :: s.out ∧ (t.io.ports[p]).fwd = rest
        ∧ Keeps [at_ (.netPort (otherPort p)) 0x064] s t))
    ∧ (∀ (pr : Fin 2) (x : Seen) (l : List Seen), s.io.seen[pr] = x :: l →
      (600000000 ≤ s.elapsed - x.at_ → Gives (.dupEntryAgeout pr) s (fun t => t.io.seen[pr] = l ∧ Keeps [] s t))
      ∧ (s.elapsed - x.at_ < 600000000 → Gives (.dupEntryAgeout pr) s (fun t => t = s)))

/-- Transmission (R387, R388, R390): a port takes the record at the head of its normal queue, sends its frame and releases it; at a
TRANSMIT instant it does the same with its scheduled queue, from that instant on. The port is outside redundancy, the record is
well formed, lies in open memory and asks for nothing but its transmission. -/
def Obligations.FramesAreTransmitted : Prop :=
  ∀ (p : Fin 4) (r : Nat) (s : State),
    let cons := s.reg (ringReg r 0x14)
    let a := ringAddr s r cons
    let len := leNat (memBytes s (a + 4) 2)
    let frame := memBytes s (a + 32) (len - 32)
    let sent (t : State) : Prop := t.out.head? = some (.frame p.val (frame ++ fcs frame))
      ∧ t.rd (F32 (.netPort p) 0x064) = (s.rd (F32 (.netPort p) 0x064) + 1) % 2 ^ 32
      ∧ t.reg (ringReg r 0x14) = (cons + roundUp len 32) % 2 ^ 32
      ∧ Keeps ([at_ (.netPort p) 0x064, ringReg r 0x14, ringReg r 0x1C] ++ notifyMarks r) s t
    ptUp s p = true → pairMode s p = 0 → portHeld s p = false → quietNow s = false → .netPort p ∉ s.flt.underTest →
    len % 65536 = len → 92 ≤ len → len ≤ 28 + maxLen s p → roundUp len 32 ≤ occupancy s r → a + len ≤ s.reg (ringReg r 0) + ringSize s r →
    Open 10 a len s → leNat (memBytes s (a + 6) 2) = 0 → memBytes s (a + 20) 12 = List.replicate 12 0 →
    (queueRing s p 0x008 = some r → lineFree s p = true → guarded s p (len - 32) = false → Gives (.txRequest p) s sent)
    ∧ (∀ (at' : Nat) (rest : List Nat), queueRing s p 0x00C = some r → (s.io.ports[p]).due = at' :: rest → (s.io.ports[p]).busy ≤ at' →
      Gives (.scheduledTransmit p) s sent)


/-! ### Power -/

/-- REQ's status and PWR_CTL_MODE. -/
def modeStatus (t : State) : Nat := t.rd (F .pwrCtl 0 10 8)

/-- No job waits in the pool or on a shell's stack. -/
def NoWaitingJobs (s : State) : Prop := s.vec.pool = [] ∧ ∀ n, (run s n).stack = []

/-- Mode requests (R406, R407, R416, R418, R419): who accepts, refuses and times out, and what the mode becomes; only jobs that end
write to memory. The model's choices: BUSY and NOT_ALLOWED where causes and requests meet, and the quiet state that a time-out ends (log
entry 45); MODE reads 5 once the cores are in WAIT and no work is left (log entry 69). -/
def Obligations.ModeRequests : Prop :=
  ∀ (m : Master) (s : State),
    let idle : Prop := s.pow.req = none ∧ (s.mode = modePaddle ∨ s.mode = modeRace)
    let calm : Prop := ∀ n, n < 4 → s.rd (shState n) ≤ stIdle
    let still : Prop := ∀ e, e < 16 → s.rd (F .movMvr (0x100 + 4 * e) 31 31) ≠ 1
    let quietFrame (t : State) : Prop := t.cox = s.cox ∧ (NoWaitingJobs s → SameMem s t)
    (idle → calm → still → Gives (.boathouse (.request m)) s (fun t => t.pow.req = some 1 ∧ t.rd (F .pwrCtl 0 31 31) = 1
      ∧ t.mode = s.mode ∧ Keeps [at_ .pwrCtl 0] s t))
    ∧ (idle → (∃ n, n < 4 ∧ stIdle < s.rd (shState n)) → Gives (.boathouse (.request m)) s (fun t => modeStatus t = 2
      ∧ t.pow.req = none ∧ t.mode = s.mode ∧ Keeps [at_ .pwrCtl 0] s t))
    ∧ (s.pow.req.isSome = true → ∀ i ∈ [Instr.boathouse (.request m), .paddle (.request m), .easyAll (.request m), .holdWater (.request m)],
      Gives i s (fun t => modeStatus t = 1 ∧ t.pow = s.pow ∧ Keeps [at_ .pwrCtl 0] s t))
    ∧ (s.pow.req = none → s.pow.hwEntry = false → s.mode = modeHoldWater → s.rd (F .pwrCtl 8 2 0) = 0 → tjNow s < (tjThrot s : Int) - 3 →
      Gives (.paddle (.request m)) s (fun t => t.mode = modePaddle ∧ modeStatus t = 0 ∧ SameMem s t ∧ t.cox = s.cox ∧ t.stk = s.stk
        ∧ SameRegsBut ([at_ .pwrCtl 0, at_ .pwrDvfs 4] ++ (List.range 4).map (fun n => at_ (shBlk n) 0)) s t))
    ∧ (s.pow.req = none → s.pow.hwEntry = false → s.mode = modeHoldWater →
      (s.rd (F .pwrCtl 8 2 0) ≠ 0 ∨ (tjThrot s : Int) - 3 ≤ tjNow s) →
      Gives (.paddle (.request m)) s (fun t => t.mode = modeHoldWater ∧ modeStatus t = 5 ∧ Keeps [at_ .pwrCtl 0] s t))
    ∧ (s.pow.req = none → s.mode = modePaddle ∨ s.mode = modeRace ∨ s.mode = modeHoldWater →
      Gives (.easyAll (.request m)) s (fun t => t.pow.req = some 3 ∧ (t.mode = s.mode ∨ (t.mode = modeEasyAll ∧ allWait s = true))
        ∧ (allWait s = true → workEnded s = true → NoWaitingJobs s → s.cus.flying = none → flashTaken s = false → padHeld s 117 = false →
          t.mode = modeEasyAll)
        ∧ quietFrame t))
    ∧ (idle → Gives (.holdWater (.request m)) s (fun t => t.mode = modeHoldWater ∧ t.rdBit (F32 .pwrCtl 8) 1 = true
        ∧ (∀ n : Fin 16, s.rd (tripF n 0 5 5) = 1 → (t.tim.trips[n]).armed = none ∧ (t.tim.trips[n]).due = []) ∧ quietFrame t))
    ∧ ((s.pow.req = some 1 ∨ s.pow.req = some 3) → s.mode ≠ modeEasyAll → allWait s = false →
      Gives .modeRequestTimeout s (fun t => t.pow.req = none ∧ modeStatus t = 3 ∧ t.pow.quiet = false ∧ t.mode = s.mode
        ∧ Keeps [at_ .pwrCtl 0] s t))

/-- A wake source of a number may wake the device: it sleeps, no wake is under way, and the source is enabled (R411, R414). -/
def mayWake (s : State) (i : Nat) : Bool := s.mode == modeBoathouse && s.pow.wake.isNone && bit (s.rd (F32 .pwrAon 0)) i

/-- Boathouse (R405, R408, R409, R411 to R415, R488, R511): the entry, whose cores hold no unfinished work, stops every core and powers
the domains down; an enabled source begins a wake, which raises the rails one after the other and ends in Paddle or Race when the last is
good and the clock is there; a component that is late is restarted once, and a regulator that is late again ends the wake and drives the
umpire pair to fault. A source that asserts while the entry is under way is latched for it. -/
def Obligations.BoathouseAndWake : Prop :=
  ∀ (w : WakeIn) (j : Fin 8) (s : State),
    let woken (source input : Nat) (t : State) : Prop := t.rd (recF 19 16) = source ∧ t.rd (recF 2 0) = input ∧ t.mode = modeBoathouse
      ∧ t.pow.wake = some ⟨source, input, w, (if w.osc then [] else [(.osc, false)]) ++ [(.vreg, false)]⟩
      ∧ t.pow.railEn = 1 ∧ t.pow.railGood = 0 ∧ Keeps [at_ .pwrAon 4, at_ .pwrAon 8] s t
    (entryDue s = true → s.pow.latched = none → (∀ c, (core s c).sb = [] ∧ (core s c).dcache = [] ∧ nget c.val s.stk.coxCmd = none) →
      Gives .boathouseEntry s (fun t => t.mode = modeBoathouse ∧ t.pow.req = none ∧ modeStatus t = 0 ∧ t.pow.railEn = 0
        ∧ (∀ c, (core t c).on = false) ∧ ∀ d, d < 120 → domState t d = sleepStage s d))
    ∧ (mayWake s 0 = true → s.rd (F .pwrAon 0x010 47 0) ≤ ticksNow s + w.ticks → Gives (.wakeTimer w) s (woken 1 0))
    ∧ (mayWake s 1 = true → wakeFrame s w.frame = true → within 1 2 (s.rd (ptF 0 0 1 0)) = true → Gives (.wakeEth w) s (woken 2 0))
    ∧ (mayWake s 2 = true → Gives (.wakePcie w) s (woken 3 0))
    ∧ (mayWake s 3 = true → s.pow.pfailSleep = true → s.pow.pfail = false → Gives (.wakeSupply w) s (woken 4 0))
    ∧ (∀ (n : Nat), mayWake s 4 = true → s.pow.windowTick = some n → n ≤ ticksNow s + w.ticks → Gives (.wakeWindow w) s (woken 5 0))
    ∧ (mayWake s (16 + j.val) = true → Gives (.wakeEvtin j w) s (woken 6 j.val))
    ∧ (bit (s.rd (F32 .pwrAon 0)) (16 + j.val) = true → s.mode ≠ modeBoathouse → sleepComes s = true → s.pow.latched = none →
      Gives (.wakeEvtin j w) s (fun t => t.pow = { s.pow with latched := some (6, j.val, w) } ∧ Keeps [] s t))
    ∧ (mayWake s (24 + j.val) = true → irqAsserted s j = true → Gives (.wakeIrqin j w) s (woken 7 j.val))
    ∧ (∀ (r : WakeRun), s.pow.wake = some r → r.waits = [(.osc, false)] → Gives (.wakeTimeout .osc false) s (fun t => t.rd (recF 28 28) = 1
        ∧ t.pow.wake = some { r with waits := [(.osc, true)] } ∧ Keeps [at_ .pwrAon 4] s t))
    ∧ (∀ (r : WakeRun), s.pow.wake = some r → r.waits = [(.vreg, true)] → s.rd (recF 31 29) < 2 →
      Gives (.wakeTimeout .vreg false) s (fun t => t.rd (recF 31 29) = s.rd (recF 31 29) + 1 ∧ t.rd (recF 25 25) = 1
        ∧ t.pow.wake = none ∧ t.pow.railEn = 0 ∧ t.mode = s.mode ∧ t.flt.pairFault = true ∧ Keeps (at_ .pwrAon 4 :: faultMarks .pwrAon) s t))
    ∧ (∀ (r : WakeRun) (i : Fin 4), s.pow.wake = some r → bit s.pow.railEn i.val = true → bit s.pow.railGood i.val = false → i.val < 3 →
      setBit s.pow.railGood i.val true ≠ 15 →
      Gives (.railGood i) s (fun t => t.pow.railEn = setBit s.pow.railEn (i.val + 1) true ∧ t.pow.railGood = setBit s.pow.railGood i.val true
        ∧ t.pow.wake = some r ∧ t.mode = s.mode ∧ Keeps [] s t))
    ∧ (∀ (r : WakeRun), s.pow.wake = some r → r.waits = [(.vreg, false)] → r.found.vreg = true → s.pow.railEn = 15 → s.pow.railGood = 7 →
      s.held = [] → Gives (.railGood 3) s (fun t => (t.mode = modePaddle ∨ t.mode = modeRace) ∧ t.pow.wake = none ∧ t.pow.railGood = 15))

/-- Power domains (R421, R423, R424, R426): the idle timer's stages, FORCE, WAKE, the two chances of a wake, and RELEASE. No
transaction waits behind another of its ID (R394); where a hold opens or a domain runs again, none waits at all. -/
def Obligations.PowerDomains : Prop :=
  ∀ (m : Master) (d : DomId) (v : W32) (s : State),
    let ctl := at_ .pwrDom (16 * d.val)
    let stat := at_ .pwrDom (16 * d.val + 0xC)
    let f := bits v.toNat 1 0
    let calm : Prop := s.held = [] ∧ s.host.xspi = none ∧ custodyReady s = false
    (∀ h ∈ s.held, h.why ≠ .order) →
    (∀ (n : Nat), domForce s d.val = 0 → domBusy s d.val = false → (∀ p ∈ s.dom.kept, p.1 ≠ d.val) → nextStage s d.val = some n →
      Gives (.domainIdleStage d) s (fun t => domState t d.val = n
        ∧ Keeps ([ctl, stat] ++ (List.range 4).map (fun n => at_ (shBlk n) 0)) s t))
    ∧ (bit v.toNat 4 = false → bit v.toNat 6 = false → f = 3 ∨ (f = 2 ∧ neverOff d.val = true) →
      Gives (.domainForce m d v) s (fun t => ErrSet .pwrDom t ∧ domForce t d.val = domForce s d.val
        ∧ domState t d.val = domState s d.val ∧ Keeps [ctl, errReg .pwrDom] s t))
    ∧ (bit v.toNat 4 = false → bit v.toNat 6 = false → f = 2 → neverOff d.val = false → domForce s d.val ≠ 2 →
      Gives (.domainForce m d v) s (fun t => domForce t d.val = 2 ∧ domState t d.val = 3
        ∧ (∀ h ∈ t.held, h.why ≠ .domain d.val) ∧ Keeps ([ctl, stat] ++ (List.range 4).map (fun n => at_ (shBlk n) 0) ++ faultMarks .hstPcie) s t))
    ∧ (bit v.toNat 4 = false → bit v.toNat 6 = false → f = 1 → domForce s d.val ≠ 1 → domState s d.val ∈ [1, 2, 3] →
      Gives (.domainForce m d v) s (fun t => domForce t d.val = 1 ∧ domState t d.val = 4 ∧ Keeps [ctl, stat] s t))
    ∧ (domForce s d.val ≠ 2 → domState s d.val ∈ [1, 2, 3, 5] →
      Gives (.domainWakeWrite m d) s (fun t => domState t d.val = 4 ∧ Keeps [stat] s t))
    ∧ (domState s d.val = 4 → ngetD s.dom.from_ d.val 3 ≠ 3 → d.val ∉ s.dom.rel → d.val ∉ s.dom.byIdle → calm →
      Gives (.domainReady d) s (fun t => domState t d.val = 0 ∧ Keeps [stat] s t))
    ∧ (domState s d.val = 4 → d.val ∉ s.dom.tried →
      Gives (.domainWakeTimeout d) s (fun t => domState t d.val = 4 ∧ d.val ∈ t.dom.tried ∧ Keeps [] s t))
    ∧ (domState s d.val = 4 → d.val ∈ s.dom.tried → (∀ j ∈ s.vec.pool, j.past = true → d.val ∉ jobNeeds s j) →
      Gives (.domainWakeTimeout d) s (fun t => domState t d.val = 5 ∧ (∀ h ∈ t.held, h.why ≠ .domain d.val)
        ∧ Keeps (stat :: (faultMarks .pwrDom ++ faultMarks .hstPcie)) s t))
    ∧ (padHeld s d.val = true → domState s d.val = 0 → calm →
      Gives (.padRelease m d) s (fun t => padHeld t d.val = false ∧ Keeps [ctl] s t))
    ∧ (padHeld s d.val = true → domState s d.val ≠ 0 → calm →
      Gives (.padRelease m d) s (fun t => padHeld t d.val = true ∧ d.val ∈ t.dom.rel ∧ Keeps [] s t))

/-- The operating point (R428, R430 to R432, R520): a higher target first asks the regulator for the voltage, a lower one first switches
the frequency; no switch while a DET job runs; a voltage that is not confirmed ends the step, and CAPPED says when the target lies below
the request. The crystal's return lifts the cap of the RC oscillator. The order of the sequencer's steps is the model's choice where R430
leaves it open (log entry 46). -/
def Piece.OperatingPoints : Prop :=
  ∀ (m : Master) (v : W32) (s : State),
    let r := s.wr (dvF 0 2 0) (bits v.toNat 2 0)
    let tgt := dvfsTarget r
    let regs := [at_ .pwrDvfs 0, at_ .pwrDvfs 4]
    s.mode ≠ modeBoathouse → s.pow.hwEntry = false → s.pow.req ≠ some 3 →
    (s.pow.step = none → Gives (.dvfsRequest m v) s (fun t => t.rd (dvF 0 2 0) = bits v.toNat 2 0 ∧ t.rd (dvF 4 6 4) = tgt
      ∧ t.rd (dvF 4 28 28) = bnat (decide (tgt < bits v.toNat 2 0)) ∧ curOp t = curOp s ∧ voltOp t = voltOp s
      ∧ (curOp s = tgt → voltOp s = tgt → t.pow.step = none ∧ t.rd (dvF 4 31 31) = 0)
      ∧ (curOp s < tgt → voltOp s < tgt → t.pow.step = some tgt ∧ t.pow.volt = some tgt
        ∧ t.out = .regulator (.writeVoltage (vop s tgt)) :: s.out)
      ∧ (tgt < curOp s → t.pow.step = some tgt ∧ t.pow.volt = none) ∧ Keeps regs s t))
    ∧ (∀ (x : Nat), s.pow.step = some x → s.pow.volt = some x → curOp s < x → x < 8 → Gives .voltageConfirmed s (fun t => voltOp t = x
      ∧ t.pow.volt = none ∧ t.pow.step = some x ∧ curOp t = curOp s ∧ Keeps regs s t))
    ∧ (∀ (x : Nat), s.pow.step = some x → curOp s ≠ x → x < voltOp s → x < 8 → detJobs s = false →
      Gives .frequencySwitch s (fun t => curOp t = x ∧ t.pow.volt = some x ∧ t.rd (dvF 4 30 30) = 0
        ∧ (s.mode = modePaddle ∨ s.mode = modeRace → t.mode = (if 4 ≤ x then modeRace else modePaddle))
        ∧ Keeps (at_ .pwrCtl 0 :: regs) s t))
    ∧ (∀ (x : Nat), s.pow.step = some x → curOp s ≠ x → x ≤ voltOp s → detJobs s = true →
      Gives .frequencySwitch s (fun t => curOp t = curOp s ∧ t.rd (dvF 4 30 30) = 1 ∧ t.pow = s.pow ∧ Keeps regs s t))
    ∧ (s.pow.volt.isSome = true → curOp s ≤ dvfsTarget s → Gives .vregTimeout s (fun t => t.pow.step = none ∧ t.pow.volt = none
      ∧ t.rd (dvF 4 6 4) = curOp s ∧ curOp t = curOp s ∧ t.rd (dvF 4 31 29) = 0
      ∧ t.rd (dvF 4 28 28) = bnat (decide (curOp s < s.rd (dvF 0 2 0))) ∧ Keeps (regs ++ faultMarks .pwrDvfs) s t))
    ∧ (s.pow.volt = none → Gives .vregTimeout s (fun t => t.pow = s.pow ∧ t.flt.pairFault = s.flt.pairFault ∧ Keeps (faultMarks .pwrDvfs) s t))
    ∧ (s.pow.rc = true → Gives (.refretry m true) s (fun t => t.pow.rc = false ∧ Keeps regs s t))

/-- The monitors and the rating governor (R432 to R436). What the samples of the monitors do, and at what rating a shell starts and rises,
follows log entry 46 where the spec leaves it open: the model's choice. -/
def Piece.MonitorsAndRatings : Prop :=
  ∀ (k : Fin 8) (mv : Nat) (amps : BitVec 8) (sh : ShellId) (temps : Vector (BitVec 8) 8) (tj : Int) (s : State),
    let sensed := temps.toList.map BitVec.toInt
    let gov := at_ .pwrGov 4
    let capped := gov :: (List.range 4).map (fun n => at_ (shBlk n) 0)
    capNow s ≤ 8 →
    (tj ∈ sensed → (∀ x ∈ sensed, x ≤ tj) → tj < 125 →
      Gives (.thermalSample temps) s (fun t => tjNow t = tj ∧ t.mode = s.mode
        ∧ capNow t = (if (tjThrot s : Int) ≤ tj ∧ 1 < capNow s then capNow s - 1 else capNow s)
        ∧ t.rdBit (fLive .pwrGov) 0 = false ∧ Keeps (capped ++ faultMarks .pwrGov) s t))
    ∧ (tjNow s < (tjThrot s : Int) - 3 → capNow s < 8 → Gives .ratingCapRaise s (fun t => capNow t = capNow s + 1 ∧ Keeps capped s t))
    ∧ Gives (.currentSample amps) s (fun t => t.rd (F .pwrGov 4 23 16) = amps.toNat
      ∧ capNow t = (if s.rd (F .pwrGov 0 31 24) < amps.toNat ∧ 1 < capNow s then capNow s - 1 else capNow s) ∧ Keeps capped s t)
    ∧ Gives (.regulatorPoll amps) s (fun t => t.rd (F .pwrGov 4 23 16) = amps.toNat ∧ capNow t = capNow s
      ∧ (s.elapsed < s.pow.telemetryAt + 1500000 → t.out = .regulator .readCurrent :: s.out) ∧ Keeps [gov] s t)
    ∧ Gives (.supplyMonitor k mv) s (fun t => t.rd (F .pwrGov 0x00C k.val k.val) = bnat (decide (100 * mv < 92 * railSetting s k.val))
      ∧ t.rd (F .pwrGov 0x00C (8 + k.val) (8 + k.val)) = bnat (decide (108 * railSetting s k.val < 100 * mv)) ∧ Keeps (at_ .pwrGov 0x00C :: faultMarks .pwrGov) s t)
    ∧ (s.rd (shState sh.val) = stRunning → s.rd (shRating sh.val) < allowedRating s [sh.val] → s.rd (shRating sh.val) < 8 →
      Gives (.ratingRamp sh) s (fun t => t.rd (shRating sh.val) = s.rd (shRating sh.val) + 1 ∧ Keeps [at_ (shBlk sh.val) 0] s t))
    ∧ (s.rd (shState sh.val) = stReserved → (run s sh.val).ballast = 0 →
      Gives (.ballastStart sh) s (fun t => (run t sh.val).ballast = allowedRating s [sh.val] ∧ Keeps [] s t))


/-! ### Launch, resets, custody -/

/-- Rails, clocks and Launch (R441 to R443, R453, R511, R512): the rail enables follow one another; a rail that is late twice stops
Launch; Launch takes the preferred slot where its image passes its checks, else the other, and ends locked in Paddle or Race; where both
headers fail it stops before it touches on-chip memory. The order of the steps of a fallback is the model's choice (log entry 49). -/
def Obligations.LaunchAndRails : Prop :=
  ∀ (i : Fin 4) (x : LaunchIn) (cause : Nat) (s : State),
    let s1 := launchClocks (ddrForgets (launchRecord cause x.durations s))
    let a := firstSlot s1
    let head (slot : Nat) : Nat := headCode s1 slot (x.reads[Fin.ofNat 2 slot])
    let runs (slot : Nat) (t : State) : Prop := t.locked = true ∧ t.pow.launch = none ∧ (t.mode = modePaddle ∨ t.mode = modeRace)
      ∧ t.rd (F .pwrLch 0 1 0) = slot
    Gives .crystalStable s (fun t => t.pow.crystal = true ∧ t.cus = s.cus ∧ t.out = s.out ∧ Keeps [] s t)
    ∧ (s.pow.launch = some cause → s.pow.stopped = false → s.pow.porst = false → s.pow.wake = none →
      (bit s.pow.railEn i.val = true → Gives (.railGood i) s (fun t => bit t.pow.railGood i.val = true
        ∧ (i.val < 3 → bit t.pow.railEn (i.val + 1) = true) ∧ Keeps [] s t))
      ∧ (bit s.pow.railEn i.val = true → bit s.pow.railGood i.val = false →
        Gives (.railTimeout i) s (fun t => t.pow = (if s.pow.railRetry then { s.pow with stopped := true }
          else { s.pow with railRetry := true, railEn := 1, railGood := 0 }) ∧ Keeps [] s t))
      ∧ Gives .launchOscTimeout s (fun t => t.pow.rc = true ∧ t.rd (F .pwrAon 4 26 26) = 1 ∧ Keeps (at_ .pwrAon 4 :: faultMarks .pwrAon) s t)
      ∧ (s.pow.railGood = 15 → s.pow.testmode = false →
        ((trySlot a false x s1).2 = 0 → Gives (.launch x) s (runs a))
        ∧ (head a ≠ 0 → (trySlot (1 - a) false x (slotFails a (head a) s1)).2 = 0 →
          Gives (.launch x) s (fun t => runs (1 - a) t ∧ t.rd (F .pwrLch 0 24 24) = 1))
        ∧ (head 0 ≠ 0 → head 1 ≠ 0 → Gives (.launch x) s (fun t => t.pow.stopped = true ∧ t.rd (F .pwrLch 0 1 0) = 2
          ∧ t.mem = (ddrForgets s).mem ∧ t.cox = s.cox ∧ t.rd (F .pwrLch 0 23 20) = head 0 ∧ t.rd (F .pwrLch 0 19 16) = head 1))))

/-- Resets (R6, R406, R481, R482, R485, R514): a block reset returns the block's own registers to their reset values and shadows it, and
absorbs another of its block while it lasts;
a chip reset returns the device to Launch and records its source; PORST_N takes the rail enables low. -/
def Obligations.Resets : Prop :=
  ∀ (id : BlkId) (b : Blk) (src : Src) (k when_ : Nat) (s : State), blkOf id = some b →
    (s.flt.reactions = [.blockReset src] → src.blk = b → b ∈ s.flt.resets →
      Gives (.blockReset id) s (fun t => t = { s with flt := { s.flt with reactions := [] } }))
    ∧ (s.flt.reactions = [.blockReset src] → src.blk = b → b ∉ s.flt.resets →
      Gives (.blockReset id) s (fun t => b ∈ t.flt.resets ∧ b ∈ t.flt.shadows
        ∧ ∀ a row o n, regAt a = some (b, row, o, n) → row.lvl = .block → t.reg a = State.reset.reg a))
    ∧ (b ∈ s.flt.resets → (∀ c, b = .cox c → s.cox.starts[c] = none) → s.cox.bcasts = [] → s.held = [] →
      Gives (.blockResetEnd id) s (fun t => b ∉ t.flt.resets ∧ t.flt.shadows = s.flt.shadows
        ∧ Keeps (match b with | .hstDdr => [at_ .hstDdr 4] | .vecShell n => [at_ (shBlk n.val) 0] | _ => []) s t))
    ∧ (b ∉ s.flt.resets → Gives (.shadowEnd id) s (fun t => b ∉ t.flt.shadows ∧ (∀ c, c ≠ b → (c ∈ t.flt.shadows ↔ c ∈ s.flt.shadows))
        ∧ Keeps [] s t))
    ∧ (s.flt.reactions = [.chipReset src k when_] →
      Gives .chipReset s (fun t => t.mode = modeLaunch ∧ t.pow.launch = some k ∧ t.rd (F32 .pwrFlt 0x010) = srcWord src k % 2 ^ 32
        ∧ t.locked = false ∧ t.cox.cores = State.reset.cox.cores ∧ t.stk = State.reset.stk ∧ t.flash0 = s.flash0 ∧ t.flash1 = s.flash1
        ∧ t.cus.fuses = s.cus.fuses ∧ t.pending = s.pending))
    ∧ Gives .porstAssert s (fun t => t.mode = modeLaunch ∧ t.pow.launch = some 0 ∧ t.pow.porst = true ∧ t.pow.railEn = 0
      ∧ t.pow.railGood = 0 ∧ t.cox.cores = State.reset.cox.cores ∧ t.stk = State.reset.stk ∧ t.flash0 = s.flash0 ∧ t.flash1 = s.flash1)

/-- Commits of settings (R466, R469, R470, R472): an accepted transaction joins the queue with the bytes of its region; its record goes
to an erased journal, its key shows it, and the entry holds its outcome; one that fails leaves the settings. A commit that waits its turn
joins the queue behind the record that custody programs; one for which the hold-up does not last ends HOLDUP. What is read and checked
when a commit is accepted, and the order of the checks, is the model's choice (log entry 51). -/
def Piece.SettingsAreCommitted : Prop :=
  ∀ (m : Master) (h : W32) (c : Commit) (o : FlashOutcome) (r : Region) (s : State),
    let e := entryOf s h.toNat
    let n := bits (e.word 4) 12 0
    let f := jFoot c.payload.length
    let p := jPlace s.cus.wp f
    let dir := at_ .cusVlt (0x100 + 8 * c.key)
    let read : Commit := ⟨h.toNat, bits (e.word 1) 5 0, memBytes s (r.base + e.word 3) n⟩
    s.held = [] → s.host.xspi = none → padHeld s 117 = false → s.pow.req ≠ some 3 → s.cus.own = [] → s.cus.sys = [] →
    (commitCheck s h.toNat = 0 → e.words.length = 7 → regionAt s (e.word 2) = .ok r → Open 14 (r.base + e.word 3) n s →
      (s.cus.flying.isSome = true → Gives (.commit m h) s (fun t => t.cus = { s.cus with queue := s.cus.queue ++ [read] }
        ∧ t.rd (F .cusVlt 4 31 31) = 1 ∧ (entryOf t h.toNat).word 6 = 0xFF ∧ Keeps [at_ .cusVlt 4] s t))
      ∧ (s.cus.flying = none → s.cus.queue = [] → holdupShort s (jFoot n) = false →
        Gives (.commit m h) s (fun t => t.cus = { s.cus with queue := [read], flying := some (commitFlight s read) }
          ∧ t.rd (F .cusVlt 4 31 31) = 1 ∧ (entryOf t h.toNat).word 6 = 0xFF ∧ Keeps [at_ .cusVlt 4] s t))
      ∧ (s.cus.flying = none → s.cus.queue = [] → holdupShort s (jFoot n) = true → e.word 5 = 0 →
        Gives (.commit m h) s (fun t => t.cus = s.cus ∧ t.rd (F .cusVlt 4 7 0) = 1 ∧ (entryOf t h.toNat).word 6 = 1
          ∧ Keeps [at_ .cusVlt 4] s t)))
    ∧ (commitCheck s h.toNat ≠ 0 → e.word 5 = 0 → Gives (.commit m h) s (fun t => t.cus = s.cus ∧ t.rd (F .cusVlt 4 31 31) = 0
        ∧ t.rd (F .cusVlt 4 7 0) = commitCheck s h.toNat % 256 ∧ Keeps (at_ .cusVlt 4 :: faultMarks .cusVlt) s t))
    ∧ (s.cus.queue = [c] → s.cus.flying.any (fun f => !f.sys) = true → c.key < 64 → c.payload ≠ [] → c.payload.length ≤ 4096 → 0 < vaultBlocks s →
      (entryOf s c.handle).word 5 = 0 → (∀ i, i < f → vRead s (jOffset s p + i) 1 = [0xFF]) →
      (o.ok = true → Gives (.commitEnd o) s (fun t => t.cus.queue = [] ∧ t.cus.seq = s.cus.seq + 1 ∧ t.rd (F .cusVlt 4 7 0) = 0
        ∧ nget c.key t.cus.mirror = some c.payload ∧ t.reg dir = 2 ^ 31 + c.payload.length
        ∧ vRead t (jOffset s p) f = jRecord 0 c.key (s.cus.seq + 1) c.payload
        ∧ (checkHandle s kSettings c.handle = 0 → (entryOf t c.handle).word 6 = 0) ∧ Keeps [at_ .cusVlt 4, at_ .cusVlt 0x018, dir, dir + 4] s t))
      ∧ (o.ok = false → Gives (.commitEnd o) s (fun t => t.cus.queue = [] ∧ t.cus.seq = s.cus.seq ∧ t.cus.mirror = s.cus.mirror
        ∧ t.rd (F .cusVlt 4 7 0) = 0xA ∧ Keeps (at_ .cusVlt 4 :: at_ .cusVlt 0x018 :: faultMarks .cusVlt) s t)))

/-- The vault's other writes (R465, R474, R476, R515): system records, power-cut markers, PFAIL_N, and the compaction that erases the
oldest block of the journal. In what order custody writes what waits is the model's choice (log entries 51 and 70). -/
def Piece.VaultRecordsAndPowerCut : Prop :=
  ∀ (o : FlashOutcome) (b : Bool) (s : State),
    let powerRegs := [at_ .pwrDvfs 4, at_ .pwrCtl 0] ++ faultMarks .pwrGov
    s.held = [] → s.host.xspi = none → padHeld s 117 = false → s.pow.req ≠ some 3 → s.cus.own = [] →
    (s.cus.sys = [.prefer b] → s.cus.queue = [] → s.cus.flying.any Flying.sys = true → vaultThere s = true → sysNow s = none → o.ok = true →
      Gives (.systemRecordWrite o) s (fun t => t.cus.sys = [] ∧ (sysNow t).map SysRec.prefer = some (bnat b)
        ∧ t.rd (F .cusAuth 4 31 31) = 0 ∧ t.rd (F .cusVlt 4 7 0) = 0 ∧ Keeps [at_ .cusAuth 4, at_ .cusVlt 4, at_ .cusVlt 0x018] s t))
    ∧ (s.cus.pfail = true → s.cus.flying = none → s.mode ≠ modeLaunch → s.cus.cutN ≤ 4094 → vaultThere s = true →
      s.cus.cutFrom + 375000 * s.cus.cutN ≤ s.elapsed →
      (∀ i, i < 16 → vRead s (jOffset s s.cus.wp + i) 1 = [0xFF]) → s.cus.wp % 16 = 0 →
      Gives .cutMarker s (fun t => t.cus.cutN = s.cus.cutN + 1 ∧ t.cus.wp = s.cus.wp + 16
        ∧ cutAt t s.cus.wp = some (s.cus.cutN, cutUs s % 2 ^ 32) ∧ Keeps [] s t))
    ∧ (s.pow.porst = false → s.pow.pfail = false → s.pow.erg = none → s.cus.queue.length ≤ bnat (s.cus.flying.any (fun f => !f.sys)) →
      s.cus.sys.length ≤ bnat (s.cus.flying.any Flying.sys) →
      Gives .pfailAssert s (fun t => t.pow.pfail = true ∧ t.cus.pfail = true ∧ t.rdBit (fLive .pwrGov) 4 = true
        ∧ t.cus.queue = s.cus.queue ∧ Keeps powerRegs s t))
    ∧ (s.pow.porst = false → s.pow.pfail = true → s.cus.seedDue = false →
      Gives .pfailNegate s (fun t => t.pow.pfail = false ∧ t.cus.pfail = false ∧ t.rdBit (fLive .pwrGov) 4 = false ∧ Keeps powerRegs s t))
    ∧ (s.pow.porst = false → s.pow.pfail = false → s.pow.erg = none → s.cus.queue.length ≤ bnat (s.cus.flying.any (fun f => !f.sys)) →
      s.cus.sys.length ≤ bnat (s.cus.flying.any Flying.sys) →
      Gives .hupSenseFall s (fun t => t.pow.hup = true ∧ t.pow.pfail = true ∧ t.cus.pfail = true ∧ Keeps powerRegs s t))
    ∧ (vaultThere s = true → s.cus.pfail = false → s.cus.flying = none → jFree s < 2 * 65536 → s.cus.wp / 65536 ≠ s.cus.oldBlk → 0 < vaultBlocks s →
      Gives (.vaultCompaction true) s (fun t => t.cus.oldBlk = s.cus.oldBlk + 1
        ∧ t.rd (F .cusVlt 0x01C 31 16) = (s.rd (F .cusVlt 0x01C 31 16) + 1) % 2 ^ 16
        ∧ (∀ i, i < 65536 → vRead t (jOffset s (s.cus.oldBlk * 65536) + i) 1 = [0xFF]) ∧ Keeps [at_ .cusVlt 0x01C] s t)
      ∧ Gives (.vaultCompaction false) s (fun t => t.cus = s.cus ∧ t.flash0 = s.flash0 ∧ t.flash1 = s.flash1
        ∧ Keeps (faultMarks .cusVlt) s t))

/-- The life cycle, the rollback counter and the preferred slot (R457, R458, R463): an allowed transition whose fuses verify wipes
memory and resets the chip; one not allowed, or not verified, changes no fuse. The order of the checks of a request is the model's choice
(log entry 45). -/
def Obligations.LifeCycleAndRollback : Prop :=
  ∀ (m : Master) (target : BitVec 3) (o : OtpOutcome) (s : State),
    let want := min 64 (s.rd (F32 .cusAuth 0x00C))
    let res := at_ .cusLc 0xC
    (s.rd (F .cusLc 0xC 31 31) = 0 →
      (lcAllowed s.lc target.toNat = false → Gives (.lifecycleRequest m target o) s (fun t => t.rd (F .cusLc 0xC 2 0) = 1
        ∧ t.cus = s.cus ∧ Keeps [res] s t))
      ∧ (lcAllowed s.lc target.toNat = true → s.cus.pfail = false → target.toNat ≠ lcReturn →
        (o.verified = true → Gives (.lifecycleRequest m target o) s (fun t => t.cus.fuses = setBit s.cus.fuses (target.toNat - 1) true
          ∧ t.lc = fuseState t.cus.fuses ∧ t.mode = modeLaunch ∧ t.pow.launch = some 4
          ∧ ∀ a, a < courseSize ∨ (crewBase ≤ a ∧ a < crewBase + crewSize) → memByte t a = 0))
        ∧ (o.verified = false → Gives (.lifecycleRequest m target o) s (fun t => t.rd (F .cusLc 0xC 2 0) = 5 ∧ t.cus = s.cus
          ∧ Keeps (res :: faultMarks .cusLc) s t)))
      ∧ (s.lc = lcField → target.toNat = lcReturn → s.cus.pfail = false → readToken s = (s, none) →
        Gives (.lifecycleRequest m target o) s (fun t => t.rd (F .cusLc 0xC 2 0) = 2 ∧ t.cus = s.cus
          ∧ Keeps (res :: (List.range 8).map (fun i => at_ .cusLc (0x020 + 4 * i))) s t)))
    ∧ ((s.lc = lcDevelop ∨ s.lc = lcField) → s.rd (F .cusAuth 4 31 31) = 0 → s.cus.pfail = false → s.cus.rollback < want →
      Gives (.advance m true) s (fun t => t.cus.rollback = want ∧ t.rd (F .cusAuth 8 6 0) = want ∧ t.rd (F .cusAuth 4 2 0) = 0
        ∧ Keeps [at_ .cusAuth 4, at_ .cusAuth 8] s t)
      ∧ Gives (.advance m false) s (fun t => t.cus = s.cus ∧ t.rd (F .cusAuth 4 2 0) = 3 ∧ Keeps (at_ .cusAuth 4 :: faultMarks .cusLc) s t))
    ∧ (s.rd (F .cusAuth 4 31 31) = 0 → s.cus.pfail = false →
      Gives (.preferA m) s (fun t => t.cus.sys = s.cus.sys ++ [.prefer false] ∧ t.rd (F .cusAuth 4 31 31) = 1 ∧ Keeps [at_ .cusAuth 4] s t)
      ∧ Gives (.preferB m) s (fun t => t.cus.sys = s.cus.sys ++ [.prefer true] ∧ t.rd (F .cusAuth 4 31 31) = 1 ∧ Keeps [at_ .cusAuth 4] s t))

/-! ### Faults, debug access, erg runs -/

/-- The umpire pair and the wait of an NMI (R486, R488 to R490): the healthy pair toggles, it returns when no cause holds, a readback
that differs in two cycles drives it to fault; an NMI not accepted in time escalates into Hold-water, unless its bit has been cleared. -/
def Piece.UmpireAndNmiWait : Prop :=
  ∀ (a b : Bool) (s : State),
    (s.rd (F .pwrFlt 0 1 1) = 1 → s.flt.pairFault = false →
      Gives .umpireToggle s (fun t => t.flt = { s.flt with phase := !s.flt.phase } ∧ Keeps [] s t))
    ∧ (s.flt.pairFault = true → umpCause s = 0 →
      Gives .umpireHealthy s (fun t => t.flt = { s.flt with pairFault := false, phase := false } ∧ Keeps [] s t))
    ∧ ((a, b) = umpDriven s → Gives (.umpireReadback a b) s (fun t => t.flt.mismatch = false ∧ t.flt.mismatchFor = 0
        ∧ t.flt.pairFault = s.flt.pairFault ∧ t.rdBit (fLive .pwrFlt) 0 = false ∧ Keeps [faultReg .pwrFlt 4] s t))
    ∧ ((a, b) ≠ umpDriven s → 1 ≤ s.flt.mismatchFor → Gives (.umpireReadback a b) s (fun t => t.flt.mismatch = true
        ∧ t.flt.pairFault = true ∧ t.rdBit (fLive .pwrFlt) 0 = true ∧ Keeps (faultMarks .pwrFlt) s t))
    ∧ (∀ (w : NmiWait), s.flt.nmi = [w] → s.rdBit (fStatus w.src.blk) w.src.bit = true → nmiOver s w = true →
      s.mode ≠ modeEasyAll → s.mode ≠ modeLaunch → Gives .nmiWaitExpiry s (fun t => t.flt.nmi = []
        ∧ t.flt.reactions = s.flt.reactions ++ [.holdWater w.src 2] ∧ Keeps [at_ .pwrFlt 0x014] s t))
    ∧ (∀ (w : NmiWait), s.flt.nmi = [w] → s.rdBit (fStatus w.src.blk) w.src.bit = false →
      Gives .nmiWaitExpiry s (fun t => t.flt = { s.flt with nmi := [] } ∧ Keeps [] s t))

/-- The JTAG instructions and the commands of DBGCMD (R461, R491, R492): each shifts out the response of the one before; where the life
cycle does not permit them the bypass register stands in, and a reserved command ends with ILLEGAL. The model's choices: what BYPASS stands
in for, a waiting access that reads BUSY, and the boundary-scan cells (log entry 54); the map of the OTP words (log entry 6). -/
def Obligations.JtagAndDebugCommands : Prop :=
  ∀ (v : W64) (s : State),
    let a := s.dbg.addr
    let before := s.dbg.status * 2 ^ 68 + s.dbg.data
    let said (st data : Nat) (t : State) : Prop := t.dbg.ir = 0x20 ∧ t.dbg.dr = before ∧ t.dbg.status = st ∧ t.dbg.data = data
    let commands := [Instr.nop, .setaddr v, .dbgRead32, .dbgRead64, .dbgWrite32 v, .dbgWrite64 v, .dbgChipreset, .lcreq v, .otpprog v,
      .ergstart v]
    Gives .extest s (fun t => t.dbg = { s.dbg with ir := 0 } ∧ Keeps [] s t)
    ∧ Gives .samplePreload s (fun t => t.dbg = { s.dbg with ir := 1 } ∧ Keeps [] s t)
    ∧ Gives .idcode s (fun t => t.dbg = { s.dbg with ir := 2, dr := 0x2570366F } ∧ Keeps [] s t)
    ∧ Gives .lcstat s (fun t => t.dbg = (if s.lc = lcEnd then { s.dbg with ir := 0xFF, dr := 0 }
        else { s.dbg with ir := 0x10, dr := lcStat s }) ∧ Keeps [] s t)
    ∧ Gives .bypass s (fun t => t.dbg = { s.dbg with ir := 0xFF, dr := 0 } ∧ Keeps [] s t)
    ∧ (s.mode ≠ modeBoathouse → dbgAllowed s = false → ∀ i ∈ commands, Gives i s (fun t =>
        t.dbg = { s.dbg with ir := 0xFF, dr := 0 } ∧ Keeps [] s t))
    ∧ (s.mode ≠ modeBoathouse → dbgAllowed s = true → dbgWaits s = false → s.dbg.status ≠ 1 → a < 2 ^ 44 →
      Gives .nop s (fun t => said s.dbg.status s.dbg.data t ∧ t.dbg.addr = a ∧ Keeps [] s t)
      ∧ Gives (.setaddr v) s (fun t => said 0 0 t ∧ t.dbg.addr = bits v.toNat 43 0 ∧ Keeps [] s t)
      ∧ (domState s 102 = 0 → Open 15 a 4 s → Gives .dbgRead32 s (fun t => said 0 (leNat (memBytes s a 4)) t ∧ t.dbg.addr = a + 4 ∧ Keeps [] s t)
          ∧ Gives (.dbgWrite32 v) s (fun t => said 0 0 t ∧ t.dbg.addr = a + 4 ∧ leNat (memBytes t a 4) = v.toNat % 2 ^ 32
              ∧ SameMemBut a 4 s t ∧ SameRegsBut [] s t ∧ t.cox = s.cox))
      ∧ (domState s 102 = 0 → Open 15 a 8 s → Gives .dbgRead64 s (fun t => said 0 (leNat (memBytes s a 8)) t ∧ t.dbg.addr = a + 8 ∧ Keeps [] s t)
          ∧ Gives (.dbgWrite64 v) s (fun t => said 0 0 t ∧ t.dbg.addr = a + 8 ∧ leNat (memBytes t a 8) = v.toNat
              ∧ SameMemBut a 8 s t ∧ SameRegsBut [] s t ∧ t.cox = s.cox))
      ∧ (∀ (w : BitVec 72), 0x0A ≤ w.toNat / 2 ^ 64 → said 4 0 (dbgShift w s) ∧ Keeps [] s (dbgShift w s))
      ∧ Gives .dbgChipreset s (fun t => said 0 0 t ∧ t.mode = modeLaunch ∧ t.pow.launch = some 5)
      ∧ (s.rd (F .cusLc 0xC 31 31) = 0 → lcAllowed s.lc (bits v.toNat 2 0) = true → s.cus.pfail = false → bits v.toNat 2 0 ≠ lcReturn →
          Gives (.lcreq v) s (fun t => said 0 0 t ∧ ((t.cus.fuses = setBit s.cus.fuses (bits v.toNat 2 0 - 1) true ∧ t.pow.launch = some 4)
            ∨ (t.cus = s.cus ∧ t.rd (F .cusLc 0xC 2 0) = 5))))
      ∧ (s.lc = lcTest → Gives (.otpprog v) s (fun t => said 0 0 t ∧ (ngetD t.cus.otp (bits v.toNat 47 32) 0).toNat
            = bits v.toNat 31 0 ||| (ngetD s.cus.otp (bits v.toNat 47 32) 0).toNat ∧ Keeps [] s t))
      ∧ (s.lc ≠ lcTest → Gives (.otpprog v) s (fun t => said 2 0 t ∧ t.cus = s.cus ∧ Keeps [] s t))
      ∧ (ergAllowed s = true → s.rd (ergF 31 31) = 0 → ∀ (g : Nat) (l : List Nat), bitsOf (bits v.toNat 5 0) 6 = g :: l →
          Gives (.ergstart v) s (fun t => said 0 0 t ∧ t.rd (ergF 31 31) = 1 ∧ t.flt.underTest = ergBlocks s true g ∧ SameMem s t)))

/-- Erg runs on request (R494 to R496): a start isolates the blocks of its first group; a group that ends resets them, writes its
record, and shows a failure; after the last group the run is over. That a requested run writes its record too, and what is left of a
block's memories, is the model's choice (log entry 52). -/
def Piece.ErgRuns : Prop :=
  ∀ (m : Master) (v : W32) (x : ErgOutcome) (g : Nat) (s : State),
    let stat := at_ .pwrErg 8
    (∀ (l : List Nat), ergAllowed s = true → s.rd (ergF 31 31) = 0 → bitsOf (bits v.toNat 5 0) 6 = g :: l →
      Gives (.ergStart m v) s (fun t => t.rd (ergF 31 31) = 1 ∧ t.rd (ergF 19 17) = g ∧ t.flt.underTest = ergBlocks s true g
        ∧ (∃ r, t.pow.erg = some r ∧ r.left = g :: l ∧ r.runs = g :: l ∧ r.onReq = true) ∧ SameMem s t ∧ t.cox = s.cox))
    ∧ (s.rd (ergF 31 31) = 1 → Gives (.ergStart m v) s (fun t => t.rd (ergF 26 24) = 2 ∧ Keeps [stat] s t))
    ∧ (ergAllowed s = false → s.rd (ergF 31 31) = 0 → Gives (.ergStart m v) s (fun t => t.rd (ergF 26 24) = 1 ∧ Keeps [stat] s t))
    ∧ (∀ (r : ErgRun), s.pow.erg = some r → r.left = [g] → r.runs = [g] → r.onReq = true → g < 6 → s.cus.pfail = false → vaultThere s = true →
      s.host.xspi = none → s.cus.flying = none → padHeld s 117 = false →
      (∀ w ∈ s.cus.wins, w.seq ≤ s.cus.seq) →
      Gives (.ergGroupDone x) s (fun t => t.pow.erg = none ∧ t.rd (ergF 31 31) = 0 ∧ t.flt.underTest = []
        ∧ (∀ b ∈ s.flt.underTest, b ∈ t.flt.resets) ∧ (x.fails ≠ [] → bit (t.rd (ergF 5 0)) g = true)
        ∧ (x.fails = [] → t.rd (ergF 5 0) = s.rd (ergF 5 0))
        ∧ ∃ w ∈ t.cus.wins, w.cls = 2 ∧ w.key = g ∧ w.seq = s.cus.seq + 1))


/-! ### The Cox cores: arithmetic -/

/-- What the integer units deliver (R221 to R224, R227, R231, R322, R324, R334): Q, Q2 and flags by the rules, in the latency of the rules, and nothing
else changes. -/
def Obligations.IntegerUnitsDeliver : Prop :=
  ∀ (i : Instr) (s : State),
    let val (c : CoxId) (u : Nat) : W64 := BitVec.ofNat 64 (o1 s c u)
    let val2 (c : CoxId) (u : Nat) : W64 := BitVec.ofNat 64 (o2 s c u)
    (∀ x, Claims.alu i = some x → Quiet s x.c →
      let p := portOf (3 + bnat x.u) 0
      let a := val x.c (3 + bnat x.u)
      let cy := bit (resPort (core s x.c) (p + 2)) 1
      let q := x.q a cy
      Gives i s (fun t => Delivers s t x.c 1 p q.toNat ∧ Delivers s t x.c 1 (p + 2) (bnat q.msb * 8 + bnat (q == 0) * 4
        + bnat (x.cf a cy) * 2 + bnat (x.vf a cy)) ∧ UnitFrame s t x.c))
    ∧ (∀ c f, Claims.shift i = some (c, f) → Quiet s c →
      Gives i s (fun t => Delivers s t c 1 0x120 (f (val c 5) (val2 c 5)).toNat ∧ UnitFrame s t c))
    ∧ (∀ c f, Claims.mul i = some (c, f) → Quiet s c →
      Gives i s (fun t => Delivers s t c 1 0x140 (f (val c 6)).1.toNat ∧ Delivers s t c 1 0x141 (f (val c 6)).2.toNat ∧ UnitFrame s t c))
    ∧ (∀ c lat f, Claims.div i = some (c, lat, f) → Quiet s c →
      Gives i s (fun t => Delivers s t c lat 0x160 (f (val c 7)).1.toNat ∧ Delivers s t c lat 0x161 (f (val c 7)).2.1.toNat
        ∧ Delivers s t c lat 0x162 (f (val c 7)).2.2 ∧ UnitFrame s t c))
    ∧ (∀ c lat f, Claims.bitsUnit i = some (c, lat, f) → Quiet s c →
      Gives i s (fun t => Delivers s t c lat 0x2C0 (f (val c 18) (val2 c 18)).toNat ∧ UnitFrame s t c))
    ∧ (∀ c lat w f, Claims.decimal i = some (c, lat, w, f) → Quiet s c → o2 s c 10 < 2 →
      let r := f (decVal (o1 s c 10)) (decVal w.toNat)
      Gives i s (fun t => Delivers s t c lat 0x1C0 r.1 ∧ Delivers s t c lat 0x1C2 r.2 ∧ UnitFrame s t c))

/-- What the compares and the floating-point units deliver (R225, R226, R228): a compare writes its condition to Q and to the
predicate PT, its inverse to PF, and no other predicate; an operation that raises no trap delivers its result and flags. -/
def Obligations.ComparesAndFloatsDeliver : Prop :=
  ∀ (i : Instr) (s : State),
    (∀ c f, Claims.compare i = some (c, f) → Quiet s c → o2 s c 11 < 256 → bits (o2 s c 11) 3 0 ≠ bits (o2 s c 11) 7 4 →
      let r := f (BitVec.ofNat 64 (o1 s c 11))
      let pt := bits (o2 s c 11) 3 0
      let pf := bits (o2 s c 11) 7 4
      Gives i s (fun t => Delivers s t c 1 0x1E0 (bnat r) ∧ Delivers s t c 1 0x1E2 0
        ∧ (pt ≠ 0 → bit (core t c).preds pt = r) ∧ (pf ≠ 0 → bit (core t c).preds pf = !r)
        ∧ (∀ p, p ≠ pt → p ≠ pf → bit (core t c).preds p = bit (core s c).preds p) ∧ UnitFrame s t c))
    ∧ (∀ c u off v lat, Claims.float i = some (c, u, off, v, lat) → Quiet s c →
      let a := o1 s c u
      let env := (core s c).fpenv
      (u = 8 → (fpu0Op off a (o2 s c u) v.toNat env).cause = none →
        let r := fpu0Op off a (o2 s c u) v.toNat env
        Gives i s (fun t => Delivers s t c lat 0x180 r.q ∧ Delivers s t c lat 0x182 r.flags ∧ UnitFrame s t c))
      ∧ (u = 9 → (fpu1Op off a v.toNat env).cause = none →
        let r := fpu1Op off a v.toNat env
        let o := if off < 12 then 0 else 1
        Gives i s (fun t => Delivers s t c lat (0x1A0 + o) r.q ∧ Delivers s t c lat (0x1A2 + o) r.flags ∧ UnitFrame s t c))
      ∧ (u = 11 → (cmpOp off a v.toNat env).cause = none → o2 s c 11 < 256 → bits (o2 s c 11) 3 0 ≠ bits (o2 s c 11) 7 4 →
        let r := cmpOp off a v.toNat env
        Gives i s (fun t => Delivers s t c 1 0x1E0 r.q ∧ Delivers s t c 1 0x1E2 r.flags
          ∧ (bits (o2 s c 11) 3 0 ≠ 0 → bit (core t c).preds (bits (o2 s c 11) 3 0) = (r.q == 1)) ∧ UnitFrame s t c)))


/-! ### The Cox cores: memory -/

/-- A load command (R229): core, unit, T, bytes, whether its value is sign-extended. -/
def loadRow : Instr → Option (CoxId × Bool × W64 × Nat × Bool)
  | .ld8u c u t => some (c, u, t, 1, false)
  | .ld8s c u t => some (c, u, t, 1, true)
  | .ld16u c u t => some (c, u, t, 2, false)
  | .ld16s c u t => some (c, u, t, 2, true)
  | .ld32u c u t => some (c, u, t, 4, false)
  | .ld32s c u t => some (c, u, t, 4, true)
  | .ld64 c u t => some (c, u, t, 8, false)
  | _ => none

/-- A store command: core, unit, T, bytes. -/
def storeRow : Instr → Option (CoxId × Bool × W64 × Nat)
  | .st8 c u t => some (c, u, t, 1)
  | .st16 c u t => some (c, u, t, 2)
  | .st32 c u t => some (c, u, t, 4)
  | .st64 c u t => some (c, u, t, 8)
  | _ => none

/-- An atomic command: core, unit, T, bytes, the new value of a word from its old one and the data (R229). -/
def atomicRow : Instr → Option (CoxId × Bool × W64 × Nat × (Nat → Nat → Nat))
  | .aadd32 c u t => some (c, u, t, 4, fun x d => (x + d) % 2 ^ 32)
  | .aadd64 c u t => some (c, u, t, 8, fun x d => (x + d) % 2 ^ 64)
  | .aswp32 c u t => some (c, u, t, 4, fun _ d => d % 2 ^ 32)
  | .aswp64 c u t => some (c, u, t, 8, fun _ d => d)
  | _ => none

/-- The virtual address of an LSU trigger (R229). -/
def lsuVa (s : State) (c : CoxId) (u : Bool) (t : W64) : Nat := (o1 s c (12 + bnat u) + t.toNat) % 2 ^ 64

/-- A load's value from its bytes (R229). -/
def loadedValue (signed : Bool) (bs : List Byte) : Nat :=
  let v := leNat bs
  if signed && bit v (8 * bs.length - 1) then v + 2 ^ 64 - 2 ^ (8 * bs.length) else v

/-- Loads (R229, R230, R251): an aligned load of a page that is not cached delivers its bytes of memory, one that finds its line in
the data cache those of the line, which holds no error; both at the hold point, and nothing else changes. PREFETCH (R313) fills the line
of a cacheable page from memory, asks for a walk where the translation is missing, and changes nothing where the line is there or the access
would fault. -/
def Obligations.LoadsDeliverMemory : Prop :=
  ∀ (i : Instr) (c : CoxId) (u : Bool) (v : W64) (n : Nat) (signed : Bool) (s : State),
    let k := core s c
    let va := lsuVa s c u v
    let p := portOf (12 + bnat u) 0
    let lat := if k.det then 8 else 4
    Quiet s c →
    (∀ (pa mem : Nat), loadRow i = some (c, u, v, n, signed) → va % n = 0 → translate k k.xlate k.user .load va = .ok pa mem →
      cacheable k pa mem = false → k.det = false ∨ inCrew pa = true → Open c.val pa n s →
      Gives i s (fun t => Delivers s t c lat p (loadedValue signed (memBytes s pa n)) ∧ UnitFrame s t c))
    ∧ (∀ (pa mem : Nat) (l : Line), loadRow i = some (c, u, v, n, signed) → va % n = 0 → translate k k.xlate k.user .load va = .ok pa mem →
      cacheable k pa mem = true → nget (lineOf pa) k.dcache = some l → l.data.length = 64 → l.bad = [] → pa % n = 0 →
      Gives i s (fun t => Delivers s t c lat p (loadedValue signed ((l.data.drop (pa % 64)).take n)) ∧ UnitFrame s t c))
    ∧ (∀ (pa mem : Nat) (l : Line), translate k k.xlate k.user .load va = .ok pa mem → cacheable k pa mem = true → nget (lineOf pa) k.dcache = some l →
      Gives (.prefetch c u v) s (fun t => UnitFrame s t c))
    ∧ (∀ (pa mem : Nat), translate k k.xlate k.user .load va = .ok pa mem → cacheable k pa mem = true → nget (lineOf pa) k.dcache = none →
      (sameSet (lineOf pa) k.dcache).length < 4 → Open c.val (lineOf pa * 64) 64 s →
      Gives (.prefetch c u v) s (fun t => SameMem s t ∧ t.regs = s.regs
        ∧ CoreIs c { past s c with dcache := nput (lineOf pa) ⟨memBytes s (lineOf pa * 64) 64, false, []⟩ k.dcache } s t))
    ∧ (translate k k.xlate k.user .load va = .miss → k.walks = [] → k.det = false →
      Gives (.prefetch c u v) s (fun t => SameMem s t ∧ SameRegsBut [at_ (.cox c) 0x318] s t
        ∧ CoreIs c { past s c with walks := [⟨va, 2, rootOf k.xlate⟩] } s t))
    ∧ (∀ (pa mem : Nat), translate k k.xlate k.user .load va = .ok pa mem → cacheable k pa mem = false →
      Gives (.prefetch c u v) s (fun t => UnitFrame s t c))
    ∧ (∀ (x : Nat), translate k k.xlate k.user .load va = .fault x → Gives (.prefetch c u v) s (fun t => UnitFrame s t c))

/-- Stores and atomic operations (R141, R229, R257): an aligned store's bytes stand in the store buffer, and memory is as before; an
atomic operation on an open Crew bank changes its word and delivers the old value when its result has come (R256). -/
def Obligations.StoresAreBufferedAndAtomicsAct : Prop :=
  ∀ (i : Instr) (c : CoxId) (u : Bool) (v : W64) (n : Nat) (pa mem : Nat) (s : State),
    let k := core s c
    let va := lsuVa s c u v
    let data := o2 s c (12 + bnat u)
    Quiet s c → va % n = 0 → translate k k.xlate k.user .store va = .ok pa mem → pa % n = 0 → k.det = false ∨ inCrew pa = true →
    (storeRow i = some (c, u, v, n) →
      Gives i s (fun t => (∃ e, (core t c).sb = [e] ∧ e.block = pa / 64 ∧ e.cached = cacheable k pa mem ∧ e.bytes.length = n
          ∧ ∀ j, j < n → nget (pa % 64 + j) e.bytes = some ((leBytes n data).getD j 0))
        ∧ SameMem s t ∧ t.regs = s.regs ∧ CoreIs c { past s c with sb := (core t c).sb } s t))
    ∧ (∀ (f : Nat → Nat → Nat), atomicRow i = some (c, u, v, n, f) → crewBase ≤ pa → nget (lineOf pa) k.dcache = none → Open c.val pa n s →
      Gives i s (fun t => Delivers s t c 4 (portOf (12 + bnat u) 0) (leNat (memBytes s pa n))
        ∧ leNat (memBytes t pa n) = f (leNat (memBytes s pa n)) data ∧ SameMemBut pa n s t ∧ SameRegsBut [] s t ∧ CoreIs c (past s c) s t))


/-! ### The Cox cores: system operations -/

/-- A CACHE_OP command: core, operation number, T (R216). -/
def cacheRow : Instr → Option (CoxId × Nat × W64)
  | .cleanDLine c t => some (c, 0, t)
  | .invalDLine c t => some (c, 1, t)
  | .cleanInvalDLine c t => some (c, 2, t)
  | .invalILine c t => some (c, 3, t)
  | .cleanDAll c t => some (c, 4, t)
  | .cleanInvalDAll c t => some (c, 5, t)
  | .invalIAll c t => some (c, 6, t)
  | _ => none

/-- TLB and translation commands (R214, R304, R305, R316): TLB_WRITE gives an entry its words or removes it, TLB_READ delivers them,
the invalidations remove what they name, a broadcast goes to every released core, which removes what it names when it completes. -/
def Obligations.TlbCommands : Prop :=
  ∀ (c : CoxId) (v : W64) (s : State),
    let k := core s c
    let i := bits v.toNat 7 0
    let frame (tlb : NMap TlbEnt) (t : State) : Prop := SameMem s t ∧ t.regs = s.regs ∧ CoreIs c { past s c with tlb := tlb } s t
    (Quiet s c → k.user = false →
      (v.toNat < 512 → bit (o1 s c 0) 63 = true → tlbWordsOk v.toNat (o1 s c 0) (o2 s c 0) = true → Gives (.tlbWrite c v) s
        (frame (nput i ⟨putBits (o1 s c 0) 62 62 0, o2 s c 0, bit v.toNat 8⟩ k.tlb)))
      ∧ (v.toNat < 512 → bit (o1 s c 0) 63 = false → Gives (.tlbWrite c v) s (frame (ndel i k.tlb)))
      ∧ (∀ (e : TlbEnt), v.toNat < 256 → nget v.toNat k.tlb = some e → Gives (.tlbRead c v) s (fun t =>
          Delivers s t c 2 0x80 (putBits e.v 62 62 (bnat e.lock)) ∧ Delivers s t c 2 0x81 e.p ∧ UnitFrame s t c))
      ∧ (v.toNat < 256 → nget v.toNat k.tlb = none → Gives (.tlbRead c v) s (fun t =>
          (∃ x, Delivers s t c 2 0x80 x ∧ bits x 63 54 = 0 ∧ bits x 11 0 = 0)
          ∧ (∃ x, Delivers s t c 2 0x81 x ∧ bits x 63 56 = 0 ∧ bits x 49 44 = 0 ∧ bits x 11 0 = 0) ∧ UnitFrame s t c))
      ∧ Gives (.tlbInvVa c v) s (frame (k.tlb.filter (fun p => !(v.toNat / 2 ^ 48 == 0 && entHits v.toNat p.2))))
      ∧ (v.toNat < 2 → Gives (.tlbInvAll c v) s (frame (if v.toNat = 1 then [] else k.tlb.filter (fun p => p.2.lock))))
      ∧ (v.toNat < 2 ^ 48 → bits v.toNat 11 2 = 0 → s.flt.resets = [] →
        (∀ d, (core s d).walks = [] ∧ (core s d).staleWalk = false) → (core s c).on = true → domState s c.val ≠ 3 → Gives (.tlbBcast c v) s (fun t =>
          t.cox.bcasts = s.cox.bcasts ++ [⟨c.val, v.toNat, ((List.finRange 4).filter (fun d => (core s d).on && domState s d.val != 3)).map (·.val)⟩]
          ∧ UnitFrame s t c)))
    ∧ (∀ (b : Bcast), s.cox.bcasts = [b] → b.left = [c.val] → .cox c ∉ s.flt.resets → domState s c.val ≠ 1 →
      Gives (.tlbBcastComplete c) s (fun t => t.cox.bcasts = []
        ∧ (core t c).tlb = k.tlb.filter (fun p => !((bit b.t 0 || entHits (bits b.t 47 12 * 4096) p.2) && (bit b.t 1 || !p.2.lock)))
        ∧ SameMem s t ∧ t.regs = s.regs ∧ ∀ d, d ≠ c → core t d = core s d))

/-- The other SYS commands (R214, R215, R216, R247, R286): WAIT stops issue, FETCH_SYNC forgets what was fetched and predicted, the
save sets are read and written, a cache operation begins, and a state port takes its value. -/
def Obligations.SystemCommands : Prop :=
  ∀ (c : CoxId) (v : W64) (s : State),
    let k := core s c
    let x := v.toNat
    let regs := [at_ (.cox c) 0x128]
    Quiet s c →
    (k.user = false → s.pow.req ≠ some 3 → Gives (.wait c v) s (fun t => waiting t c = true ∧ SameMem s t
        ∧ SameRegsBut [at_ (.cox c) 0x200] s t ∧ CoreIs c (past s c) s t))
    ∧ (k.sbErr = [] → k.cacheOps = [] → sterrFirst s c = false → Gives (.fetchSync c v) s (fun t => (core t c).btb = []
        ∧ SameMem s t ∧ SameRegsBut regs s t ∧ CoreIs c { past s c with loops := k.loops.map (fun l => { l with copy := [] }) } s t))
    ∧ (k.user = false → x < 256 → 1 ≤ bits x 2 0 → bits x 2 0 ≤ 4 →
      Gives (.saveRead c v) s (fun t => Delivers s t c 1 0x80 (wordAt k.saves[Fin.ofNat 4 (bits x 2 0 - 1)] (bits x 7 3)) ∧ UnitFrame s t c)
      ∧ Gives (.saveWrite c v) s (fun t => SameMem s t ∧ t.regs = s.regs ∧ CoreIs c { past s c with
          saves := k.saves.set (Fin.ofNat 4 (bits x 2 0 - 1)) (k.saves[Fin.ofNat 4 (bits x 2 0 - 1)].set (bits x 7 3) (o1 s c 0)) } s t))
    ∧ (∀ (i : Instr) (op pa mem : Nat), cacheRow i = some (c, op, v) → (op < 4 → translate k k.xlate k.user .load x = .ok pa mem) →
      (k.user = false ∨ op < 4) → Gives i s (fun t => operandPort t c 0 0 = x
        ∧ SameMem s t ∧ t.regs = s.regs
        ∧ CoreIs c { past s c with banks := (core t c).banks, cacheOps := k.cacheOps ++ [(op, if op < 4 then pa / 64 else 0)] } s t))
    ∧ (k.user = false →
      (x ≤ 3 → curLevel s c ≠ 4 → Gives (.sysStateWrite c 3 v) s (fun t => SameMem s t ∧ t.regs = s.regs
        ∧ CoreIs c { past s c with maskLev := x } s t))
      ∧ (x &&& 0xB = x → Gives (.sysStateWrite c 4 v) s (fun t => SameMem s t ∧ t.regs = s.regs
        ∧ CoreIs c { past s c with user := bit x 0, sua := bit x 1 } s t))
      ∧ (x < 2 ^ 48 → x % 4096 = 0 → Gives (.sysStateWrite c 5 v) s (fun t => SameMem s t ∧ t.regs = s.regs
        ∧ CoreIs c { past s c with vbase := x } s t))
      ∧ (x < 2 ^ 44 → bits x 11 4 = 0 → bits x 2 1 = 0 → Gives (.sysStateWrite c 6 v) s (fun t => SameMem s t ∧ t.regs = s.regs
        ∧ CoreIs c { past s c with xlate := x } s t)))
    ∧ (x &&& 0x13FFB = x → Gives (.sysStateWrite c 7 v) s (fun t => (core t c).fpenv = x ∧ UnitFrame s t c))


/-! ### The Cox cores: transfers and loops -/

/-- A RUDDER trigger leaves a transfer that waits for the delay bundle (R217, R218, R245, R274, R287, R291): JUMP and CALL to T,
JUMP_REL and CALL_REL to T bundles from their own, RETURN to the address at the top of the shadow stack, TRAP with its number and WHERE,
ERET from the current level when nothing is in progress and its state words are legal. -/
def Obligations.TransfersBegin : Prop :=
  ∀ (c : CoxId) (v : W64) (s : State),
    let k := core s c
    let x := v.toNat
    let rel := wrap 64 ((k.pc : Int) + 16 * v.toInt)
    let waits (f : Xfer) (t : State) : Prop := SameMem s t ∧ t.regs = s.regs ∧ CoreIs c { past s c with xfer := some f } s t
    Quiet s c →
    (x % 16 = 0 → x < 2 ^ 48 → Gives (.jump c v) s (waits ⟨1, x, some k.pc, [], [], none⟩))
    ∧ Gives (.jumpRel c v) s (waits ⟨1, rel, some k.pc, [], [], none⟩)
    ∧ (∀ (pa mem : Nat), translate k k.xlate k.user .ssStore (pushVa k) = .ok pa mem → k.ssp % 8 = 0 →
      (x % 16 = 0 → x < 2 ^ 48 → Gives (.call c v) s (waits ⟨2, x, some k.pc, [(pushVa k, pa, 8)], [], none⟩))
      ∧ Gives (.callRel c v) s (waits ⟨2, rel, some k.pc, [(pushVa k, pa, 8)], [], none⟩))
    ∧ (∀ (pa mem : Nat), translate k k.xlate k.user .ssLoad k.ssp = .ok pa mem → k.ssp % 8 = 0 → k.ssp < 2 ^ 64 → Open c.val pa 8 s →
      leNat (memBytes s pa 8) = x → x % 16 = 0 → x < 2 ^ 48 → Gives (.ret c v) s (waits ⟨3, x, some k.pc, [], [], none⟩))
    ∧ (x < 16 → Gives (.trap c v) s (waits ⟨4, x, none, [], [], some 104⟩))
    ∧ (k.user = false → x = 0 → curLevel s c ≠ 0 → k.sbErr = [] → k.cacheOps = [] →
      bit (s.rd (F (.cox c) 0x200 15 12)) (curLevel s c - 1) = false →
      wordsOk k.saves[Fin.ofNat 4 (curLevel s c - 1)] = true → Gives (.eret c v) s
        (waits ⟨5, curLevel s c, none, [], k.saves[Fin.ofNat 4 (curLevel s c - 1)], none⟩))

/-- The bundle at the pc enters no loop level's copy: it is none of the body's first four, or is in the copy (R249). -/
def LoopCopyStays (k : Core) : Prop := ∀ l ∈ k.loops, l.takes k.pc = false

/-- The core of a state without its waiting transfer and its fetched bundles. -/
def unpended (s : State) (c : CoxId) : State := setCore c { core s c with xfer := none, queue := [] } s

/-- The moves of a canonical NOP (R202): four with guard never, from g0 to g0. -/
def idleMoves : List Mv := [0, 1, 2, 3].map (fun i => ⟨true, 0, 0, .port 0 0, i⟩)

/-- After its delay bundle a transfer takes place (R218, R245, R274, R288, R296): a jump and a return go to their target, a return
moves SSP past its word, a call stores the return address on the shadow stack and in LINK, a trap becomes due, and an ERET
restores the level's state. The delay bundle has the moves of the canonical NOP. -/
def Piece.TransfersTakePlace : Prop :=
  ∀ (c : CoxId) (x : Xfer) (w : Nat) (s : State),
    let k := core s c
    let bubble := [at_ (.cox c) 0x128]
    Quiet (unpended s c) c → LoopCopyStays k → k.xfer = some x → k.queue = [(k.pc, .got w)] →
    bundleOf k.pc w = ⟨k.pc, false, false, false, false, idleMoves⟩ →
    (x.kind = 1 → Gives (.issueGroup c) s (fun t => SameMem s t ∧ SameRegsBut bubble s t
      ∧ CoreIs c { k with pc := x.target, xfer := none } s t))
    ∧ (x.kind = 3 → Gives (.issueGroup c) s (fun t => SameMem s t ∧ SameRegsBut bubble s t
      ∧ CoreIs c { k with pc := x.target, xfer := none, ssp := (k.ssp + 8) % 2 ^ 64 } s t))
    ∧ (∀ (pa mem : Nat), x.kind = 2 → x.push = [] ∨ x.push = [(pushVa k, pa, 8)] → translate k k.xlate k.user .ssStore (pushVa k) = .ok pa mem → k.ssp % 8 = 0 → Open c.val pa 8 s →
      k.pc + 16 < 2 ^ 64 → Gives (.issueGroup c) s (fun t => leNat (memBytes t pa 8) = k.pc + 16 ∧ SameMemBut pa 8 s t
        ∧ SameRegsBut bubble s t ∧ CoreIs c { k with pc := x.target, xfer := none, link := k.pc + 16, ssp := pushVa k } s t))
    ∧ (x.kind = 4 → x.target < 16 → Gives (.issueGroup c) s (fun t => ((core t c).exc.map (·.cause)) = some (0x20 + x.target)
        ∧ SameMem s t ∧ t.regs = s.regs ∧ CoreIs c { past s c with xfer := none } s t))
    ∧ (∀ (l : Fin 4), x.kind = 5 → x.words = [] ∨ x.words = k.saves[l] → x.target = l.val + 1 →
      let w := wordAt k.saves[l]
      bit (s.rd (F (.cox c) 0x200 15 12)) l.val = false → wordsOk k.saves[l] = true → bits (w 3) 31 0 = 0 → bits (w 1) 46 44 = 0 →
      Gives (.issueGroup c) s (fun t => SameMem s t ∧ SameRegsBut (at_ (.cox c) 0x200 :: bubble) s t
        ∧ (core t c).preds = bits (w 0) 58 44 * 2 ∧ (core t c).fpenv = bits (w 4) 60 44 ∧ catching t c = true
        ∧ curLevel t c = levelBelow (setBit (s.rd (F (.cox c) 0x200 11 8)) l.val false)
        ∧ CoreIs c { k with pc := bits (w 0) 43 0 * 16, maskLev := bits (w 1) 51 49, user := bit (w 1) 48, sua := bit (w 1) 47,
                            loops := [], xfer := none } s t))

/-- The queue of four holds the bundle at the pc and the three that follow it (R240). -/
def FetchedAhead (k : Core) (w : Nat) : Prop :=
  ∃ x y z, k.queue = [(k.pc, .got w), (k.pc + 16, .got x), (k.pc + 32, .got y), (k.pc + 48, .got z)]

/-- Loops (R219, R220): LOOP_START opens a level of T rounds at the next bundle, LOOP_POP drops the innermost one; at a LEND bundle
the body runs again while rounds are left, and then the level closes; that bundle has the moves of the canonical NOP. -/
def Piece.LoopsOpenTurnAndClose : Prop :=
  ∀ (c : CoxId) (v : W64) (s : State),
    let k := core s c
    let opened (l : List LoopLev) (t : State) : Prop := SameMem s t ∧ t.regs = s.regs ∧ CoreIs c { past s c with loops := l } s t
    (Quiet s c → v.toNat ≠ 0 → v.toNat < 2 ^ 32 → k.loops.length < 2 →
      Gives (.loopStart c v) s (opened (⟨v.toNat, k.pc + 16, []⟩ :: k.loops)))
    ∧ (Quiet s c → Gives (.loopPop c v) s (opened k.loops.tail))
    ∧ (∀ (w : Nat) (l : LoopLev) (rest : List LoopLev), bundleOf k.pc w = ⟨k.pc, false, true, false, false, idleMoves⟩ → k.loops = l :: rest → l.copy = [] → k.pc ≠ l.start → (∀ m ∈ rest, m.takes k.pc = false) →
      k.xfer = none → Quiet (unpended s c) c → FetchedAhead k w →
      (1 < l.count → Gives (.issueGroup c) s (fun t => SameMem s t ∧ SameRegsBut [at_ (.cox c) 0x128] s t
        ∧ CoreIs c { k with pc := l.start, loops := { l with count := l.count - 1 } :: rest } s t))
      ∧ (l.count = 1 → Gives (.issueGroup c) s (fun t => SameMem s t ∧ t.regs = s.regs ∧ CoreIs c { past s c with loops := rest } s t)))


/-! ### The Cox cores: time, mail, jobs and handles -/

/-- TIME and MAIL (R231, R350): TIME_READ delivers the timebase; the trip commands deliver what the output's armed edge allows; SEND
puts O1 into the inbox of the core named, its own included, if there is room, RECV takes the oldest message. What TRIP_ARM makes of the
other bits of T, and MAIL of a level field beyond 3, is the model's choice (log entry 33). -/
def Obligations.TimeAndMailCommands : Prop :=
  ∀ (c : CoxId) (v : W64) (s : State), Quiet s c →
    let k := core s c
    let n : Fin 16 := Fin.ofNat 16 (bits v.toNat 3 0)
    let x := s.tim.trips[n]
    let at' := unstamp96 (o1 s c 16 * 2 ^ 32 + o2 s c 16)
    let said (code : Nat) (t : State) : Prop := Delivers s t c 4 0x282 code ∧ (∀ i, i ≠ n → t.tim.trips[i] = s.tim.trips[i])
      ∧ UnitFrame s t c
    Gives (.timeRead c v) s (fun t => Delivers s t c 3 0x280 (stamp96 (now16 s) / 2 ^ 32) ∧ Delivers s t c 3 0x281 (stamp96 (now16 s) % 2 ^ 32)
      ∧ UnitFrame s t c)
    ∧ (k.user = false → o2 s c 16 < 2 ^ 32 →
      (tripOwner s n ≠ c.val → Gives (.tripArm c v) s (fun t => said taNotAssigned t ∧ t.tim.trips[n] = x)
        ∧ Gives (.tripCancel c v) s (fun t => said tcNotAssigned t ∧ t.tim.trips[n] = x))
      ∧ (tripOwner s n = c.val → x.armed = none → cyclesAhead s at' 48 = true → Gives (.tripArm c v) s (fun t => said taArmed t
          ∧ (t.tim.trips[n]).armed = some ⟨at', bit v.toNat 4, 0⟩ ∧ (t.tim.trips[n]).committed = false))
      ∧ (tripOwner s n = c.val → x.armed = none →
          (cyclesAhead s at' 48 = false → Gives (.tripArm c v) s (fun t => said taPast t ∧ t.tim.trips[n] = x))
          ∧ Gives (.tripCancel c v) s (fun t => said tcNone t ∧ t.tim.trips[n] = x))
      ∧ (tripOwner s n = c.val → x.armed.isSome = true → Gives (.tripArm c v) s (fun t => said taBusy t ∧ t.tim.trips[n] = x))
      ∧ (∀ (e : TripAt), tripOwner s n = c.val → x.armed = some e →
          (x.committed = false → cyclesAhead s e.at_ 32 = true →
            Gives (.tripCancel c v) s (fun t => said tcCancelled t ∧ (t.tim.trips[n]).armed = none))
          ∧ (x.committed = true ∨ cyclesAhead s e.at_ 32 = false →
            Gives (.tripCancel c v) s (fun t => said tcTooLate t ∧ t.tim.trips[n] = x))))
    ∧ (∀ (d : CoxId), v.toNat = d.val → d ≠ c → k.mailLev < 4 →
      Gives (.send c v) s (fun t => Delivers s t c 2 0x2A0 (bnat (decide ((core s d).inbox.length < 8)))
        ∧ (core t d).inbox = (if (core s d).inbox.length < 8 then (core s d).inbox ++ [(c.val, o1 s c 17)] else (core s d).inbox)
        ∧ SameMem s t ∧ t.regs = s.regs ∧ SameCore (past s c) (core t c) ∧ ∀ e, e ≠ c → e ≠ d → core t e = core s e))
    ∧ (v.toNat = c.val → k.mailLev < 4 → Gives (.send c v) s (fun t => Delivers s t c 2 0x2A0 (bnat (decide (k.inbox.length < 8)))
        ∧ SameMem s t ∧ t.regs = s.regs
        ∧ CoreIs c { past s c with inbox := if k.inbox.length < 8 then k.inbox ++ [(c.val, o1 s c 17)] else k.inbox } s t))
    ∧ (∀ (f m : Nat) (rest : List (Nat × Nat)), k.mailLev < 4 → k.inbox = (f, m) :: rest → Gives (.recv c v) s (fun t => Delivers s t c 2 0x2A0 m
        ∧ Delivers s t c 2 0x2A1 (2 ^ 63 + f) ∧ SameMem s t ∧ t.regs = s.regs ∧ CoreIs c { past s c with inbox := rest } s t))
    ∧ (k.mailLev < 4 → k.inbox = [] → Gives (.recv c v) s (fun t => Delivers s t c 2 0x2A0 0 ∧ Delivers s t c 2 0x2A1 0 ∧ UnitFrame s t c))

/-- SUBMIT and the handle unit (R63, R174, R231): a submission delivers its admission status; a handle command waits for the
Stakeboat, and the answer to a QUERY of a live handle is delivered when it ends. -/
def Obligations.SubmitAndHandleCommands : Prop :=
  ∀ (c : CoxId) (v : W64) (reg : Region) (index : BitVec 15) (at' : Bool) (s : State),
    let h := o1 s c 14 % 2 ^ 32
    let a := reg.base + v.toNat
    let d := leWords 4 32 (memBytes s a 128)
    let cmd (op : Nat) (i : Nat) (b : Bool) : StkCmd := ⟨op, b, i, o1 s c 15 % 2 ^ 32,
      (List.range 7).map (fun j => operandPort s c 15 (j + 1) % 2 ^ 32)⟩
    let begun (x : StkCmd) (t : State) : Prop := ngetD t.stk.coxCmd c.val [] = ngetD s.stk.coxCmd c.val [] ++ [x]
      ∧ t.stk.table = s.stk.table ∧ UnitFrame s t c
    Quiet s c →
    (v.toNat % 128 = 0 → regionAt s h = .ok reg → reg.rd = true → v.toNat + 128 ≤ reg.len → Open 4 a 128 s → rowForm d = 0 →
      s.vec.pool.length < 64 → Gives (.submit c v) s (fun t => t.vec.status[c] = admissionStatus s [d]
        ∧ Delivers s t c 4 0x240 (admissionStatus s [d])
        ∧ (admissionStatus s [d] = 0 → ∃ j, t.vec.pool = s.vec.pool ++ [j] ∧ j.descs = [d] ∧ j.started = false)
        ∧ (admissionStatus s [d] ≠ 0 → t.vec.pool = s.vec.pool) ∧ UnitFrame s t c))
    ∧ ((core s c).user = false →
      Gives (.create (.core c) at' index) s (begun (cmd 1 index.toNat at'))
      ∧ Gives (.destroy (.core c)) s (begun (cmd 2 0 false))
      ∧ Gives (.query (.core c)) s (begun (cmd 3 0 false))
      ∧ Gives (.reclaim (.core c) index) s (begun (cmd 4 index.toNat false)))
    ∧ (∀ (x : StkCmd) (f : Flight) (t' : State), (core t' c).flight = [f] → f.slow = true → f.unit = 15 → f.land = (core t' c).cyc + 3 → ngetD t'.stk.coxCmd c.val [] = [x] →
      x.op = 3 → checkHandle t' (hKind x.arg) x.arg = 0 → (core t' c).sb = [] →
      Gives (.stkCommandComplete (.core c) false) t' (fun t => (∃ f' ∈ (core t c).flight, f'.slow = false
          ∧ (0x260, x.arg) ∈ f'.writes ∧ (0x262, 0) ∈ f'.writes
          ∧ ∀ j, j < 8 → (0x268 + j, wordAt (entryWords (entryOf t' x.arg)) j) ∈ f'.writes)
        ∧ ngetD t.stk.coxCmd c.val [] = [] ∧ t.stk.table = t'.stk.table ∧ SameMem t' t ∧ t.regs = t'.regs))


/-! ### The Cox cores: issue, fetch, the pipeline -/

/-- Issue and fetch (R203, R204, R236, R240, R241): a fetched bundle with one guarded move between general registers, the others
those of the canonical NOP, issues, its destination taking the source where the guard holds; with its bundle not there yet a cycle
is a bubble, and the arrival puts the bundle into the queue, or its line into the instruction cache. -/
def Piece.BundlesAreFetchedAndIssue : Prop :=
  ∀ (c : CoxId) (w : Nat) (s : State),
    let k := core s c
    (∀ (inv : Bool) (p : Nat) (slot : Fin 4) (d g : Fin 64), Quiet (unpended s c) c → LoopCopyStays k → k.xfer = none → FetchedAhead k w → p < 16 →
      bundleOf k.pc w = ⟨k.pc, false, false, false, false, idleMoves.set slot.val ⟨inv, p, d.val, .port g.val 0, slot.val⟩⟩ →
      Gives (.issueGroup c) s (fun t => SameMem s t ∧ t.regs = s.regs ∧ CoreIs c { past s c with
        g := if (decide (p = 0) || k.preds.testBit p) = inv then k.g else k.g.set d k.g[g] } s t))
    ∧ (∀ (m : Miss), Quiet s c → k.miss = some m → m.va = k.pc → k.queue = [] → k.faulted = [] → k.det = false →
      translate k k.xlate k.user .fetch k.pc = .ok m.pa 1 → Gives (.issueGroup c) s (fun t =>
        t.rd (F64 (.cox c) 0x128) = (s.rd (F64 (.cox c) 0x128) + 1) % 2 ^ 64 ∧ (core t c).cyc = k.cyc + 1
        ∧ SameMem s t ∧ SameRegsBut [at_ (.cox c) 0x128] s t ∧ CoreIs c k s t))
    ∧ (∀ (m : Miss), k.on = true → s.mode ≠ modeBoathouse → k.miss = some m → m.va ∈ fetchWindow k → heldAt k m.va = none → m.cached = false → Open c.val m.pa 16 s →
      Gives (.fetchLineArrival c) s (fun t => (core t c).queue = k.queue ++ [(m.va, .got (leNat (memBytes s m.pa 16)))]
        ∧ (core t c).miss = none ∧ SameMem s t ∧ SameRegsBut [] s t ∧ CoreIs c k s t))
    ∧ (∀ (m : Miss), k.on = true → s.mode ≠ modeBoathouse → k.miss = some m → m.pa % 16 = 0 → m.cached = true → Open c.val (m.pa / 64 * 64) 64 s →
      Gives (.fetchLineArrival c) s (fun t => nget (m.pa / 64) (core t c).icache = some ⟨memBytes s (m.pa / 64 * 64) 64, false, []⟩
        ∧ (core t c).miss = none ∧ SameMem s t ∧ SameRegsBut [] s t ∧ CoreIs c k s t))

/-- The canonical NOP and the all-zero bundle (R202): the NOP bundle, of header 0, holds four moves with guard never from g0 to g0; the
all-zero bundle holds four that move g0 to g0 at every issue; neither changes anything but the pc. -/
def Obligations.TheCanonicalNopChangesNothing : Prop :=
  let moves (inv : Bool) : List Mv := [0, 1, 2, 3].map (fun i => ⟨inv, 0, 0, .port 0 0, i⟩)
  let nop := 0x00800000020000000800000020000000
  bits nop 127 120 = 0 ∧ (∀ i : Fin 4, bits nop (119 - 30 * i.val) (90 - 30 * i.val) = 0x20000000)
  ∧ (∀ va, bundleOf va nop = ⟨va, false, false, false, false, moves true⟩ ∧ bundleOf va 0 = ⟨va, false, false, false, false, moves false⟩)
  ∧ ∀ (c : CoxId) (w : Nat) (s : State), w = nop ∨ w = 0 → Quiet (unpended s c) c → LoopCopyStays (core s c) →
    (core s c).xfer = none → FetchedAhead (core s c) w →
    Gives (.issueGroup c) s (fun t => UnitFrame s t c ∧ (core t c).res = (core s c).res ∧ (core t c).preds = (core s c).preds
      ∧ (core t c).fpenv = (core s c).fpenv)

/-- Operations in flight (R205, R254): a load whose data arrive at its hold point or later writes its result port, one before its
hold point is ready then; the end of another operation comes in its readable cycle, and that of an atomic operation or a SUBMIT, at or
after it, when its result has come (R256; that this row stands for the response is the model's choice, log entry 68). -/
def Piece.OperationsLand : Prop :=
  ∀ (c : CoxId) (f : Flight) (p v : Nat) (s : State),
    let k := core s c
    let landed (t : State) : Prop := nget p (core t c).res = some v ∧ (core t c).flight = [] ∧ SameMem s t ∧ SameRegsBut [] s t
      ∧ CoreIs c k s t
    k.on = true → s.mode ≠ modeBoathouse → k.flight = [f] → f.writes = [(p, v)] → f.exc = none → k.sb = [] →
    (∀ (l : LoadOp), f.slow = false → f.load = some l → l.arrived = false →
      (f.land ≤ k.cyc → Gives (.loadDataArrival c) s landed)
      ∧ (k.cyc < f.land → Gives (.loadDataArrival c) s (fun t => (∃ g ∈ (core t c).flight, g.ready = true ∧ g.writes = [(p, v)]
          ∧ g.land = f.land) ∧ SameMem s t ∧ SameRegsBut [] s t ∧ CoreIs c k s t)))
    ∧ (f.load = none → f.slow = true → f.unit ≠ 15 → f.todo = none → f.land ≤ k.cyc → Gives (.operationComplete c) s landed)
    ∧ (f.load = none → f.slow = false → k.catchup = none → k.miss = none → k.exc = none → k.gap = 0 → k.cyc < f.land →
      Gives (.operationComplete c) s (fun t => landed t ∧ (core t c).cyc = f.land))

/-- The store buffer (R251, R257, R260): its oldest entry, of a deterministic core 4 issue cycles after its store, drains to its target, or into the line of the data cache; an error response
is captured, or counted while one is held. -/
def Piece.StoresDrain : Prop :=
  ∀ (c : CoxId) (s : State),
    let k := core s c
    k.on = true → s.mode ≠ modeBoathouse →
    anyLate k = false →
    (∀ (e : SbEnt) (o : Nat) (bs : List Byte), k.sb = [e] → k.det = false ∨ e.at_ + 4 ≤ k.cyc → e.cached = false → runsOf e.bytes = [(o, bs)] → Open c.val (e.block * 64 + o) bs.length s →
      Gives (.storeBufferDrain c) s (fun t => memBytes t (e.block * 64 + o) bs.length = bs
        ∧ SameMemBut (e.block * 64 + o) bs.length s t ∧ SameRegsBut [] s t ∧ CoreIs c { k with sb := [] } s t))
    ∧ (∀ (e : SbEnt) (l : Line), k.sb = [e] → k.det = false ∨ e.at_ + 4 ≤ k.cyc → e.cached = true → l.bad = [] → nget e.block k.dcache = some l → Gives (.storeBufferDrain c) s (fun t =>
        SameMem s t ∧ t.regs = s.regs
        ∧ CoreIs c { k with sb := [], dcache := (nput e.block ⟨lineWrite l.data e.bytes, true, []⟩ k.dcache) } s t))
    ∧ (∀ (r : SbErr) (rest : List SbErr), k.sbErr = r :: rest →
      let valid := s.rd (F (.cox c) 0x110 31 31)
      Gives (.storeErrorResponse c) s (fun t =>
        (valid = 0 → r.size < 8 → r.kind < 2 → t.rd (F64 (.cox c) 0x108) = r.addr % 2 ^ 64
          ∧ t.rd (F32 (.cox c) 0x110) = 2 ^ 31 + r.resp % 2 ^ 8 * 2 ^ 8 + r.size * 2 ^ 4 + r.kind)
        ∧ (valid = 1 → t.rd (F (.cox c) 0x110 23 16) = min 255 (s.rd (F (.cox c) 0x110 23 16) + 1)
          ∧ t.rd (F64 (.cox c) 0x108) = s.rd (F64 (.cox c) 0x108))
        ∧ SameMem s t ∧ SameRegsBut [at_ (.cox c) 0x108, at_ (.cox c) 0x110] s t ∧ CoreIs c { k with sbErr := rest } s t))

/-- Address and value of the table entry of a level on the way of an address (R300). -/
def entryAddr (base va sh : Nat) : Nat := base + 8 * bits va (sh + 8) sh

/-- Walks (R300 to R302, R307, R309, R310): through three tables to a leaf of the last level, whose translation takes the index
of R307; an entry that is not present ends the walk with no translation, and a malformed one with a walk fault; the group that missed finds it, or fetch holds it with the bundle. -/
def Obligations.WalksEnd : Prop :=
  ∀ (c : CoxId) (w : Walk) (e : Nat → Nat) (s : State),
    let k := core s c
    let a0 := entryAddr w.root w.va 39
    let a (i sh : Nat) : Nat := entryAddr (bits (e i) 43 12 * 4096) w.va sh
    let reads (x i : Nat) : Prop := tableCapable c s x = true ∧ Open c.val x 8 s ∧ leNat (memBytes s x 8) = e i
    let table (level sh i : Nat) : Prop := bit (e i) 0 = true ∧ bit (e i) 1 = false ∧ entryBad level sh (e i) = false
    let frame (k' : Core) (t : State) : Prop := SameMem s t ∧ SameRegsBut [] s t ∧ CoreIs c k' s t
    let fails (cause info addr : Nat) (t : State) : Prop := frame { k with walks := [] } t
      ∧ (w.kind = 1 → ⟨w, cause, info, addr⟩ ∈ (core t c).faulted)
      ∧ (w.kind = 0 → w.root = rootOf (fetchState k).1 → w.va ∈ fetchWindow k → heldAt k w.va = none → ∃ x,
          heldAt (core t c) w.va = some (.bad x) ∧ x.cause = cause ∧ x.addr = w.va % 2 ^ 48 ∧ x.winfo = info ∧ x.waddr = addr)
    k.on = true → s.mode ≠ modeBoathouse → k.walks = [w] → w.kind < 2 → k.staleWalk = false →
    (reads a0 0 → table 0 39 0 → reads (a 0 30) 1 → table 1 30 1 → reads (a 1 21) 2 → table 2 21 2 → reads (a 2 12) 3 →
      bit (e 3) 0 = true → bit (e 3) 1 = true → entryBad 3 12 (e 3) = false →
      let sz := bits (e 3) 11 6
      let v := 2 ^ 63 + sz * 2 ^ 48 + bits w.va 47 0 / 2 ^ sz * 2 ^ sz
      let p := e 3 / 4096 * 4096
      let held := k.tlb.any (fun x => x.2.v == v && x.2.p == p)
      Gives (.walkComplete c) s (frame { k with walks := [], tlb := if held then k.tlb else (nput (fillIndex k) ⟨v, p, false⟩ k.tlb) }))
    ∧ (reads a0 0 → bit (e 0) 0 = false → Gives (.walkComplete c) s (fails (if w.kind = 0 then 1 else 0x10) 0 0))
    ∧ (reads a0 0 → bit (e 0) 0 = true → entryBad 0 39 (e 0) = true → Gives (.walkComplete c) s
        (fails (if w.kind = 0 then 2 else 0x11) (bnat (decide (w.kind = 0)) * 8 + 4) a0))
    ∧ (tableCapable c s a0 = false → Gives (.walkComplete c) s
        (fails (if w.kind = 0 then 2 else 0x11) (bnat (decide (w.kind = 0)) * 8 + 1) a0))

/-- The end of a cache operation (R216): a clean writes a dirty line to its memory, an invalidation drops it, one of the whole
instruction cache empties that and the branch target buffer. -/
def Piece.CacheOperationsEnd : Prop :=
  ∀ (c : CoxId) (op line : Nat) (l : Line) (s : State),
    let k := core s c
    let a := line * 64
    k.on = true → s.mode ≠ modeBoathouse → k.cacheOps = [(op, line)] →
    (op ∈ [0, 2, 4, 5] → k.dcache = [(line, l)] → l.dirty = true → l.bad = [] → l.data.length = 64 → Open c.val a 64 s →
      Gives (.cacheOpDone c) s (fun t => memBytes t a 64 = l.data ∧ SameMemBut a 64 s t ∧ SameRegsBut [] s t
        ∧ CoreIs c { k with cacheOps := [], dcache := if op = 0 ∨ op = 4 then [(line, { l with dirty := false })] else [] } s t))
    ∧ (op = 1 → Gives (.cacheOpDone c) s (fun t => SameMem s t ∧ t.regs = s.regs ∧ nget line (core t c).dcache = none
        ∧ (∀ x, x ≠ line → nget x (core t c).dcache = nget x k.dcache)
        ∧ CoreIs c { k with cacheOps := [], dcache := (core t c).dcache } s t))
    ∧ (op = 3 → Gives (.cacheOpDone c) s (fun t => nget line (core t c).icache = none ∧ SameMem s t ∧ t.regs = s.regs
        ∧ CoreIs c { k with cacheOps := [] } s t))
    ∧ (op = 6 → Gives (.cacheOpDone c) s (fun t => (core t c).icache = [] ∧ (core t c).btb = [] ∧ SameMem s t ∧ t.regs = s.regs
        ∧ CoreIs c { k with cacheOps := [] } s t))

/-! ### The Cox cores: exceptions and interrupts -/

/-- What the live state of a core becomes in a handler of a level (R271): the pc 64 bytes per CAUSE beyond VBASE, MASK the level,
supervisor, no open loop, no transfer; CAUSE and FAULT_ADDR of the level, and the level's save set with the words of the entry. -/
def handler (k : Core) (lev : Fin 4) (cause addr : Nat) (ws : List Nat) : Core :=
  { k with pc := k.vbase + 64 * cause, maskLev := lev.val + 1, user := false, sua := false, loops := [], xfer := none,
           causes := k.causes.set (lev.val + 1) (cause, addr), saves := k.saves.set lev ws }

/-- EXC_STATE shows a level current and active, its state in the save set and no WAIT (R268, R283). -/
def showsLevel (c : CoxId) (lev : Fin 4) (s t : State) : Prop :=
  curLevel t c = lev.val + 1 ∧ waiting t c = false ∧ t.rd (F (.cox c) 0x200 (8 + lev.val) (8 + lev.val)) = 1
  ∧ t.rd (F (.cox c) 0x200 (12 + lev.val) (12 + lev.val)) = 0
  ∧ ∀ i : Fin 4, i ≠ lev → t.rd (F (.cox c) 0x200 (8 + i.val) (8 + i.val)) = s.rd (F (.cox c) 0x200 (8 + i.val) (8 + i.val))

/-- Interrupts and NMI (R268, R269, R271, R278, R279, R283, R284): an input's level is taken and its asserting edge latched where the
input is in edge mode; an interrupt above MASK and the current level is entered at its level with CAUSE 2Fh + level, an NMI at
level 4 with CAUSE 33h; the save set holds the state of the core, which has no operation in flight. -/
def Obligations.InterruptsAreEntered : Prop :=
  ∀ (c : CoxId) (lev : Fin 4) (j : Fin 8) (level : Bool) (s : State),
    let k := core s c
    let cur := curLevel s c
    let entered (cause : Nat) (t : State) : Prop := showsLevel c lev s t ∧ SameMem s t ∧ SameRegsBut [at_ (.cox c) 0x200] s t
      ∧ CoreIs c (handler k lev cause 0 (saveWords k ⟨cause, 0, 0, 0, List.replicate 12 0⟩)) s t
    (k.on = true → s.mode = modePaddle ∨ s.mode = modeRace → k.stuck = false → k.exc = none → k.flight = [] → k.walks = [] →
      k.catchup = none → crewPending k = false → cur < 4 → domState s c.val = 0 → domState s (4 + c.val) = 0 →
      (nmiPend s c = false → irqLevel s c = lev.val + 1 → k.maskLev < lev.val + 1 → cur < lev.val + 1 →
        Gives (.interruptEntry c) s (entered (0x30 + lev.val)))
      ∧ (nmiPend s c = true → lev.val = 3 → Gives (.interruptEntry c) s (entered 0x33)))
    ∧ Gives (.irqInput j level) s (fun t => bit t.cox.irqIn j.val = level ∧ (∀ i, i ≠ j.val → bit t.cox.irqIn i = bit s.cox.irqIn i)
        ∧ (∀ d : CoxId, t.rd (F (.cox d) 0x208 (8 + j.val) (8 + j.val)) =
            (if bit s.cox.irqIn j.val ≠ level ∧ level ≠ bit (s.reg (at_ (.cox d) 0x210)) (8 + j.val) ∧ bit (s.reg (at_ (.cox d) 0x210)) j.val
             then 1 else s.rd (F (.cox d) 0x208 (8 + j.val) (8 + j.val))))
        ∧ t.cox.cores = s.cox.cores ∧ SameMem s t
        ∧ SameRegsBut ((List.finRange 4).map (fun d => at_ (.cox d) 0x208)) s t)

/-- Synchronous exceptions (R270, R271, R280, R283, R284): below level 3 the next level is entered with the exception's CAUSE, at level
3 the NMI level with CAUSE 34h and the original one in the save set; at the NMI level no handler is entered, and the core's fault 1
is reported. -/
def Obligations.SynchronousExceptionsAreEntered : Prop :=
  ∀ (c : CoxId) (lev : Fin 4) (e : Exc) (s : State),
    let k := core s c
    let addr := e.addr % 2 ^ 48
    let rec' := (if e.completion then [e.o1, e.t, e.o2] else [0, 0, 0]) ++ List.replicate 9 0
    let walkRegs := if e.cause = 2 ∨ e.cause = 0x11 then [at_ (.cox c) 0x304, at_ (.cox c) 0x308] else []
    let entered (cause orig : Nat) (t : State) : Prop := showsLevel c lev s t ∧ SameMem s t
      ∧ SameRegsBut (at_ (.cox c) 0x200 :: walkRegs) s t
      ∧ (e.cause = 0x11 → t.rd (F32 (.cox c) 0x304) = e.winfo % 2 ^ 32 ∧ t.rd (F64 (.cox c) 0x308) = e.waddr % 2 ^ 64)
      ∧ CoreIs c (handler k lev cause addr (saveWords k ⟨cause, orig, infoWord e, 0, rec'⟩)) s t
    k.on = true → s.mode = modePaddle ∨ s.mode = modeRace → k.stuck = false → k.exc = some e → k.flight = [] → k.walks = [] → crewPending k = false →
    domState s c.val = 0 → domState s (4 + c.val) = 0 →
    (lev.val < 3 → curLevel s c = lev.val → Gives (.syncExceptionEntry c) s (entered e.cause 0))
    ∧ (lev.val = 3 → curLevel s c = 3 → Gives (.syncExceptionEntry c) s (entered 0x34 e.cause))
    ∧ (curLevel s c = 4 → Gives (.syncExceptionEntry c) s (fun t => (core t c).stuck = true ∧ (core t c).exc = none
        ∧ (.cox c ∉ s.flt.underTest → t.rdBit (fStatus (.cox c)) 1 = true) ∧ SameMem s t
        ∧ SameRegsBut (faultMarks (.cox c)) s t ∧ CoreIs c k s t))

/-- What a user program may not do (R211, R213, R217, R219, R268, R273): a trigger or state port of privilege S raises PRIVILEGE, a
jump to an address that is no bundle's and a loop of no rounds raise ILLEGAL_OP; the group does not issue. -/
def Obligations.GroupsRaiseExceptionsAndDoNotIssue : Prop :=
  ∀ (c : CoxId) (v : W64) (index : BitVec 15) (at' : Bool) (s : State),
    let raises (cause : Nat) (i : Instr) : Prop := Gives i s (fun t => (core t c).exc.map (·.cause) = some cause
      ∧ (core t c).flight = [] ∧ SameMem s t ∧ t.regs = s.regs ∧ CoreIs c (core s c) s t)
    Quiet s c →
    ((core s c).user = true → ∀ i ∈ [.wait c v, .tlbWrite c v, .tlbRead c v, .tlbInvVa c v, .tlbInvAll c v, .tlbBcast c v,
        .saveRead c v, .saveWrite c v, .tripArm c v, .tripCancel c v, .sysStateWrite c 3 v, .sysStateWrite c 4 v,
        .sysStateWrite c 5 v, .sysStateWrite c 6 v, .create (.core c) at' index, .destroy (.core c), .query (.core c),
        .reclaim (.core c) index, .cleanDAll c v, .cleanInvalDAll c v, .invalIAll c v], raises 0xA i)
    ∧ ((core s c).user = true → (core s c).sbErr = [] → (core s c).cacheOps = [] → raises 0xA (.eret c v))
    ∧ (v.toNat % 16 ≠ 0 ∨ 2 ^ 48 ≤ v.toNat → raises 0xB (.jump c v) ∧ raises 0xB (.call c v) ∧ raises 0xB (.ret c v))
    ∧ (v.toNat = 0 ∨ 2 ^ 32 ≤ v.toNat ∨ 2 ≤ (core s c).loops.length → raises 0xB (.loopStart c v))
    ∧ (16 ≤ v.toNat → raises 0xB (.trap c v))


/-! ### Statements of several parts -/

/-- Transactions to on-chip memory. Each of the parts named holds; their docstrings give the rules. -/
def Obligations.ReadsWritesAndAtomicsOfMemory : Prop :=
  Piece.ReadsReturnMemory ∧ Piece.WritesStoreTheirBytes ∧ Piece.AtomicTransactions

/-- The care of the memories. Each of the parts named holds; their docstrings give the rules. -/
def Obligations.ScrubbingRemappingAndMarching : Prop :=
  Piece.ScrubberCorrectsASingleBit ∧ Piece.RowRemapUsesTheNextSpare ∧ Piece.MarchTest

/-- Test access and waiting accesses. Each of the parts named holds; their docstrings give the rules. -/
def Obligations.TestCommandsAndQueuedWrites : Prop :=
  Piece.TestCommandsOnTheTestWord ∧ Piece.QueuedWritesAndWaitingRequests

/-- The register path of the Stakeboat. Each of the parts named holds; their docstrings give the rules. -/
def Obligations.StakeboatCommands : Prop :=
  Piece.StakeboatCommandsBegin ∧ Piece.StakeboatCommandsEnd ∧ Piece.TableErrorMakesHandlesStale

/-- Records in their rings. Each of the parts named holds; their docstrings give the rules. -/
def Obligations.RecordsReachTheirRings : Prop :=
  Piece.RecordsAreWrittenAndPublished ∧ Piece.WaitingRecordsAndHostMessages

/-- Admission. Each of the parts named holds; their docstrings give the rules. -/
def Obligations.DescriptorsAreAdmitted : Prop :=
  Piece.DirectSubmissionAdmits ∧ Piece.RaftGroupAdmittedWhole ∧ Piece.QueueBindings

/-- The start of jobs. Each of the parts named holds; their docstrings give the rules. -/
def Obligations.JobsStart : Prop :=
  Piece.HighestPriorityStarts ∧ Piece.CatchStartsAndResumption

/-- Jobs that stop before their end. Each of the parts named holds; their docstrings give the rules. -/
def Obligations.SuspensionAndCancellation : Prop :=
  Piece.SuspensionSavesAndFrees ∧ Piece.CancelByClass

/-- The transfers of the Mover. Each of the parts named holds; their docstrings give the rules. -/
def Obligations.MoverTransfers : Prop :=
  Piece.MoverMovesWhatItsDescriptorSays ∧ Piece.MoverFollowsTheIndexList

/-- Mover descriptors and channels. Each of the parts named holds; their docstrings give the rules. -/
def Obligations.MoverDescriptorEndsAndChannels : Prop :=
  Piece.MoverDescriptorEnds ∧ Piece.ChannelCommands ∧ Piece.ChannelCommandNeedsAChannel

/-- The host link and the bulk memories. Each of the parts named holds; their docstrings give the rules. -/
def Obligations.HostLinkFlashAndDdr : Prop :=
  Piece.PcieLinkChanges ∧ Piece.MsixUnmaskAndCompletionTimeout ∧ Piece.XspiCommands ∧ Piece.DdrChannelHoldsAndServes

/-- The timebase. Each of the parts named holds; their docstrings give the rules. -/
def Obligations.TimebaseRunsIsSetAndSlewed : Prop :=
  Piece.ThreeCyclesAreTwoNanoseconds ∧ Piece.SetAndStepMoveTheTimebase ∧ Piece.TimebaseRegisters ∧ Piece.PpsLoop

/-- The event inputs. Each of the parts named holds; their docstrings give the rules. -/
def Obligations.EventInputsAndDelayLines : Prop :=
  Piece.EventEdgesAreStampedAndRecorded ∧ Piece.DelayLineCalibration

/-- The trip outputs. Each of the parts named holds; their docstrings give the rules. -/
def Obligations.TripOutputs : Prop :=
  Piece.TripEdgesAreArmedAndCancelled ∧ Piece.TripEdgesAreCommittedAndDriven

/-- The regatta table. Each of the parts named holds; their docstrings give the rules. -/
def Obligations.SlotsAndWindows : Prop :=
  Piece.SlotCommands ∧ Piece.WindowsOpenAndClose

/-- Before and after the edges of windows. Each of the parts named holds; their docstrings give the rules. -/
def Obligations.PreWakeInterruptQueueAndTimers : Prop :=
  Piece.PreWakeAndHandover ∧ Piece.IrqQueueAndTimers

/-- Signal ingest. Each of the parts named holds; their docstrings give the rules. -/
def Obligations.IngestLinksAndBatches : Prop :=
  Piece.IngestLinksComeUpAndAlign ∧ Piece.BatchesAreRecordedOrGatedOut

/-- Frames that arrive. Each of the parts named holds; their docstrings give the rules. -/
def Obligations.FramesReceivedAndForwarded : Prop :=
  Piece.ReceivedFrames ∧ Piece.LinksForwardingAndDuplicates

/-- Frequency, voltage and ratings. Each of the parts named holds; their docstrings give the rules. -/
def Obligations.OperatingPointsAndRatings : Prop :=
  Piece.OperatingPoints ∧ Piece.MonitorsAndRatings

/-- The vault. Each of the parts named holds; their docstrings give the rules. -/
def Obligations.SettingsAndVaultRecords : Prop :=
  Piece.SettingsAreCommitted ∧ Piece.VaultRecordsAndPowerCut

/-- Supervision and self-test. Each of the parts named holds; their docstrings give the rules. -/
def Obligations.UmpireAndErgRuns : Prop :=
  Piece.UmpireAndNmiWait ∧ Piece.ErgRuns

/-- What follows a bundle. Each of the parts named holds; their docstrings give the rules. -/
def Obligations.TransfersTakePlaceAndLoopsTurn : Prop :=
  Piece.TransfersTakePlace ∧ Piece.LoopsOpenTurnAndClose

/-- The pipeline. Each of the parts named holds; their docstrings give the rules. -/
def Obligations.BundlesIssueAndOperationsLand : Prop :=
  Piece.BundlesAreFetchedAndIssue ∧ Piece.OperationsLand

/-- The store buffer and the caches. Each of the parts named holds; their docstrings give the rules. -/
def Obligations.StoresDrainAndCacheOperationsEnd : Prop :=
  Piece.StoresDrain ∧ Piece.CacheOperationsEnd
end

