-- ==== Sys2Proof/Laws/Bits.lean ====
section
/-!
SUPPORT. Bit fields: what a field reads after it, or another, has been written.
-/
namespace Sys2Proof.Machine

theorem bits_lt (x hi lo : Nat) : bits x hi lo < 2 ^ (hi + 1 - lo) := Nat.mod_lt _ (Nat.two_pow_pos _)

theorem bits_testBit (x hi lo i : Nat) : (bits x hi lo).testBit i = (decide (i < hi + 1 - lo) && x.testBit (lo + i)) := by
  simp [bits, Nat.testBit_mod_two_pow, Nat.testBit_div_two_pow, Nat.add_comm]

theorem bits_low (x lo : Nat) : x % 2 ^ lo + x / 2 ^ lo * 2 ^ lo = x := by
  rw [Nat.mul_comm]
  exact Nat.mod_add_div x (2 ^ lo)

/-- The parts of a number: below a field, the field, above it. -/
theorem bits_parts (x hi lo : Nat) :
    x = x % 2 ^ lo + bits x hi lo * 2 ^ lo + x / 2 ^ lo / 2 ^ (hi + 1 - lo) * 2 ^ (hi + 1 - lo) * 2 ^ lo := by
  have h1 := bits_low x lo
  have h2 := bits_low (x / 2 ^ lo) (hi + 1 - lo)
  have h3 := congrArg (· * 2 ^ lo) h2
  simp only [Nat.add_mul] at h3
  simp only [bits]
  omega

theorem putBits_eq (x hi lo v : Nat) :
    putBits x hi lo v
      = x % 2 ^ lo + (v % 2 ^ (hi + 1 - lo) + x / 2 ^ lo / 2 ^ (hi + 1 - lo) * 2 ^ (hi + 1 - lo)) * 2 ^ lo := by
  have h := bits_parts x hi lo
  simp only [putBits, Nat.add_mul]
  omega

theorem putBits_testBit (x hi lo v i : Nat) :
    (putBits x hi lo v).testBit i
      = if lo ≤ i ∧ i < lo + (hi + 1 - lo) then v.testBit (i - lo) else x.testBit i := by
  rw [putBits_eq]
  have hl : x % 2 ^ lo < 2 ^ lo := Nat.mod_lt _ (Nat.two_pow_pos _)
  have hm : v % 2 ^ (hi + 1 - lo) < 2 ^ (hi + 1 - lo) := Nat.mod_lt _ (Nat.two_pow_pos _)
  rw [Nat.add_comm, Nat.mul_comm, Nat.testBit_two_pow_mul_add _ hl, Nat.add_comm (v % _), Nat.mul_comm (x / 2 ^ lo / _),
    Nat.testBit_two_pow_mul_add _ hm]
  by_cases h1 : i < lo
  · have h2 : ¬ (lo ≤ i ∧ i < lo + (hi + 1 - lo)) := by omega
    simp [h1, h2, Nat.testBit_mod_two_pow]
  · by_cases h2 : i - lo < hi + 1 - lo
    · have h3 : lo ≤ i ∧ i < lo + (hi + 1 - lo) := by omega
      simp [h1, h2, h3, Nat.testBit_mod_two_pow]
    · have h3 : ¬ (lo ≤ i ∧ i < lo + (hi + 1 - lo)) := by omega
      have h4 : i - lo - (hi + 1 - lo) + (hi + 1 - lo) + lo = i := by omega
      simp only [h1, h2, h3, if_false, Nat.testBit_div_two_pow]
      congr 1

theorem bits_putBits_self (x hi lo v : Nat) : bits (putBits x hi lo v) hi lo = v % 2 ^ (hi + 1 - lo) := by
  apply Nat.eq_of_testBit_eq
  intro i
  rw [bits_testBit, putBits_testBit, Nat.testBit_mod_two_pow]
  by_cases h : i < hi + 1 - lo
  · have h2 : lo ≤ lo + i ∧ lo + i < lo + (hi + 1 - lo) := by omega
    simp [h, h2]
  · simp [h]

/-- A field reads as before when a field apart from it is written. -/
theorem bits_putBits_other (x hi lo v h l : Nat) (apart : h < lo ∨ lo + (hi + 1 - lo) ≤ l) :
    bits (putBits x hi lo v) h l = bits x h l := by
  apply Nat.eq_of_testBit_eq
  intro i
  rw [bits_testBit, bits_testBit, putBits_testBit]
  by_cases hi' : i < h + 1 - l
  · have h2 : ¬ (lo ≤ l + i ∧ l + i < lo + (hi + 1 - lo)) := by omega
    simp [h2]
  · simp [hi']

/-- A field within the low n bits does not see a truncation to n bits. -/
theorem bits_mod (x hi lo n : Nat) (h : hi < n) : bits (x % 2 ^ n) hi lo = bits x hi lo := by
  apply Nat.eq_of_testBit_eq
  intro i
  rw [bits_testBit, bits_testBit, Nat.testBit_mod_two_pow]
  by_cases hi' : i < hi + 1 - lo
  · have : lo + i < n := by omega
    simp [this]
  · simp [hi']

end Sys2Proof.Machine
end

