-- ==== Sys2Proof/Laws/NMap.lean ====
section
/-!
SUPPORT. Sparse maps: what a key reads after each operation, and that every operation keeps the keys rising.
-/
namespace Sys2Proof.Machine

variable {α : Type}

@[simp] theorem nget_nil (k : Nat) : nget k ([] : NMap α) = none := rfl

@[simp] theorem nget_nput_self (k : Nat) (v : α) (m : NMap α) : nget k (nput k v m) = some v := by
  induction m with
  | nil => simp [nput, nget]
  | cons p m ih =>
    obtain ⟨i, w⟩ := p
    simp only [nput]
    split
    · simp [nget]
    · split
      · simp [nget]
      · simp [nget, *]

theorem nget_nput_other {j k : Nat} (h : j ≠ k) (v : α) (m : NMap α) : nget j (nput k v m) = nget j m := by
  induction m with
  | nil => simp [nput, nget, h.symm]
  | cons p m ih =>
    obtain ⟨i, w⟩ := p
    simp only [nput]
    split
    · next e => subst e; simp [nget, h.symm]
    · split
      · simp [nget, h.symm]
      · simp [nget, ih]

theorem nget_filter {f : Nat → Bool} (k : Nat) (m : NMap α) :
    nget k (m.filter (fun p => f p.1)) = if f k then nget k m else none := by
  induction m with
  | nil => simp
  | cons p m ih =>
    obtain ⟨i, w⟩ := p
    simp only [List.filter_cons]
    by_cases e : i = k
    · subst e
      cases hf : f i <;> simp [hf, nget, ih]
    · cases f i <;> simp [nget, e, ih]

@[simp] theorem nget_ndel_self (k : Nat) (m : NMap α) : nget k (ndel k m) = none := by
  have := nget_filter (f := fun i => decide (i ≠ k)) k m
  simpa [ndel] using this

theorem nget_ndel_other {j k : Nat} (h : j ≠ k) (m : NMap α) : nget j (ndel k m) = nget j m := by
  have := nget_filter (f := fun i => decide (i ≠ k)) j m
  simpa [ndel, h] using this

theorem nget_ndelRange (lo len k : Nat) (m : NMap α) :
    nget k (ndelRange lo len m) = if lo ≤ k ∧ k < lo + len then none else nget k m := by
  have := nget_filter (f := fun i => decide (¬ (lo ≤ i ∧ i < lo + len))) k m
  simp only [ndelRange]
  rw [this]
  by_cases h : lo ≤ k ∧ k < lo + len <;> simp [h]

theorem risingFrom_weaken {a b : Nat} (h : a ≤ b) (m : NMap α) (hr : risingFrom (some b) m = true) :
    risingFrom (some a) m = true := by
  cases m with
  | nil => rfl
  | cons p m =>
    obtain ⟨i, w⟩ := p
    simp only [risingFrom, Bool.and_eq_true, decide_eq_true_eq] at hr ⊢
    exact ⟨Nat.lt_of_le_of_lt h hr.1, hr.2⟩

theorem risingFrom_none {b : Option Nat} (m : NMap α) (hr : risingFrom b m = true) : risingFrom none m = true := by
  cases m with
  | nil => rfl
  | cons p m =>
    obtain ⟨i, w⟩ := p
    simp only [risingFrom, Bool.and_eq_true] at hr ⊢
    exact ⟨trivial, hr.2⟩

theorem risingFrom_nput (k : Nat) (v : α) (m : NMap α) (b : Option Nat) (hb : ∀ x ∈ b, x < k)
    (hr : risingFrom b m = true) : risingFrom b (nput k v m) = true := by
  induction m generalizing b with
  | nil => cases b <;> simp_all [nput, risingFrom]
  | cons p m ih =>
    obtain ⟨i, w⟩ := p
    simp only [risingFrom, Bool.and_eq_true] at hr
    simp only [nput]
    split
    · next e =>
      subst e
      simp only [risingFrom, Bool.and_eq_true]
      exact ⟨by cases b <;> simp_all, hr.2⟩
    · split
      · simp only [risingFrom, Bool.and_eq_true, decide_eq_true_eq]
        exact ⟨by cases b <;> simp_all, by assumption, hr.2⟩
      · simp only [risingFrom, Bool.and_eq_true]
        refine ⟨hr.1, ih (some i) ?_ hr.2⟩
        intro x hx
        cases hx
        omega

theorem rising_nput (k : Nat) (v : α) (m : NMap α) (hr : rising m = true) : rising (nput k v m) = true :=
  risingFrom_nput k v m none (by simp) hr

theorem risingFrom_filter (f : Nat × α → Bool) (m : NMap α) (b : Option Nat) (hr : risingFrom b m = true) :
    risingFrom b (m.filter f) = true := by
  induction m generalizing b with
  | nil => exact hr
  | cons p m ih =>
    obtain ⟨i, w⟩ := p
    simp only [risingFrom, Bool.and_eq_true] at hr
    simp only [List.filter_cons]
    split
    · simp only [risingFrom, Bool.and_eq_true]
      exact ⟨hr.1, ih (some i) hr.2⟩
    · apply ih
      cases b with
      | none => exact risingFrom_none m hr.2
      | some x => exact risingFrom_weaken (Nat.le_of_lt (by simpa using hr.1)) m hr.2

theorem rising_filter (f : Nat × α → Bool) (m : NMap α) (hr : rising m = true) : rising (m.filter f) = true :=
  risingFrom_filter f m none hr

theorem nput_mem {k : Nat} {v : α} {m : NMap α} {p : Nat × α} (h : p ∈ nput k v m) : p = (k, v) ∨ p ∈ m := by
  induction m with
  | nil => simpa [nput] using h
  | cons q m ih =>
    obtain ⟨i, w⟩ := q
    simp only [nput] at h
    split at h
    · rcases List.mem_cons.mp h with h | h
      · exact Or.inl h
      · exact Or.inr (List.mem_cons.mpr (Or.inr h))
    · split at h
      · exact List.mem_cons.mp h
      · rcases List.mem_cons.mp h with h | h
        · exact Or.inr (List.mem_cons.mpr (Or.inl h))
        · rcases ih h with h | h
          · exact Or.inl h
          · exact Or.inr (List.mem_cons.mpr (Or.inr h))

end Sys2Proof.Machine
end

