-- ==== Sys2Proof/Laws/State.lean ====
section
/-!
SUPPORT. What each named update of the state leaves as it was: one lemma for each update and field.
-/
namespace Sys2Proof.Machine


/-! ### State.setReg -/

@[simp] theorem State.setReg_pending (s : State) (a v : Nat) : (s.setReg a v).pending = s.pending := rfl
@[simp] theorem State.setReg_mem (s : State) (a v : Nat) : (s.setReg a v).mem = s.mem := rfl
@[simp] theorem State.setReg_ecc (s : State) (a v : Nat) : (s.setReg a v).ecc = s.ecc := rfl
@[simp] theorem State.setReg_ddrErr (s : State) (a v : Nat) : (s.setReg a v).ddrErr = s.ddrErr := rfl
@[simp] theorem State.setReg_replies (s : State) (a v : Nat) : (s.setReg a v).replies = s.replies := rfl
@[simp] theorem State.setReg_halfWrite (s : State) (a v : Nat) : (s.setReg a v).halfWrite = s.halfWrite := rfl
@[simp] theorem State.setReg_halfRead (s : State) (a v : Nat) : (s.setReg a v).halfRead = s.halfRead := rfl
@[simp] theorem State.setReg_held (s : State) (a v : Nat) : (s.setReg a v).held = s.held := rfl
@[simp] theorem State.setReg_out (s : State) (a v : Nat) : (s.setReg a v).out = s.out := rfl
@[simp] theorem State.setReg_locked (s : State) (a v : Nat) : (s.setReg a v).locked = s.locked := rfl
@[simp] theorem State.setReg_elapsed (s : State) (a v : Nat) : (s.setReg a v).elapsed = s.elapsed := rfl
@[simp] theorem State.setReg_freeCtr (s : State) (a v : Nat) : (s.setReg a v).freeCtr = s.freeCtr := rfl
@[simp] theorem State.setReg_ddrEpoch (s : State) (a v : Nat) : (s.setReg a v).ddrEpoch = s.ddrEpoch := rfl
@[simp] theorem State.setReg_flash0 (s : State) (a v : Nat) : (s.setReg a v).flash0 = s.flash0 := rfl
@[simp] theorem State.setReg_flash1 (s : State) (a v : Nat) : (s.setReg a v).flash1 = s.flash1 := rfl
@[simp] theorem State.setReg_flashSize0 (s : State) (a v : Nat) : (s.setReg a v).flashSize0 = s.flashSize0 := rfl
@[simp] theorem State.setReg_flashSize1 (s : State) (a v : Nat) : (s.setReg a v).flashSize1 = s.flashSize1 := rfl
@[simp] theorem State.setReg_tb (s : State) (a v : Nat) : (s.setReg a v).tb = s.tb := rfl
@[simp] theorem State.setReg_stk (s : State) (a v : Nat) : (s.setReg a v).stk = s.stk := rfl
@[simp] theorem State.setReg_flt (s : State) (a v : Nat) : (s.setReg a v).flt = s.flt := rfl
@[simp] theorem State.setReg_memx (s : State) (a v : Nat) : (s.setReg a v).memx = s.memx := rfl
@[simp] theorem State.setReg_vec (s : State) (a v : Nat) : (s.setReg a v).vec = s.vec := rfl
@[simp] theorem State.setReg_tim (s : State) (a v : Nat) : (s.setReg a v).tim = s.tim := rfl
@[simp] theorem State.setReg_dom (s : State) (a v : Nat) : (s.setReg a v).dom = s.dom := rfl
@[simp] theorem State.setReg_io (s : State) (a v : Nat) : (s.setReg a v).io = s.io := rfl
@[simp] theorem State.setReg_host (s : State) (a v : Nat) : (s.setReg a v).host = s.host := rfl
@[simp] theorem State.setReg_cox (s : State) (a v : Nat) : (s.setReg a v).cox = s.cox := rfl
@[simp] theorem State.setReg_cus (s : State) (a v : Nat) : (s.setReg a v).cus = s.cus := rfl
@[simp] theorem State.setReg_pow (s : State) (a v : Nat) : (s.setReg a v).pow = s.pow := rfl
@[simp] theorem State.setReg_dbg (s : State) (a v : Nat) : (s.setReg a v).dbg = s.dbg := rfl

/-! ### State.wr -/

@[simp] theorem State.wr_pending (s : State) (f : Fld) (v : Nat) : (s.wr f v).pending = s.pending := rfl
@[simp] theorem State.wr_mem (s : State) (f : Fld) (v : Nat) : (s.wr f v).mem = s.mem := rfl
@[simp] theorem State.wr_ecc (s : State) (f : Fld) (v : Nat) : (s.wr f v).ecc = s.ecc := rfl
@[simp] theorem State.wr_ddrErr (s : State) (f : Fld) (v : Nat) : (s.wr f v).ddrErr = s.ddrErr := rfl
@[simp] theorem State.wr_replies (s : State) (f : Fld) (v : Nat) : (s.wr f v).replies = s.replies := rfl
@[simp] theorem State.wr_halfWrite (s : State) (f : Fld) (v : Nat) : (s.wr f v).halfWrite = s.halfWrite := rfl
@[simp] theorem State.wr_halfRead (s : State) (f : Fld) (v : Nat) : (s.wr f v).halfRead = s.halfRead := rfl
@[simp] theorem State.wr_held (s : State) (f : Fld) (v : Nat) : (s.wr f v).held = s.held := rfl
@[simp] theorem State.wr_out (s : State) (f : Fld) (v : Nat) : (s.wr f v).out = s.out := rfl
@[simp] theorem State.wr_locked (s : State) (f : Fld) (v : Nat) : (s.wr f v).locked = s.locked := rfl
@[simp] theorem State.wr_elapsed (s : State) (f : Fld) (v : Nat) : (s.wr f v).elapsed = s.elapsed := rfl
@[simp] theorem State.wr_freeCtr (s : State) (f : Fld) (v : Nat) : (s.wr f v).freeCtr = s.freeCtr := rfl
@[simp] theorem State.wr_ddrEpoch (s : State) (f : Fld) (v : Nat) : (s.wr f v).ddrEpoch = s.ddrEpoch := rfl
@[simp] theorem State.wr_flash0 (s : State) (f : Fld) (v : Nat) : (s.wr f v).flash0 = s.flash0 := rfl
@[simp] theorem State.wr_flash1 (s : State) (f : Fld) (v : Nat) : (s.wr f v).flash1 = s.flash1 := rfl
@[simp] theorem State.wr_flashSize0 (s : State) (f : Fld) (v : Nat) : (s.wr f v).flashSize0 = s.flashSize0 := rfl
@[simp] theorem State.wr_flashSize1 (s : State) (f : Fld) (v : Nat) : (s.wr f v).flashSize1 = s.flashSize1 := rfl
@[simp] theorem State.wr_tb (s : State) (f : Fld) (v : Nat) : (s.wr f v).tb = s.tb := rfl
@[simp] theorem State.wr_stk (s : State) (f : Fld) (v : Nat) : (s.wr f v).stk = s.stk := rfl
@[simp] theorem State.wr_flt (s : State) (f : Fld) (v : Nat) : (s.wr f v).flt = s.flt := rfl
@[simp] theorem State.wr_memx (s : State) (f : Fld) (v : Nat) : (s.wr f v).memx = s.memx := rfl
@[simp] theorem State.wr_vec (s : State) (f : Fld) (v : Nat) : (s.wr f v).vec = s.vec := rfl
@[simp] theorem State.wr_tim (s : State) (f : Fld) (v : Nat) : (s.wr f v).tim = s.tim := rfl
@[simp] theorem State.wr_dom (s : State) (f : Fld) (v : Nat) : (s.wr f v).dom = s.dom := rfl
@[simp] theorem State.wr_io (s : State) (f : Fld) (v : Nat) : (s.wr f v).io = s.io := rfl
@[simp] theorem State.wr_host (s : State) (f : Fld) (v : Nat) : (s.wr f v).host = s.host := rfl
@[simp] theorem State.wr_cox (s : State) (f : Fld) (v : Nat) : (s.wr f v).cox = s.cox := rfl
@[simp] theorem State.wr_cus (s : State) (f : Fld) (v : Nat) : (s.wr f v).cus = s.cus := rfl
@[simp] theorem State.wr_pow (s : State) (f : Fld) (v : Nat) : (s.wr f v).pow = s.pow := rfl
@[simp] theorem State.wr_dbg (s : State) (f : Fld) (v : Nat) : (s.wr f v).dbg = s.dbg := rfl

/-! ### State.orBit -/

@[simp] theorem State.orBit_pending (s : State) (f : Fld) (i : Nat) : (s.orBit f i).pending = s.pending := rfl
@[simp] theorem State.orBit_mem (s : State) (f : Fld) (i : Nat) : (s.orBit f i).mem = s.mem := rfl
@[simp] theorem State.orBit_ecc (s : State) (f : Fld) (i : Nat) : (s.orBit f i).ecc = s.ecc := rfl
@[simp] theorem State.orBit_ddrErr (s : State) (f : Fld) (i : Nat) : (s.orBit f i).ddrErr = s.ddrErr := rfl
@[simp] theorem State.orBit_replies (s : State) (f : Fld) (i : Nat) : (s.orBit f i).replies = s.replies := rfl
@[simp] theorem State.orBit_halfWrite (s : State) (f : Fld) (i : Nat) : (s.orBit f i).halfWrite = s.halfWrite := rfl
@[simp] theorem State.orBit_halfRead (s : State) (f : Fld) (i : Nat) : (s.orBit f i).halfRead = s.halfRead := rfl
@[simp] theorem State.orBit_held (s : State) (f : Fld) (i : Nat) : (s.orBit f i).held = s.held := rfl
@[simp] theorem State.orBit_out (s : State) (f : Fld) (i : Nat) : (s.orBit f i).out = s.out := rfl
@[simp] theorem State.orBit_locked (s : State) (f : Fld) (i : Nat) : (s.orBit f i).locked = s.locked := rfl
@[simp] theorem State.orBit_elapsed (s : State) (f : Fld) (i : Nat) : (s.orBit f i).elapsed = s.elapsed := rfl
@[simp] theorem State.orBit_freeCtr (s : State) (f : Fld) (i : Nat) : (s.orBit f i).freeCtr = s.freeCtr := rfl
@[simp] theorem State.orBit_ddrEpoch (s : State) (f : Fld) (i : Nat) : (s.orBit f i).ddrEpoch = s.ddrEpoch := rfl
@[simp] theorem State.orBit_flash0 (s : State) (f : Fld) (i : Nat) : (s.orBit f i).flash0 = s.flash0 := rfl
@[simp] theorem State.orBit_flash1 (s : State) (f : Fld) (i : Nat) : (s.orBit f i).flash1 = s.flash1 := rfl
@[simp] theorem State.orBit_flashSize0 (s : State) (f : Fld) (i : Nat) : (s.orBit f i).flashSize0 = s.flashSize0 := rfl
@[simp] theorem State.orBit_flashSize1 (s : State) (f : Fld) (i : Nat) : (s.orBit f i).flashSize1 = s.flashSize1 := rfl
@[simp] theorem State.orBit_tb (s : State) (f : Fld) (i : Nat) : (s.orBit f i).tb = s.tb := rfl
@[simp] theorem State.orBit_stk (s : State) (f : Fld) (i : Nat) : (s.orBit f i).stk = s.stk := rfl
@[simp] theorem State.orBit_flt (s : State) (f : Fld) (i : Nat) : (s.orBit f i).flt = s.flt := rfl
@[simp] theorem State.orBit_memx (s : State) (f : Fld) (i : Nat) : (s.orBit f i).memx = s.memx := rfl
@[simp] theorem State.orBit_vec (s : State) (f : Fld) (i : Nat) : (s.orBit f i).vec = s.vec := rfl
@[simp] theorem State.orBit_tim (s : State) (f : Fld) (i : Nat) : (s.orBit f i).tim = s.tim := rfl
@[simp] theorem State.orBit_dom (s : State) (f : Fld) (i : Nat) : (s.orBit f i).dom = s.dom := rfl
@[simp] theorem State.orBit_io (s : State) (f : Fld) (i : Nat) : (s.orBit f i).io = s.io := rfl
@[simp] theorem State.orBit_host (s : State) (f : Fld) (i : Nat) : (s.orBit f i).host = s.host := rfl
@[simp] theorem State.orBit_cox (s : State) (f : Fld) (i : Nat) : (s.orBit f i).cox = s.cox := rfl
@[simp] theorem State.orBit_cus (s : State) (f : Fld) (i : Nat) : (s.orBit f i).cus = s.cus := rfl
@[simp] theorem State.orBit_pow (s : State) (f : Fld) (i : Nat) : (s.orBit f i).pow = s.pow := rfl
@[simp] theorem State.orBit_dbg (s : State) (f : Fld) (i : Nat) : (s.orBit f i).dbg = s.dbg := rfl

/-! ### State.clrBit -/

@[simp] theorem State.clrBit_pending (s : State) (f : Fld) (i : Nat) : (s.clrBit f i).pending = s.pending := rfl
@[simp] theorem State.clrBit_mem (s : State) (f : Fld) (i : Nat) : (s.clrBit f i).mem = s.mem := rfl
@[simp] theorem State.clrBit_ecc (s : State) (f : Fld) (i : Nat) : (s.clrBit f i).ecc = s.ecc := rfl
@[simp] theorem State.clrBit_ddrErr (s : State) (f : Fld) (i : Nat) : (s.clrBit f i).ddrErr = s.ddrErr := rfl
@[simp] theorem State.clrBit_replies (s : State) (f : Fld) (i : Nat) : (s.clrBit f i).replies = s.replies := rfl
@[simp] theorem State.clrBit_halfWrite (s : State) (f : Fld) (i : Nat) : (s.clrBit f i).halfWrite = s.halfWrite := rfl
@[simp] theorem State.clrBit_halfRead (s : State) (f : Fld) (i : Nat) : (s.clrBit f i).halfRead = s.halfRead := rfl
@[simp] theorem State.clrBit_held (s : State) (f : Fld) (i : Nat) : (s.clrBit f i).held = s.held := rfl
@[simp] theorem State.clrBit_out (s : State) (f : Fld) (i : Nat) : (s.clrBit f i).out = s.out := rfl
@[simp] theorem State.clrBit_locked (s : State) (f : Fld) (i : Nat) : (s.clrBit f i).locked = s.locked := rfl
@[simp] theorem State.clrBit_elapsed (s : State) (f : Fld) (i : Nat) : (s.clrBit f i).elapsed = s.elapsed := rfl
@[simp] theorem State.clrBit_freeCtr (s : State) (f : Fld) (i : Nat) : (s.clrBit f i).freeCtr = s.freeCtr := rfl
@[simp] theorem State.clrBit_ddrEpoch (s : State) (f : Fld) (i : Nat) : (s.clrBit f i).ddrEpoch = s.ddrEpoch := rfl
@[simp] theorem State.clrBit_flash0 (s : State) (f : Fld) (i : Nat) : (s.clrBit f i).flash0 = s.flash0 := rfl
@[simp] theorem State.clrBit_flash1 (s : State) (f : Fld) (i : Nat) : (s.clrBit f i).flash1 = s.flash1 := rfl
@[simp] theorem State.clrBit_flashSize0 (s : State) (f : Fld) (i : Nat) : (s.clrBit f i).flashSize0 = s.flashSize0 := rfl
@[simp] theorem State.clrBit_flashSize1 (s : State) (f : Fld) (i : Nat) : (s.clrBit f i).flashSize1 = s.flashSize1 := rfl
@[simp] theorem State.clrBit_tb (s : State) (f : Fld) (i : Nat) : (s.clrBit f i).tb = s.tb := rfl
@[simp] theorem State.clrBit_stk (s : State) (f : Fld) (i : Nat) : (s.clrBit f i).stk = s.stk := rfl
@[simp] theorem State.clrBit_flt (s : State) (f : Fld) (i : Nat) : (s.clrBit f i).flt = s.flt := rfl
@[simp] theorem State.clrBit_memx (s : State) (f : Fld) (i : Nat) : (s.clrBit f i).memx = s.memx := rfl
@[simp] theorem State.clrBit_vec (s : State) (f : Fld) (i : Nat) : (s.clrBit f i).vec = s.vec := rfl
@[simp] theorem State.clrBit_tim (s : State) (f : Fld) (i : Nat) : (s.clrBit f i).tim = s.tim := rfl
@[simp] theorem State.clrBit_dom (s : State) (f : Fld) (i : Nat) : (s.clrBit f i).dom = s.dom := rfl
@[simp] theorem State.clrBit_io (s : State) (f : Fld) (i : Nat) : (s.clrBit f i).io = s.io := rfl
@[simp] theorem State.clrBit_host (s : State) (f : Fld) (i : Nat) : (s.clrBit f i).host = s.host := rfl
@[simp] theorem State.clrBit_cox (s : State) (f : Fld) (i : Nat) : (s.clrBit f i).cox = s.cox := rfl
@[simp] theorem State.clrBit_cus (s : State) (f : Fld) (i : Nat) : (s.clrBit f i).cus = s.cus := rfl
@[simp] theorem State.clrBit_pow (s : State) (f : Fld) (i : Nat) : (s.clrBit f i).pow = s.pow := rfl
@[simp] theorem State.clrBit_dbg (s : State) (f : Fld) (i : Nat) : (s.clrBit f i).dbg = s.dbg := rfl

/-! ### State.count -/

@[simp] theorem State.count_pending (s : State) (f : Fld) (d : Nat) : (s.count f d).pending = s.pending := rfl
@[simp] theorem State.count_mem (s : State) (f : Fld) (d : Nat) : (s.count f d).mem = s.mem := rfl
@[simp] theorem State.count_ecc (s : State) (f : Fld) (d : Nat) : (s.count f d).ecc = s.ecc := rfl
@[simp] theorem State.count_ddrErr (s : State) (f : Fld) (d : Nat) : (s.count f d).ddrErr = s.ddrErr := rfl
@[simp] theorem State.count_replies (s : State) (f : Fld) (d : Nat) : (s.count f d).replies = s.replies := rfl
@[simp] theorem State.count_halfWrite (s : State) (f : Fld) (d : Nat) : (s.count f d).halfWrite = s.halfWrite := rfl
@[simp] theorem State.count_halfRead (s : State) (f : Fld) (d : Nat) : (s.count f d).halfRead = s.halfRead := rfl
@[simp] theorem State.count_held (s : State) (f : Fld) (d : Nat) : (s.count f d).held = s.held := rfl
@[simp] theorem State.count_out (s : State) (f : Fld) (d : Nat) : (s.count f d).out = s.out := rfl
@[simp] theorem State.count_locked (s : State) (f : Fld) (d : Nat) : (s.count f d).locked = s.locked := rfl
@[simp] theorem State.count_elapsed (s : State) (f : Fld) (d : Nat) : (s.count f d).elapsed = s.elapsed := rfl
@[simp] theorem State.count_freeCtr (s : State) (f : Fld) (d : Nat) : (s.count f d).freeCtr = s.freeCtr := rfl
@[simp] theorem State.count_ddrEpoch (s : State) (f : Fld) (d : Nat) : (s.count f d).ddrEpoch = s.ddrEpoch := rfl
@[simp] theorem State.count_flash0 (s : State) (f : Fld) (d : Nat) : (s.count f d).flash0 = s.flash0 := rfl
@[simp] theorem State.count_flash1 (s : State) (f : Fld) (d : Nat) : (s.count f d).flash1 = s.flash1 := rfl
@[simp] theorem State.count_flashSize0 (s : State) (f : Fld) (d : Nat) : (s.count f d).flashSize0 = s.flashSize0 := rfl
@[simp] theorem State.count_flashSize1 (s : State) (f : Fld) (d : Nat) : (s.count f d).flashSize1 = s.flashSize1 := rfl
@[simp] theorem State.count_tb (s : State) (f : Fld) (d : Nat) : (s.count f d).tb = s.tb := rfl
@[simp] theorem State.count_stk (s : State) (f : Fld) (d : Nat) : (s.count f d).stk = s.stk := rfl
@[simp] theorem State.count_flt (s : State) (f : Fld) (d : Nat) : (s.count f d).flt = s.flt := rfl
@[simp] theorem State.count_memx (s : State) (f : Fld) (d : Nat) : (s.count f d).memx = s.memx := rfl
@[simp] theorem State.count_vec (s : State) (f : Fld) (d : Nat) : (s.count f d).vec = s.vec := rfl
@[simp] theorem State.count_tim (s : State) (f : Fld) (d : Nat) : (s.count f d).tim = s.tim := rfl
@[simp] theorem State.count_dom (s : State) (f : Fld) (d : Nat) : (s.count f d).dom = s.dom := rfl
@[simp] theorem State.count_io (s : State) (f : Fld) (d : Nat) : (s.count f d).io = s.io := rfl
@[simp] theorem State.count_host (s : State) (f : Fld) (d : Nat) : (s.count f d).host = s.host := rfl
@[simp] theorem State.count_cox (s : State) (f : Fld) (d : Nat) : (s.count f d).cox = s.cox := rfl
@[simp] theorem State.count_cus (s : State) (f : Fld) (d : Nat) : (s.count f d).cus = s.cus := rfl
@[simp] theorem State.count_pow (s : State) (f : Fld) (d : Nat) : (s.count f d).pow = s.pow := rfl
@[simp] theorem State.count_dbg (s : State) (f : Fld) (d : Nat) : (s.count f d).dbg = s.dbg := rfl

/-! ### State.countSat -/

@[simp] theorem State.countSat_pending (s : State) (f : Fld) (d : Nat) : (s.countSat f d).pending = s.pending := rfl
@[simp] theorem State.countSat_mem (s : State) (f : Fld) (d : Nat) : (s.countSat f d).mem = s.mem := rfl
@[simp] theorem State.countSat_ecc (s : State) (f : Fld) (d : Nat) : (s.countSat f d).ecc = s.ecc := rfl
@[simp] theorem State.countSat_ddrErr (s : State) (f : Fld) (d : Nat) : (s.countSat f d).ddrErr = s.ddrErr := rfl
@[simp] theorem State.countSat_replies (s : State) (f : Fld) (d : Nat) : (s.countSat f d).replies = s.replies := rfl
@[simp] theorem State.countSat_halfWrite (s : State) (f : Fld) (d : Nat) : (s.countSat f d).halfWrite = s.halfWrite := rfl
@[simp] theorem State.countSat_halfRead (s : State) (f : Fld) (d : Nat) : (s.countSat f d).halfRead = s.halfRead := rfl
@[simp] theorem State.countSat_held (s : State) (f : Fld) (d : Nat) : (s.countSat f d).held = s.held := rfl
@[simp] theorem State.countSat_out (s : State) (f : Fld) (d : Nat) : (s.countSat f d).out = s.out := rfl
@[simp] theorem State.countSat_locked (s : State) (f : Fld) (d : Nat) : (s.countSat f d).locked = s.locked := rfl
@[simp] theorem State.countSat_elapsed (s : State) (f : Fld) (d : Nat) : (s.countSat f d).elapsed = s.elapsed := rfl
@[simp] theorem State.countSat_freeCtr (s : State) (f : Fld) (d : Nat) : (s.countSat f d).freeCtr = s.freeCtr := rfl
@[simp] theorem State.countSat_ddrEpoch (s : State) (f : Fld) (d : Nat) : (s.countSat f d).ddrEpoch = s.ddrEpoch := rfl
@[simp] theorem State.countSat_flash0 (s : State) (f : Fld) (d : Nat) : (s.countSat f d).flash0 = s.flash0 := rfl
@[simp] theorem State.countSat_flash1 (s : State) (f : Fld) (d : Nat) : (s.countSat f d).flash1 = s.flash1 := rfl
@[simp] theorem State.countSat_flashSize0 (s : State) (f : Fld) (d : Nat) : (s.countSat f d).flashSize0 = s.flashSize0 := rfl
@[simp] theorem State.countSat_flashSize1 (s : State) (f : Fld) (d : Nat) : (s.countSat f d).flashSize1 = s.flashSize1 := rfl
@[simp] theorem State.countSat_tb (s : State) (f : Fld) (d : Nat) : (s.countSat f d).tb = s.tb := rfl
@[simp] theorem State.countSat_stk (s : State) (f : Fld) (d : Nat) : (s.countSat f d).stk = s.stk := rfl
@[simp] theorem State.countSat_flt (s : State) (f : Fld) (d : Nat) : (s.countSat f d).flt = s.flt := rfl
@[simp] theorem State.countSat_memx (s : State) (f : Fld) (d : Nat) : (s.countSat f d).memx = s.memx := rfl
@[simp] theorem State.countSat_vec (s : State) (f : Fld) (d : Nat) : (s.countSat f d).vec = s.vec := rfl
@[simp] theorem State.countSat_tim (s : State) (f : Fld) (d : Nat) : (s.countSat f d).tim = s.tim := rfl
@[simp] theorem State.countSat_dom (s : State) (f : Fld) (d : Nat) : (s.countSat f d).dom = s.dom := rfl
@[simp] theorem State.countSat_io (s : State) (f : Fld) (d : Nat) : (s.countSat f d).io = s.io := rfl
@[simp] theorem State.countSat_host (s : State) (f : Fld) (d : Nat) : (s.countSat f d).host = s.host := rfl
@[simp] theorem State.countSat_cox (s : State) (f : Fld) (d : Nat) : (s.countSat f d).cox = s.cox := rfl
@[simp] theorem State.countSat_cus (s : State) (f : Fld) (d : Nat) : (s.countSat f d).cus = s.cus := rfl
@[simp] theorem State.countSat_pow (s : State) (f : Fld) (d : Nat) : (s.countSat f d).pow = s.pow := rfl
@[simp] theorem State.countSat_dbg (s : State) (f : Fld) (d : Nat) : (s.countSat f d).dbg = s.dbg := rfl

/-! ### setDom -/

@[simp] theorem setDom_pending (s : State) (d v : Nat) : (setDom d v s).pending = s.pending := rfl
@[simp] theorem setDom_mem (s : State) (d v : Nat) : (setDom d v s).mem = s.mem := rfl
@[simp] theorem setDom_ecc (s : State) (d v : Nat) : (setDom d v s).ecc = s.ecc := rfl
@[simp] theorem setDom_ddrErr (s : State) (d v : Nat) : (setDom d v s).ddrErr = s.ddrErr := rfl
@[simp] theorem setDom_replies (s : State) (d v : Nat) : (setDom d v s).replies = s.replies := rfl
@[simp] theorem setDom_halfWrite (s : State) (d v : Nat) : (setDom d v s).halfWrite = s.halfWrite := rfl
@[simp] theorem setDom_halfRead (s : State) (d v : Nat) : (setDom d v s).halfRead = s.halfRead := rfl
@[simp] theorem setDom_held (s : State) (d v : Nat) : (setDom d v s).held = s.held := rfl
@[simp] theorem setDom_out (s : State) (d v : Nat) : (setDom d v s).out = s.out := rfl
@[simp] theorem setDom_locked (s : State) (d v : Nat) : (setDom d v s).locked = s.locked := rfl
@[simp] theorem setDom_elapsed (s : State) (d v : Nat) : (setDom d v s).elapsed = s.elapsed := rfl
@[simp] theorem setDom_freeCtr (s : State) (d v : Nat) : (setDom d v s).freeCtr = s.freeCtr := rfl
@[simp] theorem setDom_ddrEpoch (s : State) (d v : Nat) : (setDom d v s).ddrEpoch = s.ddrEpoch := rfl
@[simp] theorem setDom_flash0 (s : State) (d v : Nat) : (setDom d v s).flash0 = s.flash0 := rfl
@[simp] theorem setDom_flash1 (s : State) (d v : Nat) : (setDom d v s).flash1 = s.flash1 := rfl
@[simp] theorem setDom_flashSize0 (s : State) (d v : Nat) : (setDom d v s).flashSize0 = s.flashSize0 := rfl
@[simp] theorem setDom_flashSize1 (s : State) (d v : Nat) : (setDom d v s).flashSize1 = s.flashSize1 := rfl
@[simp] theorem setDom_tb (s : State) (d v : Nat) : (setDom d v s).tb = s.tb := rfl
@[simp] theorem setDom_stk (s : State) (d v : Nat) : (setDom d v s).stk = s.stk := rfl
@[simp] theorem setDom_flt (s : State) (d v : Nat) : (setDom d v s).flt = s.flt := rfl
@[simp] theorem setDom_memx (s : State) (d v : Nat) : (setDom d v s).memx = s.memx := rfl
@[simp] theorem setDom_vec (s : State) (d v : Nat) : (setDom d v s).vec = s.vec := rfl
@[simp] theorem setDom_tim (s : State) (d v : Nat) : (setDom d v s).tim = s.tim := rfl
@[simp] theorem setDom_dom (s : State) (d v : Nat) : (setDom d v s).dom = s.dom := rfl
@[simp] theorem setDom_io (s : State) (d v : Nat) : (setDom d v s).io = s.io := rfl
@[simp] theorem setDom_host (s : State) (d v : Nat) : (setDom d v s).host = s.host := rfl
@[simp] theorem setDom_cox (s : State) (d v : Nat) : (setDom d v s).cox = s.cox := rfl
@[simp] theorem setDom_cus (s : State) (d v : Nat) : (setDom d v s).cus = s.cus := rfl
@[simp] theorem setDom_pow (s : State) (d v : Nat) : (setDom d v s).pow = s.pow := rfl
@[simp] theorem setDom_dbg (s : State) (d v : Nat) : (setDom d v s).dbg = s.dbg := rfl

/-! ### putByte -/

@[simp] theorem putByte_pending (s : State) (a : Nat) (b : Byte) : (putByte a b s).pending = s.pending := rfl
@[simp] theorem putByte_regs (s : State) (a : Nat) (b : Byte) : (putByte a b s).regs = s.regs := rfl
@[simp] theorem putByte_ecc (s : State) (a : Nat) (b : Byte) : (putByte a b s).ecc = s.ecc := rfl
@[simp] theorem putByte_ddrErr (s : State) (a : Nat) (b : Byte) : (putByte a b s).ddrErr = s.ddrErr := rfl
@[simp] theorem putByte_replies (s : State) (a : Nat) (b : Byte) : (putByte a b s).replies = s.replies := rfl
@[simp] theorem putByte_halfWrite (s : State) (a : Nat) (b : Byte) : (putByte a b s).halfWrite = s.halfWrite := rfl
@[simp] theorem putByte_halfRead (s : State) (a : Nat) (b : Byte) : (putByte a b s).halfRead = s.halfRead := rfl
@[simp] theorem putByte_held (s : State) (a : Nat) (b : Byte) : (putByte a b s).held = s.held := rfl
@[simp] theorem putByte_out (s : State) (a : Nat) (b : Byte) : (putByte a b s).out = s.out := rfl
@[simp] theorem putByte_locked (s : State) (a : Nat) (b : Byte) : (putByte a b s).locked = s.locked := rfl
@[simp] theorem putByte_elapsed (s : State) (a : Nat) (b : Byte) : (putByte a b s).elapsed = s.elapsed := rfl
@[simp] theorem putByte_freeCtr (s : State) (a : Nat) (b : Byte) : (putByte a b s).freeCtr = s.freeCtr := rfl
@[simp] theorem putByte_ddrEpoch (s : State) (a : Nat) (b : Byte) : (putByte a b s).ddrEpoch = s.ddrEpoch := rfl
@[simp] theorem putByte_flash0 (s : State) (a : Nat) (b : Byte) : (putByte a b s).flash0 = s.flash0 := rfl
@[simp] theorem putByte_flash1 (s : State) (a : Nat) (b : Byte) : (putByte a b s).flash1 = s.flash1 := rfl
@[simp] theorem putByte_flashSize0 (s : State) (a : Nat) (b : Byte) : (putByte a b s).flashSize0 = s.flashSize0 := rfl
@[simp] theorem putByte_flashSize1 (s : State) (a : Nat) (b : Byte) : (putByte a b s).flashSize1 = s.flashSize1 := rfl
@[simp] theorem putByte_tb (s : State) (a : Nat) (b : Byte) : (putByte a b s).tb = s.tb := rfl
@[simp] theorem putByte_stk (s : State) (a : Nat) (b : Byte) : (putByte a b s).stk = s.stk := rfl
@[simp] theorem putByte_flt (s : State) (a : Nat) (b : Byte) : (putByte a b s).flt = s.flt := rfl
@[simp] theorem putByte_memx (s : State) (a : Nat) (b : Byte) : (putByte a b s).memx = s.memx := rfl
@[simp] theorem putByte_vec (s : State) (a : Nat) (b : Byte) : (putByte a b s).vec = s.vec := rfl
@[simp] theorem putByte_tim (s : State) (a : Nat) (b : Byte) : (putByte a b s).tim = s.tim := rfl
@[simp] theorem putByte_dom (s : State) (a : Nat) (b : Byte) : (putByte a b s).dom = s.dom := rfl
@[simp] theorem putByte_io (s : State) (a : Nat) (b : Byte) : (putByte a b s).io = s.io := rfl
@[simp] theorem putByte_host (s : State) (a : Nat) (b : Byte) : (putByte a b s).host = s.host := rfl
@[simp] theorem putByte_cox (s : State) (a : Nat) (b : Byte) : (putByte a b s).cox = s.cox := rfl
@[simp] theorem putByte_cus (s : State) (a : Nat) (b : Byte) : (putByte a b s).cus = s.cus := rfl
@[simp] theorem putByte_pow (s : State) (a : Nat) (b : Byte) : (putByte a b s).pow = s.pow := rfl
@[simp] theorem putByte_dbg (s : State) (a : Nat) (b : Byte) : (putByte a b s).dbg = s.dbg := rfl

/-! ### fillZero -/

@[simp] theorem fillZero_pending (s : State) (a n : Nat) : (fillZero a n s).pending = s.pending := rfl
@[simp] theorem fillZero_regs (s : State) (a n : Nat) : (fillZero a n s).regs = s.regs := rfl
@[simp] theorem fillZero_ddrErr (s : State) (a n : Nat) : (fillZero a n s).ddrErr = s.ddrErr := rfl
@[simp] theorem fillZero_replies (s : State) (a n : Nat) : (fillZero a n s).replies = s.replies := rfl
@[simp] theorem fillZero_halfWrite (s : State) (a n : Nat) : (fillZero a n s).halfWrite = s.halfWrite := rfl
@[simp] theorem fillZero_halfRead (s : State) (a n : Nat) : (fillZero a n s).halfRead = s.halfRead := rfl
@[simp] theorem fillZero_held (s : State) (a n : Nat) : (fillZero a n s).held = s.held := rfl
@[simp] theorem fillZero_out (s : State) (a n : Nat) : (fillZero a n s).out = s.out := rfl
@[simp] theorem fillZero_locked (s : State) (a n : Nat) : (fillZero a n s).locked = s.locked := rfl
@[simp] theorem fillZero_elapsed (s : State) (a n : Nat) : (fillZero a n s).elapsed = s.elapsed := rfl
@[simp] theorem fillZero_freeCtr (s : State) (a n : Nat) : (fillZero a n s).freeCtr = s.freeCtr := rfl
@[simp] theorem fillZero_ddrEpoch (s : State) (a n : Nat) : (fillZero a n s).ddrEpoch = s.ddrEpoch := rfl
@[simp] theorem fillZero_flash0 (s : State) (a n : Nat) : (fillZero a n s).flash0 = s.flash0 := rfl
@[simp] theorem fillZero_flash1 (s : State) (a n : Nat) : (fillZero a n s).flash1 = s.flash1 := rfl
@[simp] theorem fillZero_flashSize0 (s : State) (a n : Nat) : (fillZero a n s).flashSize0 = s.flashSize0 := rfl
@[simp] theorem fillZero_flashSize1 (s : State) (a n : Nat) : (fillZero a n s).flashSize1 = s.flashSize1 := rfl
@[simp] theorem fillZero_tb (s : State) (a n : Nat) : (fillZero a n s).tb = s.tb := rfl
@[simp] theorem fillZero_stk (s : State) (a n : Nat) : (fillZero a n s).stk = s.stk := rfl
@[simp] theorem fillZero_flt (s : State) (a n : Nat) : (fillZero a n s).flt = s.flt := rfl
@[simp] theorem fillZero_memx (s : State) (a n : Nat) : (fillZero a n s).memx = s.memx := rfl
@[simp] theorem fillZero_vec (s : State) (a n : Nat) : (fillZero a n s).vec = s.vec := rfl
@[simp] theorem fillZero_tim (s : State) (a n : Nat) : (fillZero a n s).tim = s.tim := rfl
@[simp] theorem fillZero_dom (s : State) (a n : Nat) : (fillZero a n s).dom = s.dom := rfl
@[simp] theorem fillZero_io (s : State) (a n : Nat) : (fillZero a n s).io = s.io := rfl
@[simp] theorem fillZero_host (s : State) (a n : Nat) : (fillZero a n s).host = s.host := rfl
@[simp] theorem fillZero_cox (s : State) (a n : Nat) : (fillZero a n s).cox = s.cox := rfl
@[simp] theorem fillZero_cus (s : State) (a n : Nat) : (fillZero a n s).cus = s.cus := rfl
@[simp] theorem fillZero_pow (s : State) (a n : Nat) : (fillZero a n s).pow = s.pow := rfl
@[simp] theorem fillZero_dbg (s : State) (a n : Nat) : (fillZero a n s).dbg = s.dbg := rfl

/-! ### setPattern -/

@[simp] theorem setPattern_pending (s : State) (wa : Nat) (e : BitVec 72) : (setPattern wa e s).pending = s.pending := rfl
@[simp] theorem setPattern_regs (s : State) (wa : Nat) (e : BitVec 72) : (setPattern wa e s).regs = s.regs := rfl
@[simp] theorem setPattern_mem (s : State) (wa : Nat) (e : BitVec 72) : (setPattern wa e s).mem = s.mem := rfl
@[simp] theorem setPattern_ddrErr (s : State) (wa : Nat) (e : BitVec 72) : (setPattern wa e s).ddrErr = s.ddrErr := rfl
@[simp] theorem setPattern_replies (s : State) (wa : Nat) (e : BitVec 72) : (setPattern wa e s).replies = s.replies := rfl
@[simp] theorem setPattern_halfWrite (s : State) (wa : Nat) (e : BitVec 72) : (setPattern wa e s).halfWrite = s.halfWrite := rfl
@[simp] theorem setPattern_halfRead (s : State) (wa : Nat) (e : BitVec 72) : (setPattern wa e s).halfRead = s.halfRead := rfl
@[simp] theorem setPattern_held (s : State) (wa : Nat) (e : BitVec 72) : (setPattern wa e s).held = s.held := rfl
@[simp] theorem setPattern_out (s : State) (wa : Nat) (e : BitVec 72) : (setPattern wa e s).out = s.out := rfl
@[simp] theorem setPattern_locked (s : State) (wa : Nat) (e : BitVec 72) : (setPattern wa e s).locked = s.locked := rfl
@[simp] theorem setPattern_elapsed (s : State) (wa : Nat) (e : BitVec 72) : (setPattern wa e s).elapsed = s.elapsed := rfl
@[simp] theorem setPattern_freeCtr (s : State) (wa : Nat) (e : BitVec 72) : (setPattern wa e s).freeCtr = s.freeCtr := rfl
@[simp] theorem setPattern_ddrEpoch (s : State) (wa : Nat) (e : BitVec 72) : (setPattern wa e s).ddrEpoch = s.ddrEpoch := rfl
@[simp] theorem setPattern_flash0 (s : State) (wa : Nat) (e : BitVec 72) : (setPattern wa e s).flash0 = s.flash0 := rfl
@[simp] theorem setPattern_flash1 (s : State) (wa : Nat) (e : BitVec 72) : (setPattern wa e s).flash1 = s.flash1 := rfl
@[simp] theorem setPattern_flashSize0 (s : State) (wa : Nat) (e : BitVec 72) : (setPattern wa e s).flashSize0 = s.flashSize0 := rfl
@[simp] theorem setPattern_flashSize1 (s : State) (wa : Nat) (e : BitVec 72) : (setPattern wa e s).flashSize1 = s.flashSize1 := rfl
@[simp] theorem setPattern_tb (s : State) (wa : Nat) (e : BitVec 72) : (setPattern wa e s).tb = s.tb := rfl
@[simp] theorem setPattern_stk (s : State) (wa : Nat) (e : BitVec 72) : (setPattern wa e s).stk = s.stk := rfl
@[simp] theorem setPattern_flt (s : State) (wa : Nat) (e : BitVec 72) : (setPattern wa e s).flt = s.flt := rfl
@[simp] theorem setPattern_memx (s : State) (wa : Nat) (e : BitVec 72) : (setPattern wa e s).memx = s.memx := rfl
@[simp] theorem setPattern_vec (s : State) (wa : Nat) (e : BitVec 72) : (setPattern wa e s).vec = s.vec := rfl
@[simp] theorem setPattern_tim (s : State) (wa : Nat) (e : BitVec 72) : (setPattern wa e s).tim = s.tim := rfl
@[simp] theorem setPattern_dom (s : State) (wa : Nat) (e : BitVec 72) : (setPattern wa e s).dom = s.dom := rfl
@[simp] theorem setPattern_io (s : State) (wa : Nat) (e : BitVec 72) : (setPattern wa e s).io = s.io := rfl
@[simp] theorem setPattern_host (s : State) (wa : Nat) (e : BitVec 72) : (setPattern wa e s).host = s.host := rfl
@[simp] theorem setPattern_cox (s : State) (wa : Nat) (e : BitVec 72) : (setPattern wa e s).cox = s.cox := rfl
@[simp] theorem setPattern_cus (s : State) (wa : Nat) (e : BitVec 72) : (setPattern wa e s).cus = s.cus := rfl
@[simp] theorem setPattern_pow (s : State) (wa : Nat) (e : BitVec 72) : (setPattern wa e s).pow = s.pow := rfl
@[simp] theorem setPattern_dbg (s : State) (wa : Nat) (e : BitVec 72) : (setPattern wa e s).dbg = s.dbg := rfl

/-! ### driveFault -/

@[simp] theorem driveFault_pending (s : State) : (driveFault s).pending = s.pending := rfl
@[simp] theorem driveFault_regs (s : State) : (driveFault s).regs = s.regs := rfl
@[simp] theorem driveFault_mem (s : State) : (driveFault s).mem = s.mem := rfl
@[simp] theorem driveFault_ecc (s : State) : (driveFault s).ecc = s.ecc := rfl
@[simp] theorem driveFault_ddrErr (s : State) : (driveFault s).ddrErr = s.ddrErr := rfl
@[simp] theorem driveFault_replies (s : State) : (driveFault s).replies = s.replies := rfl
@[simp] theorem driveFault_halfWrite (s : State) : (driveFault s).halfWrite = s.halfWrite := rfl
@[simp] theorem driveFault_halfRead (s : State) : (driveFault s).halfRead = s.halfRead := rfl
@[simp] theorem driveFault_held (s : State) : (driveFault s).held = s.held := rfl
@[simp] theorem driveFault_out (s : State) : (driveFault s).out = s.out := rfl
@[simp] theorem driveFault_locked (s : State) : (driveFault s).locked = s.locked := rfl
@[simp] theorem driveFault_elapsed (s : State) : (driveFault s).elapsed = s.elapsed := rfl
@[simp] theorem driveFault_freeCtr (s : State) : (driveFault s).freeCtr = s.freeCtr := rfl
@[simp] theorem driveFault_ddrEpoch (s : State) : (driveFault s).ddrEpoch = s.ddrEpoch := rfl
@[simp] theorem driveFault_flash0 (s : State) : (driveFault s).flash0 = s.flash0 := rfl
@[simp] theorem driveFault_flash1 (s : State) : (driveFault s).flash1 = s.flash1 := rfl
@[simp] theorem driveFault_flashSize0 (s : State) : (driveFault s).flashSize0 = s.flashSize0 := rfl
@[simp] theorem driveFault_flashSize1 (s : State) : (driveFault s).flashSize1 = s.flashSize1 := rfl
@[simp] theorem driveFault_tb (s : State) : (driveFault s).tb = s.tb := rfl
@[simp] theorem driveFault_stk (s : State) : (driveFault s).stk = s.stk := rfl
@[simp] theorem driveFault_memx (s : State) : (driveFault s).memx = s.memx := rfl
@[simp] theorem driveFault_vec (s : State) : (driveFault s).vec = s.vec := rfl
@[simp] theorem driveFault_tim (s : State) : (driveFault s).tim = s.tim := rfl
@[simp] theorem driveFault_dom (s : State) : (driveFault s).dom = s.dom := rfl
@[simp] theorem driveFault_io (s : State) : (driveFault s).io = s.io := rfl
@[simp] theorem driveFault_host (s : State) : (driveFault s).host = s.host := rfl
@[simp] theorem driveFault_cox (s : State) : (driveFault s).cox = s.cox := rfl
@[simp] theorem driveFault_cus (s : State) : (driveFault s).cus = s.cus := rfl
@[simp] theorem driveFault_pow (s : State) : (driveFault s).pow = s.pow := rfl
@[simp] theorem driveFault_dbg (s : State) : (driveFault s).dbg = s.dbg := rfl

/-! ### setCore -/

@[simp] theorem setCore_pending (s : State) (c : CoxId) (k : Core) : (setCore c k s).pending = s.pending := rfl
@[simp] theorem setCore_regs (s : State) (c : CoxId) (k : Core) : (setCore c k s).regs = s.regs := rfl
@[simp] theorem setCore_mem (s : State) (c : CoxId) (k : Core) : (setCore c k s).mem = s.mem := rfl
@[simp] theorem setCore_ecc (s : State) (c : CoxId) (k : Core) : (setCore c k s).ecc = s.ecc := rfl
@[simp] theorem setCore_ddrErr (s : State) (c : CoxId) (k : Core) : (setCore c k s).ddrErr = s.ddrErr := rfl
@[simp] theorem setCore_replies (s : State) (c : CoxId) (k : Core) : (setCore c k s).replies = s.replies := rfl
@[simp] theorem setCore_halfWrite (s : State) (c : CoxId) (k : Core) : (setCore c k s).halfWrite = s.halfWrite := rfl
@[simp] theorem setCore_halfRead (s : State) (c : CoxId) (k : Core) : (setCore c k s).halfRead = s.halfRead := rfl
@[simp] theorem setCore_held (s : State) (c : CoxId) (k : Core) : (setCore c k s).held = s.held := rfl
@[simp] theorem setCore_out (s : State) (c : CoxId) (k : Core) : (setCore c k s).out = s.out := rfl
@[simp] theorem setCore_locked (s : State) (c : CoxId) (k : Core) : (setCore c k s).locked = s.locked := rfl
@[simp] theorem setCore_elapsed (s : State) (c : CoxId) (k : Core) : (setCore c k s).elapsed = s.elapsed := rfl
@[simp] theorem setCore_freeCtr (s : State) (c : CoxId) (k : Core) : (setCore c k s).freeCtr = s.freeCtr := rfl
@[simp] theorem setCore_ddrEpoch (s : State) (c : CoxId) (k : Core) : (setCore c k s).ddrEpoch = s.ddrEpoch := rfl
@[simp] theorem setCore_flash0 (s : State) (c : CoxId) (k : Core) : (setCore c k s).flash0 = s.flash0 := rfl
@[simp] theorem setCore_flash1 (s : State) (c : CoxId) (k : Core) : (setCore c k s).flash1 = s.flash1 := rfl
@[simp] theorem setCore_flashSize0 (s : State) (c : CoxId) (k : Core) : (setCore c k s).flashSize0 = s.flashSize0 := rfl
@[simp] theorem setCore_flashSize1 (s : State) (c : CoxId) (k : Core) : (setCore c k s).flashSize1 = s.flashSize1 := rfl
@[simp] theorem setCore_tb (s : State) (c : CoxId) (k : Core) : (setCore c k s).tb = s.tb := rfl
@[simp] theorem setCore_stk (s : State) (c : CoxId) (k : Core) : (setCore c k s).stk = s.stk := rfl
@[simp] theorem setCore_flt (s : State) (c : CoxId) (k : Core) : (setCore c k s).flt = s.flt := rfl
@[simp] theorem setCore_memx (s : State) (c : CoxId) (k : Core) : (setCore c k s).memx = s.memx := rfl
@[simp] theorem setCore_vec (s : State) (c : CoxId) (k : Core) : (setCore c k s).vec = s.vec := rfl
@[simp] theorem setCore_tim (s : State) (c : CoxId) (k : Core) : (setCore c k s).tim = s.tim := rfl
@[simp] theorem setCore_dom (s : State) (c : CoxId) (k : Core) : (setCore c k s).dom = s.dom := rfl
@[simp] theorem setCore_io (s : State) (c : CoxId) (k : Core) : (setCore c k s).io = s.io := rfl
@[simp] theorem setCore_host (s : State) (c : CoxId) (k : Core) : (setCore c k s).host = s.host := rfl
@[simp] theorem setCore_cus (s : State) (c : CoxId) (k : Core) : (setCore c k s).cus = s.cus := rfl
@[simp] theorem setCore_pow (s : State) (c : CoxId) (k : Core) : (setCore c k s).pow = s.pow := rfl
@[simp] theorem setCore_dbg (s : State) (c : CoxId) (k : Core) : (setCore c k s).dbg = s.dbg := rfl

/-! ### onCore -/

@[simp] theorem onCore_pending (s : State) (c : CoxId) (f : Core → Core) : (onCore c f s).pending = s.pending := rfl
@[simp] theorem onCore_regs (s : State) (c : CoxId) (f : Core → Core) : (onCore c f s).regs = s.regs := rfl
@[simp] theorem onCore_mem (s : State) (c : CoxId) (f : Core → Core) : (onCore c f s).mem = s.mem := rfl
@[simp] theorem onCore_ecc (s : State) (c : CoxId) (f : Core → Core) : (onCore c f s).ecc = s.ecc := rfl
@[simp] theorem onCore_ddrErr (s : State) (c : CoxId) (f : Core → Core) : (onCore c f s).ddrErr = s.ddrErr := rfl
@[simp] theorem onCore_replies (s : State) (c : CoxId) (f : Core → Core) : (onCore c f s).replies = s.replies := rfl
@[simp] theorem onCore_halfWrite (s : State) (c : CoxId) (f : Core → Core) : (onCore c f s).halfWrite = s.halfWrite := rfl
@[simp] theorem onCore_halfRead (s : State) (c : CoxId) (f : Core → Core) : (onCore c f s).halfRead = s.halfRead := rfl
@[simp] theorem onCore_held (s : State) (c : CoxId) (f : Core → Core) : (onCore c f s).held = s.held := rfl
@[simp] theorem onCore_out (s : State) (c : CoxId) (f : Core → Core) : (onCore c f s).out = s.out := rfl
@[simp] theorem onCore_locked (s : State) (c : CoxId) (f : Core → Core) : (onCore c f s).locked = s.locked := rfl
@[simp] theorem onCore_elapsed (s : State) (c : CoxId) (f : Core → Core) : (onCore c f s).elapsed = s.elapsed := rfl
@[simp] theorem onCore_freeCtr (s : State) (c : CoxId) (f : Core → Core) : (onCore c f s).freeCtr = s.freeCtr := rfl
@[simp] theorem onCore_ddrEpoch (s : State) (c : CoxId) (f : Core → Core) : (onCore c f s).ddrEpoch = s.ddrEpoch := rfl
@[simp] theorem onCore_flash0 (s : State) (c : CoxId) (f : Core → Core) : (onCore c f s).flash0 = s.flash0 := rfl
@[simp] theorem onCore_flash1 (s : State) (c : CoxId) (f : Core → Core) : (onCore c f s).flash1 = s.flash1 := rfl
@[simp] theorem onCore_flashSize0 (s : State) (c : CoxId) (f : Core → Core) : (onCore c f s).flashSize0 = s.flashSize0 := rfl
@[simp] theorem onCore_flashSize1 (s : State) (c : CoxId) (f : Core → Core) : (onCore c f s).flashSize1 = s.flashSize1 := rfl
@[simp] theorem onCore_tb (s : State) (c : CoxId) (f : Core → Core) : (onCore c f s).tb = s.tb := rfl
@[simp] theorem onCore_stk (s : State) (c : CoxId) (f : Core → Core) : (onCore c f s).stk = s.stk := rfl
@[simp] theorem onCore_flt (s : State) (c : CoxId) (f : Core → Core) : (onCore c f s).flt = s.flt := rfl
@[simp] theorem onCore_memx (s : State) (c : CoxId) (f : Core → Core) : (onCore c f s).memx = s.memx := rfl
@[simp] theorem onCore_vec (s : State) (c : CoxId) (f : Core → Core) : (onCore c f s).vec = s.vec := rfl
@[simp] theorem onCore_tim (s : State) (c : CoxId) (f : Core → Core) : (onCore c f s).tim = s.tim := rfl
@[simp] theorem onCore_dom (s : State) (c : CoxId) (f : Core → Core) : (onCore c f s).dom = s.dom := rfl
@[simp] theorem onCore_io (s : State) (c : CoxId) (f : Core → Core) : (onCore c f s).io = s.io := rfl
@[simp] theorem onCore_host (s : State) (c : CoxId) (f : Core → Core) : (onCore c f s).host = s.host := rfl
@[simp] theorem onCore_cus (s : State) (c : CoxId) (f : Core → Core) : (onCore c f s).cus = s.cus := rfl
@[simp] theorem onCore_pow (s : State) (c : CoxId) (f : Core → Core) : (onCore c f s).pow = s.pow := rfl
@[simp] theorem onCore_dbg (s : State) (c : CoxId) (f : Core → Core) : (onCore c f s).dbg = s.dbg := rfl

/-! ### onPow -/

@[simp] theorem onPow_pending (s : State) (f : PowState → PowState) : (onPow f s).pending = s.pending := rfl
@[simp] theorem onPow_regs (s : State) (f : PowState → PowState) : (onPow f s).regs = s.regs := rfl
@[simp] theorem onPow_mem (s : State) (f : PowState → PowState) : (onPow f s).mem = s.mem := rfl
@[simp] theorem onPow_ecc (s : State) (f : PowState → PowState) : (onPow f s).ecc = s.ecc := rfl
@[simp] theorem onPow_ddrErr (s : State) (f : PowState → PowState) : (onPow f s).ddrErr = s.ddrErr := rfl
@[simp] theorem onPow_replies (s : State) (f : PowState → PowState) : (onPow f s).replies = s.replies := rfl
@[simp] theorem onPow_halfWrite (s : State) (f : PowState → PowState) : (onPow f s).halfWrite = s.halfWrite := rfl
@[simp] theorem onPow_halfRead (s : State) (f : PowState → PowState) : (onPow f s).halfRead = s.halfRead := rfl
@[simp] theorem onPow_held (s : State) (f : PowState → PowState) : (onPow f s).held = s.held := rfl
@[simp] theorem onPow_out (s : State) (f : PowState → PowState) : (onPow f s).out = s.out := rfl
@[simp] theorem onPow_locked (s : State) (f : PowState → PowState) : (onPow f s).locked = s.locked := rfl
@[simp] theorem onPow_elapsed (s : State) (f : PowState → PowState) : (onPow f s).elapsed = s.elapsed := rfl
@[simp] theorem onPow_freeCtr (s : State) (f : PowState → PowState) : (onPow f s).freeCtr = s.freeCtr := rfl
@[simp] theorem onPow_ddrEpoch (s : State) (f : PowState → PowState) : (onPow f s).ddrEpoch = s.ddrEpoch := rfl
@[simp] theorem onPow_flash0 (s : State) (f : PowState → PowState) : (onPow f s).flash0 = s.flash0 := rfl
@[simp] theorem onPow_flash1 (s : State) (f : PowState → PowState) : (onPow f s).flash1 = s.flash1 := rfl
@[simp] theorem onPow_flashSize0 (s : State) (f : PowState → PowState) : (onPow f s).flashSize0 = s.flashSize0 := rfl
@[simp] theorem onPow_flashSize1 (s : State) (f : PowState → PowState) : (onPow f s).flashSize1 = s.flashSize1 := rfl
@[simp] theorem onPow_tb (s : State) (f : PowState → PowState) : (onPow f s).tb = s.tb := rfl
@[simp] theorem onPow_stk (s : State) (f : PowState → PowState) : (onPow f s).stk = s.stk := rfl
@[simp] theorem onPow_flt (s : State) (f : PowState → PowState) : (onPow f s).flt = s.flt := rfl
@[simp] theorem onPow_memx (s : State) (f : PowState → PowState) : (onPow f s).memx = s.memx := rfl
@[simp] theorem onPow_vec (s : State) (f : PowState → PowState) : (onPow f s).vec = s.vec := rfl
@[simp] theorem onPow_tim (s : State) (f : PowState → PowState) : (onPow f s).tim = s.tim := rfl
@[simp] theorem onPow_dom (s : State) (f : PowState → PowState) : (onPow f s).dom = s.dom := rfl
@[simp] theorem onPow_io (s : State) (f : PowState → PowState) : (onPow f s).io = s.io := rfl
@[simp] theorem onPow_host (s : State) (f : PowState → PowState) : (onPow f s).host = s.host := rfl
@[simp] theorem onPow_cox (s : State) (f : PowState → PowState) : (onPow f s).cox = s.cox := rfl
@[simp] theorem onPow_cus (s : State) (f : PowState → PowState) : (onPow f s).cus = s.cus := rfl
@[simp] theorem onPow_dbg (s : State) (f : PowState → PowState) : (onPow f s).dbg = s.dbg := rfl

/-! ### onFlt -/

@[simp] theorem onFlt_pending (s : State) (f : FaultState → FaultState) : (onFlt f s).pending = s.pending := rfl
@[simp] theorem onFlt_regs (s : State) (f : FaultState → FaultState) : (onFlt f s).regs = s.regs := rfl
@[simp] theorem onFlt_mem (s : State) (f : FaultState → FaultState) : (onFlt f s).mem = s.mem := rfl
@[simp] theorem onFlt_ecc (s : State) (f : FaultState → FaultState) : (onFlt f s).ecc = s.ecc := rfl
@[simp] theorem onFlt_ddrErr (s : State) (f : FaultState → FaultState) : (onFlt f s).ddrErr = s.ddrErr := rfl
@[simp] theorem onFlt_replies (s : State) (f : FaultState → FaultState) : (onFlt f s).replies = s.replies := rfl
@[simp] theorem onFlt_halfWrite (s : State) (f : FaultState → FaultState) : (onFlt f s).halfWrite = s.halfWrite := rfl
@[simp] theorem onFlt_halfRead (s : State) (f : FaultState → FaultState) : (onFlt f s).halfRead = s.halfRead := rfl
@[simp] theorem onFlt_held (s : State) (f : FaultState → FaultState) : (onFlt f s).held = s.held := rfl
@[simp] theorem onFlt_out (s : State) (f : FaultState → FaultState) : (onFlt f s).out = s.out := rfl
@[simp] theorem onFlt_locked (s : State) (f : FaultState → FaultState) : (onFlt f s).locked = s.locked := rfl
@[simp] theorem onFlt_elapsed (s : State) (f : FaultState → FaultState) : (onFlt f s).elapsed = s.elapsed := rfl
@[simp] theorem onFlt_freeCtr (s : State) (f : FaultState → FaultState) : (onFlt f s).freeCtr = s.freeCtr := rfl
@[simp] theorem onFlt_ddrEpoch (s : State) (f : FaultState → FaultState) : (onFlt f s).ddrEpoch = s.ddrEpoch := rfl
@[simp] theorem onFlt_flash0 (s : State) (f : FaultState → FaultState) : (onFlt f s).flash0 = s.flash0 := rfl
@[simp] theorem onFlt_flash1 (s : State) (f : FaultState → FaultState) : (onFlt f s).flash1 = s.flash1 := rfl
@[simp] theorem onFlt_flashSize0 (s : State) (f : FaultState → FaultState) : (onFlt f s).flashSize0 = s.flashSize0 := rfl
@[simp] theorem onFlt_flashSize1 (s : State) (f : FaultState → FaultState) : (onFlt f s).flashSize1 = s.flashSize1 := rfl
@[simp] theorem onFlt_tb (s : State) (f : FaultState → FaultState) : (onFlt f s).tb = s.tb := rfl
@[simp] theorem onFlt_stk (s : State) (f : FaultState → FaultState) : (onFlt f s).stk = s.stk := rfl
@[simp] theorem onFlt_memx (s : State) (f : FaultState → FaultState) : (onFlt f s).memx = s.memx := rfl
@[simp] theorem onFlt_vec (s : State) (f : FaultState → FaultState) : (onFlt f s).vec = s.vec := rfl
@[simp] theorem onFlt_tim (s : State) (f : FaultState → FaultState) : (onFlt f s).tim = s.tim := rfl
@[simp] theorem onFlt_dom (s : State) (f : FaultState → FaultState) : (onFlt f s).dom = s.dom := rfl
@[simp] theorem onFlt_io (s : State) (f : FaultState → FaultState) : (onFlt f s).io = s.io := rfl
@[simp] theorem onFlt_host (s : State) (f : FaultState → FaultState) : (onFlt f s).host = s.host := rfl
@[simp] theorem onFlt_cox (s : State) (f : FaultState → FaultState) : (onFlt f s).cox = s.cox := rfl
@[simp] theorem onFlt_cus (s : State) (f : FaultState → FaultState) : (onFlt f s).cus = s.cus := rfl
@[simp] theorem onFlt_pow (s : State) (f : FaultState → FaultState) : (onFlt f s).pow = s.pow := rfl
@[simp] theorem onFlt_dbg (s : State) (f : FaultState → FaultState) : (onFlt f s).dbg = s.dbg := rfl

/-! ### onVec -/

@[simp] theorem onVec_pending (s : State) (f : VecState → VecState) : (onVec f s).pending = s.pending := rfl
@[simp] theorem onVec_regs (s : State) (f : VecState → VecState) : (onVec f s).regs = s.regs := rfl
@[simp] theorem onVec_mem (s : State) (f : VecState → VecState) : (onVec f s).mem = s.mem := rfl
@[simp] theorem onVec_ecc (s : State) (f : VecState → VecState) : (onVec f s).ecc = s.ecc := rfl
@[simp] theorem onVec_ddrErr (s : State) (f : VecState → VecState) : (onVec f s).ddrErr = s.ddrErr := rfl
@[simp] theorem onVec_replies (s : State) (f : VecState → VecState) : (onVec f s).replies = s.replies := rfl
@[simp] theorem onVec_halfWrite (s : State) (f : VecState → VecState) : (onVec f s).halfWrite = s.halfWrite := rfl
@[simp] theorem onVec_halfRead (s : State) (f : VecState → VecState) : (onVec f s).halfRead = s.halfRead := rfl
@[simp] theorem onVec_held (s : State) (f : VecState → VecState) : (onVec f s).held = s.held := rfl
@[simp] theorem onVec_out (s : State) (f : VecState → VecState) : (onVec f s).out = s.out := rfl
@[simp] theorem onVec_locked (s : State) (f : VecState → VecState) : (onVec f s).locked = s.locked := rfl
@[simp] theorem onVec_elapsed (s : State) (f : VecState → VecState) : (onVec f s).elapsed = s.elapsed := rfl
@[simp] theorem onVec_freeCtr (s : State) (f : VecState → VecState) : (onVec f s).freeCtr = s.freeCtr := rfl
@[simp] theorem onVec_ddrEpoch (s : State) (f : VecState → VecState) : (onVec f s).ddrEpoch = s.ddrEpoch := rfl
@[simp] theorem onVec_flash0 (s : State) (f : VecState → VecState) : (onVec f s).flash0 = s.flash0 := rfl
@[simp] theorem onVec_flash1 (s : State) (f : VecState → VecState) : (onVec f s).flash1 = s.flash1 := rfl
@[simp] theorem onVec_flashSize0 (s : State) (f : VecState → VecState) : (onVec f s).flashSize0 = s.flashSize0 := rfl
@[simp] theorem onVec_flashSize1 (s : State) (f : VecState → VecState) : (onVec f s).flashSize1 = s.flashSize1 := rfl
@[simp] theorem onVec_tb (s : State) (f : VecState → VecState) : (onVec f s).tb = s.tb := rfl
@[simp] theorem onVec_stk (s : State) (f : VecState → VecState) : (onVec f s).stk = s.stk := rfl
@[simp] theorem onVec_flt (s : State) (f : VecState → VecState) : (onVec f s).flt = s.flt := rfl
@[simp] theorem onVec_memx (s : State) (f : VecState → VecState) : (onVec f s).memx = s.memx := rfl
@[simp] theorem onVec_tim (s : State) (f : VecState → VecState) : (onVec f s).tim = s.tim := rfl
@[simp] theorem onVec_dom (s : State) (f : VecState → VecState) : (onVec f s).dom = s.dom := rfl
@[simp] theorem onVec_io (s : State) (f : VecState → VecState) : (onVec f s).io = s.io := rfl
@[simp] theorem onVec_host (s : State) (f : VecState → VecState) : (onVec f s).host = s.host := rfl
@[simp] theorem onVec_cox (s : State) (f : VecState → VecState) : (onVec f s).cox = s.cox := rfl
@[simp] theorem onVec_cus (s : State) (f : VecState → VecState) : (onVec f s).cus = s.cus := rfl
@[simp] theorem onVec_pow (s : State) (f : VecState → VecState) : (onVec f s).pow = s.pow := rfl
@[simp] theorem onVec_dbg (s : State) (f : VecState → VecState) : (onVec f s).dbg = s.dbg := rfl

/-! ### onCus -/

@[simp] theorem onCus_pending (s : State) (f : CusState → CusState) : (onCus f s).pending = s.pending := rfl
@[simp] theorem onCus_regs (s : State) (f : CusState → CusState) : (onCus f s).regs = s.regs := rfl
@[simp] theorem onCus_mem (s : State) (f : CusState → CusState) : (onCus f s).mem = s.mem := rfl
@[simp] theorem onCus_ecc (s : State) (f : CusState → CusState) : (onCus f s).ecc = s.ecc := rfl
@[simp] theorem onCus_ddrErr (s : State) (f : CusState → CusState) : (onCus f s).ddrErr = s.ddrErr := rfl
@[simp] theorem onCus_replies (s : State) (f : CusState → CusState) : (onCus f s).replies = s.replies := rfl
@[simp] theorem onCus_halfWrite (s : State) (f : CusState → CusState) : (onCus f s).halfWrite = s.halfWrite := rfl
@[simp] theorem onCus_halfRead (s : State) (f : CusState → CusState) : (onCus f s).halfRead = s.halfRead := rfl
@[simp] theorem onCus_held (s : State) (f : CusState → CusState) : (onCus f s).held = s.held := rfl
@[simp] theorem onCus_out (s : State) (f : CusState → CusState) : (onCus f s).out = s.out := rfl
@[simp] theorem onCus_locked (s : State) (f : CusState → CusState) : (onCus f s).locked = s.locked := rfl
@[simp] theorem onCus_elapsed (s : State) (f : CusState → CusState) : (onCus f s).elapsed = s.elapsed := rfl
@[simp] theorem onCus_freeCtr (s : State) (f : CusState → CusState) : (onCus f s).freeCtr = s.freeCtr := rfl
@[simp] theorem onCus_ddrEpoch (s : State) (f : CusState → CusState) : (onCus f s).ddrEpoch = s.ddrEpoch := rfl
@[simp] theorem onCus_flash0 (s : State) (f : CusState → CusState) : (onCus f s).flash0 = s.flash0 := rfl
@[simp] theorem onCus_flash1 (s : State) (f : CusState → CusState) : (onCus f s).flash1 = s.flash1 := rfl
@[simp] theorem onCus_flashSize0 (s : State) (f : CusState → CusState) : (onCus f s).flashSize0 = s.flashSize0 := rfl
@[simp] theorem onCus_flashSize1 (s : State) (f : CusState → CusState) : (onCus f s).flashSize1 = s.flashSize1 := rfl
@[simp] theorem onCus_tb (s : State) (f : CusState → CusState) : (onCus f s).tb = s.tb := rfl
@[simp] theorem onCus_stk (s : State) (f : CusState → CusState) : (onCus f s).stk = s.stk := rfl
@[simp] theorem onCus_flt (s : State) (f : CusState → CusState) : (onCus f s).flt = s.flt := rfl
@[simp] theorem onCus_memx (s : State) (f : CusState → CusState) : (onCus f s).memx = s.memx := rfl
@[simp] theorem onCus_vec (s : State) (f : CusState → CusState) : (onCus f s).vec = s.vec := rfl
@[simp] theorem onCus_tim (s : State) (f : CusState → CusState) : (onCus f s).tim = s.tim := rfl
@[simp] theorem onCus_dom (s : State) (f : CusState → CusState) : (onCus f s).dom = s.dom := rfl
@[simp] theorem onCus_io (s : State) (f : CusState → CusState) : (onCus f s).io = s.io := rfl
@[simp] theorem onCus_host (s : State) (f : CusState → CusState) : (onCus f s).host = s.host := rfl
@[simp] theorem onCus_cox (s : State) (f : CusState → CusState) : (onCus f s).cox = s.cox := rfl
@[simp] theorem onCus_pow (s : State) (f : CusState → CusState) : (onCus f s).pow = s.pow := rfl
@[simp] theorem onCus_dbg (s : State) (f : CusState → CusState) : (onCus f s).dbg = s.dbg := rfl

/-! ### modPort -/

@[simp] theorem modPort_pending (s : State) (p : Fin 4) (f : NetPort → NetPort) : (modPort p f s).pending = s.pending := rfl
@[simp] theorem modPort_regs (s : State) (p : Fin 4) (f : NetPort → NetPort) : (modPort p f s).regs = s.regs := rfl
@[simp] theorem modPort_mem (s : State) (p : Fin 4) (f : NetPort → NetPort) : (modPort p f s).mem = s.mem := rfl
@[simp] theorem modPort_ecc (s : State) (p : Fin 4) (f : NetPort → NetPort) : (modPort p f s).ecc = s.ecc := rfl
@[simp] theorem modPort_ddrErr (s : State) (p : Fin 4) (f : NetPort → NetPort) : (modPort p f s).ddrErr = s.ddrErr := rfl
@[simp] theorem modPort_replies (s : State) (p : Fin 4) (f : NetPort → NetPort) : (modPort p f s).replies = s.replies := rfl
@[simp] theorem modPort_halfWrite (s : State) (p : Fin 4) (f : NetPort → NetPort) : (modPort p f s).halfWrite = s.halfWrite := rfl
@[simp] theorem modPort_halfRead (s : State) (p : Fin 4) (f : NetPort → NetPort) : (modPort p f s).halfRead = s.halfRead := rfl
@[simp] theorem modPort_held (s : State) (p : Fin 4) (f : NetPort → NetPort) : (modPort p f s).held = s.held := rfl
@[simp] theorem modPort_out (s : State) (p : Fin 4) (f : NetPort → NetPort) : (modPort p f s).out = s.out := rfl
@[simp] theorem modPort_locked (s : State) (p : Fin 4) (f : NetPort → NetPort) : (modPort p f s).locked = s.locked := rfl
@[simp] theorem modPort_elapsed (s : State) (p : Fin 4) (f : NetPort → NetPort) : (modPort p f s).elapsed = s.elapsed := rfl
@[simp] theorem modPort_freeCtr (s : State) (p : Fin 4) (f : NetPort → NetPort) : (modPort p f s).freeCtr = s.freeCtr := rfl
@[simp] theorem modPort_ddrEpoch (s : State) (p : Fin 4) (f : NetPort → NetPort) : (modPort p f s).ddrEpoch = s.ddrEpoch := rfl
@[simp] theorem modPort_flash0 (s : State) (p : Fin 4) (f : NetPort → NetPort) : (modPort p f s).flash0 = s.flash0 := rfl
@[simp] theorem modPort_flash1 (s : State) (p : Fin 4) (f : NetPort → NetPort) : (modPort p f s).flash1 = s.flash1 := rfl
@[simp] theorem modPort_flashSize0 (s : State) (p : Fin 4) (f : NetPort → NetPort) : (modPort p f s).flashSize0 = s.flashSize0 := rfl
@[simp] theorem modPort_flashSize1 (s : State) (p : Fin 4) (f : NetPort → NetPort) : (modPort p f s).flashSize1 = s.flashSize1 := rfl
@[simp] theorem modPort_tb (s : State) (p : Fin 4) (f : NetPort → NetPort) : (modPort p f s).tb = s.tb := rfl
@[simp] theorem modPort_stk (s : State) (p : Fin 4) (f : NetPort → NetPort) : (modPort p f s).stk = s.stk := rfl
@[simp] theorem modPort_flt (s : State) (p : Fin 4) (f : NetPort → NetPort) : (modPort p f s).flt = s.flt := rfl
@[simp] theorem modPort_memx (s : State) (p : Fin 4) (f : NetPort → NetPort) : (modPort p f s).memx = s.memx := rfl
@[simp] theorem modPort_vec (s : State) (p : Fin 4) (f : NetPort → NetPort) : (modPort p f s).vec = s.vec := rfl
@[simp] theorem modPort_tim (s : State) (p : Fin 4) (f : NetPort → NetPort) : (modPort p f s).tim = s.tim := rfl
@[simp] theorem modPort_dom (s : State) (p : Fin 4) (f : NetPort → NetPort) : (modPort p f s).dom = s.dom := rfl
@[simp] theorem modPort_host (s : State) (p : Fin 4) (f : NetPort → NetPort) : (modPort p f s).host = s.host := rfl
@[simp] theorem modPort_cox (s : State) (p : Fin 4) (f : NetPort → NetPort) : (modPort p f s).cox = s.cox := rfl
@[simp] theorem modPort_cus (s : State) (p : Fin 4) (f : NetPort → NetPort) : (modPort p f s).cus = s.cus := rfl
@[simp] theorem modPort_pow (s : State) (p : Fin 4) (f : NetPort → NetPort) : (modPort p f s).pow = s.pow := rfl
@[simp] theorem modPort_dbg (s : State) (p : Fin 4) (f : NetPort → NetPort) : (modPort p f s).dbg = s.dbg := rfl

/-! ### modLink -/

@[simp] theorem modLink_pending (s : State) (k : Fin 4) (f : IngLink → IngLink) : (modLink k f s).pending = s.pending := rfl
@[simp] theorem modLink_regs (s : State) (k : Fin 4) (f : IngLink → IngLink) : (modLink k f s).regs = s.regs := rfl
@[simp] theorem modLink_mem (s : State) (k : Fin 4) (f : IngLink → IngLink) : (modLink k f s).mem = s.mem := rfl
@[simp] theorem modLink_ecc (s : State) (k : Fin 4) (f : IngLink → IngLink) : (modLink k f s).ecc = s.ecc := rfl
@[simp] theorem modLink_ddrErr (s : State) (k : Fin 4) (f : IngLink → IngLink) : (modLink k f s).ddrErr = s.ddrErr := rfl
@[simp] theorem modLink_replies (s : State) (k : Fin 4) (f : IngLink → IngLink) : (modLink k f s).replies = s.replies := rfl
@[simp] theorem modLink_halfWrite (s : State) (k : Fin 4) (f : IngLink → IngLink) : (modLink k f s).halfWrite = s.halfWrite := rfl
@[simp] theorem modLink_halfRead (s : State) (k : Fin 4) (f : IngLink → IngLink) : (modLink k f s).halfRead = s.halfRead := rfl
@[simp] theorem modLink_held (s : State) (k : Fin 4) (f : IngLink → IngLink) : (modLink k f s).held = s.held := rfl
@[simp] theorem modLink_out (s : State) (k : Fin 4) (f : IngLink → IngLink) : (modLink k f s).out = s.out := rfl
@[simp] theorem modLink_locked (s : State) (k : Fin 4) (f : IngLink → IngLink) : (modLink k f s).locked = s.locked := rfl
@[simp] theorem modLink_elapsed (s : State) (k : Fin 4) (f : IngLink → IngLink) : (modLink k f s).elapsed = s.elapsed := rfl
@[simp] theorem modLink_freeCtr (s : State) (k : Fin 4) (f : IngLink → IngLink) : (modLink k f s).freeCtr = s.freeCtr := rfl
@[simp] theorem modLink_ddrEpoch (s : State) (k : Fin 4) (f : IngLink → IngLink) : (modLink k f s).ddrEpoch = s.ddrEpoch := rfl
@[simp] theorem modLink_flash0 (s : State) (k : Fin 4) (f : IngLink → IngLink) : (modLink k f s).flash0 = s.flash0 := rfl
@[simp] theorem modLink_flash1 (s : State) (k : Fin 4) (f : IngLink → IngLink) : (modLink k f s).flash1 = s.flash1 := rfl
@[simp] theorem modLink_flashSize0 (s : State) (k : Fin 4) (f : IngLink → IngLink) : (modLink k f s).flashSize0 = s.flashSize0 := rfl
@[simp] theorem modLink_flashSize1 (s : State) (k : Fin 4) (f : IngLink → IngLink) : (modLink k f s).flashSize1 = s.flashSize1 := rfl
@[simp] theorem modLink_tb (s : State) (k : Fin 4) (f : IngLink → IngLink) : (modLink k f s).tb = s.tb := rfl
@[simp] theorem modLink_stk (s : State) (k : Fin 4) (f : IngLink → IngLink) : (modLink k f s).stk = s.stk := rfl
@[simp] theorem modLink_flt (s : State) (k : Fin 4) (f : IngLink → IngLink) : (modLink k f s).flt = s.flt := rfl
@[simp] theorem modLink_memx (s : State) (k : Fin 4) (f : IngLink → IngLink) : (modLink k f s).memx = s.memx := rfl
@[simp] theorem modLink_vec (s : State) (k : Fin 4) (f : IngLink → IngLink) : (modLink k f s).vec = s.vec := rfl
@[simp] theorem modLink_tim (s : State) (k : Fin 4) (f : IngLink → IngLink) : (modLink k f s).tim = s.tim := rfl
@[simp] theorem modLink_dom (s : State) (k : Fin 4) (f : IngLink → IngLink) : (modLink k f s).dom = s.dom := rfl
@[simp] theorem modLink_host (s : State) (k : Fin 4) (f : IngLink → IngLink) : (modLink k f s).host = s.host := rfl
@[simp] theorem modLink_cox (s : State) (k : Fin 4) (f : IngLink → IngLink) : (modLink k f s).cox = s.cox := rfl
@[simp] theorem modLink_cus (s : State) (k : Fin 4) (f : IngLink → IngLink) : (modLink k f s).cus = s.cus := rfl
@[simp] theorem modLink_pow (s : State) (k : Fin 4) (f : IngLink → IngLink) : (modLink k f s).pow = s.pow := rfl
@[simp] theorem modLink_dbg (s : State) (k : Fin 4) (f : IngLink → IngLink) : (modLink k f s).dbg = s.dbg := rfl

/-! ### modPf -/

@[simp] theorem modPf_pending (s : State) (j : Fin 33) (f : PfIn → PfIn) : (modPf j f s).pending = s.pending := rfl
@[simp] theorem modPf_regs (s : State) (j : Fin 33) (f : PfIn → PfIn) : (modPf j f s).regs = s.regs := rfl
@[simp] theorem modPf_mem (s : State) (j : Fin 33) (f : PfIn → PfIn) : (modPf j f s).mem = s.mem := rfl
@[simp] theorem modPf_ecc (s : State) (j : Fin 33) (f : PfIn → PfIn) : (modPf j f s).ecc = s.ecc := rfl
@[simp] theorem modPf_ddrErr (s : State) (j : Fin 33) (f : PfIn → PfIn) : (modPf j f s).ddrErr = s.ddrErr := rfl
@[simp] theorem modPf_replies (s : State) (j : Fin 33) (f : PfIn → PfIn) : (modPf j f s).replies = s.replies := rfl
@[simp] theorem modPf_halfWrite (s : State) (j : Fin 33) (f : PfIn → PfIn) : (modPf j f s).halfWrite = s.halfWrite := rfl
@[simp] theorem modPf_halfRead (s : State) (j : Fin 33) (f : PfIn → PfIn) : (modPf j f s).halfRead = s.halfRead := rfl
@[simp] theorem modPf_held (s : State) (j : Fin 33) (f : PfIn → PfIn) : (modPf j f s).held = s.held := rfl
@[simp] theorem modPf_out (s : State) (j : Fin 33) (f : PfIn → PfIn) : (modPf j f s).out = s.out := rfl
@[simp] theorem modPf_locked (s : State) (j : Fin 33) (f : PfIn → PfIn) : (modPf j f s).locked = s.locked := rfl
@[simp] theorem modPf_elapsed (s : State) (j : Fin 33) (f : PfIn → PfIn) : (modPf j f s).elapsed = s.elapsed := rfl
@[simp] theorem modPf_freeCtr (s : State) (j : Fin 33) (f : PfIn → PfIn) : (modPf j f s).freeCtr = s.freeCtr := rfl
@[simp] theorem modPf_ddrEpoch (s : State) (j : Fin 33) (f : PfIn → PfIn) : (modPf j f s).ddrEpoch = s.ddrEpoch := rfl
@[simp] theorem modPf_flash0 (s : State) (j : Fin 33) (f : PfIn → PfIn) : (modPf j f s).flash0 = s.flash0 := rfl
@[simp] theorem modPf_flash1 (s : State) (j : Fin 33) (f : PfIn → PfIn) : (modPf j f s).flash1 = s.flash1 := rfl
@[simp] theorem modPf_flashSize0 (s : State) (j : Fin 33) (f : PfIn → PfIn) : (modPf j f s).flashSize0 = s.flashSize0 := rfl
@[simp] theorem modPf_flashSize1 (s : State) (j : Fin 33) (f : PfIn → PfIn) : (modPf j f s).flashSize1 = s.flashSize1 := rfl
@[simp] theorem modPf_tb (s : State) (j : Fin 33) (f : PfIn → PfIn) : (modPf j f s).tb = s.tb := rfl
@[simp] theorem modPf_stk (s : State) (j : Fin 33) (f : PfIn → PfIn) : (modPf j f s).stk = s.stk := rfl
@[simp] theorem modPf_flt (s : State) (j : Fin 33) (f : PfIn → PfIn) : (modPf j f s).flt = s.flt := rfl
@[simp] theorem modPf_memx (s : State) (j : Fin 33) (f : PfIn → PfIn) : (modPf j f s).memx = s.memx := rfl
@[simp] theorem modPf_vec (s : State) (j : Fin 33) (f : PfIn → PfIn) : (modPf j f s).vec = s.vec := rfl
@[simp] theorem modPf_dom (s : State) (j : Fin 33) (f : PfIn → PfIn) : (modPf j f s).dom = s.dom := rfl
@[simp] theorem modPf_io (s : State) (j : Fin 33) (f : PfIn → PfIn) : (modPf j f s).io = s.io := rfl
@[simp] theorem modPf_host (s : State) (j : Fin 33) (f : PfIn → PfIn) : (modPf j f s).host = s.host := rfl
@[simp] theorem modPf_cox (s : State) (j : Fin 33) (f : PfIn → PfIn) : (modPf j f s).cox = s.cox := rfl
@[simp] theorem modPf_cus (s : State) (j : Fin 33) (f : PfIn → PfIn) : (modPf j f s).cus = s.cus := rfl
@[simp] theorem modPf_pow (s : State) (j : Fin 33) (f : PfIn → PfIn) : (modPf j f s).pow = s.pow := rfl
@[simp] theorem modPf_dbg (s : State) (j : Fin 33) (f : PfIn → PfIn) : (modPf j f s).dbg = s.dbg := rfl

/-! ### modTrip -/

@[simp] theorem modTrip_pending (s : State) (n : Fin 16) (f : Trip → Trip) : (modTrip n f s).pending = s.pending := rfl
@[simp] theorem modTrip_regs (s : State) (n : Fin 16) (f : Trip → Trip) : (modTrip n f s).regs = s.regs := rfl
@[simp] theorem modTrip_mem (s : State) (n : Fin 16) (f : Trip → Trip) : (modTrip n f s).mem = s.mem := rfl
@[simp] theorem modTrip_ecc (s : State) (n : Fin 16) (f : Trip → Trip) : (modTrip n f s).ecc = s.ecc := rfl
@[simp] theorem modTrip_ddrErr (s : State) (n : Fin 16) (f : Trip → Trip) : (modTrip n f s).ddrErr = s.ddrErr := rfl
@[simp] theorem modTrip_replies (s : State) (n : Fin 16) (f : Trip → Trip) : (modTrip n f s).replies = s.replies := rfl
@[simp] theorem modTrip_halfWrite (s : State) (n : Fin 16) (f : Trip → Trip) : (modTrip n f s).halfWrite = s.halfWrite := rfl
@[simp] theorem modTrip_halfRead (s : State) (n : Fin 16) (f : Trip → Trip) : (modTrip n f s).halfRead = s.halfRead := rfl
@[simp] theorem modTrip_held (s : State) (n : Fin 16) (f : Trip → Trip) : (modTrip n f s).held = s.held := rfl
@[simp] theorem modTrip_out (s : State) (n : Fin 16) (f : Trip → Trip) : (modTrip n f s).out = s.out := rfl
@[simp] theorem modTrip_locked (s : State) (n : Fin 16) (f : Trip → Trip) : (modTrip n f s).locked = s.locked := rfl
@[simp] theorem modTrip_elapsed (s : State) (n : Fin 16) (f : Trip → Trip) : (modTrip n f s).elapsed = s.elapsed := rfl
@[simp] theorem modTrip_freeCtr (s : State) (n : Fin 16) (f : Trip → Trip) : (modTrip n f s).freeCtr = s.freeCtr := rfl
@[simp] theorem modTrip_ddrEpoch (s : State) (n : Fin 16) (f : Trip → Trip) : (modTrip n f s).ddrEpoch = s.ddrEpoch := rfl
@[simp] theorem modTrip_flash0 (s : State) (n : Fin 16) (f : Trip → Trip) : (modTrip n f s).flash0 = s.flash0 := rfl
@[simp] theorem modTrip_flash1 (s : State) (n : Fin 16) (f : Trip → Trip) : (modTrip n f s).flash1 = s.flash1 := rfl
@[simp] theorem modTrip_flashSize0 (s : State) (n : Fin 16) (f : Trip → Trip) : (modTrip n f s).flashSize0 = s.flashSize0 := rfl
@[simp] theorem modTrip_flashSize1 (s : State) (n : Fin 16) (f : Trip → Trip) : (modTrip n f s).flashSize1 = s.flashSize1 := rfl
@[simp] theorem modTrip_tb (s : State) (n : Fin 16) (f : Trip → Trip) : (modTrip n f s).tb = s.tb := rfl
@[simp] theorem modTrip_stk (s : State) (n : Fin 16) (f : Trip → Trip) : (modTrip n f s).stk = s.stk := rfl
@[simp] theorem modTrip_flt (s : State) (n : Fin 16) (f : Trip → Trip) : (modTrip n f s).flt = s.flt := rfl
@[simp] theorem modTrip_memx (s : State) (n : Fin 16) (f : Trip → Trip) : (modTrip n f s).memx = s.memx := rfl
@[simp] theorem modTrip_vec (s : State) (n : Fin 16) (f : Trip → Trip) : (modTrip n f s).vec = s.vec := rfl
@[simp] theorem modTrip_dom (s : State) (n : Fin 16) (f : Trip → Trip) : (modTrip n f s).dom = s.dom := rfl
@[simp] theorem modTrip_io (s : State) (n : Fin 16) (f : Trip → Trip) : (modTrip n f s).io = s.io := rfl
@[simp] theorem modTrip_host (s : State) (n : Fin 16) (f : Trip → Trip) : (modTrip n f s).host = s.host := rfl
@[simp] theorem modTrip_cox (s : State) (n : Fin 16) (f : Trip → Trip) : (modTrip n f s).cox = s.cox := rfl
@[simp] theorem modTrip_cus (s : State) (n : Fin 16) (f : Trip → Trip) : (modTrip n f s).cus = s.cus := rfl
@[simp] theorem modTrip_pow (s : State) (n : Fin 16) (f : Trip → Trip) : (modTrip n f s).pow = s.pow := rfl
@[simp] theorem modTrip_dbg (s : State) (n : Fin 16) (f : Trip → Trip) : (modTrip n f s).dbg = s.dbg := rfl

/-! ### setEntry -/

@[simp] theorem setEntry_pending (s : State) (i : Nat) (e : Entry) : (setEntry i e s).pending = s.pending := rfl
@[simp] theorem setEntry_regs (s : State) (i : Nat) (e : Entry) : (setEntry i e s).regs = s.regs := rfl
@[simp] theorem setEntry_mem (s : State) (i : Nat) (e : Entry) : (setEntry i e s).mem = s.mem := rfl
@[simp] theorem setEntry_ecc (s : State) (i : Nat) (e : Entry) : (setEntry i e s).ecc = s.ecc := rfl
@[simp] theorem setEntry_ddrErr (s : State) (i : Nat) (e : Entry) : (setEntry i e s).ddrErr = s.ddrErr := rfl
@[simp] theorem setEntry_replies (s : State) (i : Nat) (e : Entry) : (setEntry i e s).replies = s.replies := rfl
@[simp] theorem setEntry_halfWrite (s : State) (i : Nat) (e : Entry) : (setEntry i e s).halfWrite = s.halfWrite := rfl
@[simp] theorem setEntry_halfRead (s : State) (i : Nat) (e : Entry) : (setEntry i e s).halfRead = s.halfRead := rfl
@[simp] theorem setEntry_held (s : State) (i : Nat) (e : Entry) : (setEntry i e s).held = s.held := rfl
@[simp] theorem setEntry_out (s : State) (i : Nat) (e : Entry) : (setEntry i e s).out = s.out := rfl
@[simp] theorem setEntry_locked (s : State) (i : Nat) (e : Entry) : (setEntry i e s).locked = s.locked := rfl
@[simp] theorem setEntry_elapsed (s : State) (i : Nat) (e : Entry) : (setEntry i e s).elapsed = s.elapsed := rfl
@[simp] theorem setEntry_freeCtr (s : State) (i : Nat) (e : Entry) : (setEntry i e s).freeCtr = s.freeCtr := rfl
@[simp] theorem setEntry_ddrEpoch (s : State) (i : Nat) (e : Entry) : (setEntry i e s).ddrEpoch = s.ddrEpoch := rfl
@[simp] theorem setEntry_flash0 (s : State) (i : Nat) (e : Entry) : (setEntry i e s).flash0 = s.flash0 := rfl
@[simp] theorem setEntry_flash1 (s : State) (i : Nat) (e : Entry) : (setEntry i e s).flash1 = s.flash1 := rfl
@[simp] theorem setEntry_flashSize0 (s : State) (i : Nat) (e : Entry) : (setEntry i e s).flashSize0 = s.flashSize0 := rfl
@[simp] theorem setEntry_flashSize1 (s : State) (i : Nat) (e : Entry) : (setEntry i e s).flashSize1 = s.flashSize1 := rfl
@[simp] theorem setEntry_tb (s : State) (i : Nat) (e : Entry) : (setEntry i e s).tb = s.tb := rfl
@[simp] theorem setEntry_flt (s : State) (i : Nat) (e : Entry) : (setEntry i e s).flt = s.flt := rfl
@[simp] theorem setEntry_memx (s : State) (i : Nat) (e : Entry) : (setEntry i e s).memx = s.memx := rfl
@[simp] theorem setEntry_vec (s : State) (i : Nat) (e : Entry) : (setEntry i e s).vec = s.vec := rfl
@[simp] theorem setEntry_tim (s : State) (i : Nat) (e : Entry) : (setEntry i e s).tim = s.tim := rfl
@[simp] theorem setEntry_dom (s : State) (i : Nat) (e : Entry) : (setEntry i e s).dom = s.dom := rfl
@[simp] theorem setEntry_io (s : State) (i : Nat) (e : Entry) : (setEntry i e s).io = s.io := rfl
@[simp] theorem setEntry_host (s : State) (i : Nat) (e : Entry) : (setEntry i e s).host = s.host := rfl
@[simp] theorem setEntry_cox (s : State) (i : Nat) (e : Entry) : (setEntry i e s).cox = s.cox := rfl
@[simp] theorem setEntry_cus (s : State) (i : Nat) (e : Entry) : (setEntry i e s).cus = s.cus := rfl
@[simp] theorem setEntry_pow (s : State) (i : Nat) (e : Entry) : (setEntry i e s).pow = s.pow := rfl
@[simp] theorem setEntry_dbg (s : State) (i : Nat) (e : Entry) : (setEntry i e s).dbg = s.dbg := rfl

/-! ### setSlot -/

@[simp] theorem setSlot_pending (s : State) (k : Nat) (w : List Nat) : (setSlot k w s).pending = s.pending := rfl
@[simp] theorem setSlot_regs (s : State) (k : Nat) (w : List Nat) : (setSlot k w s).regs = s.regs := rfl
@[simp] theorem setSlot_mem (s : State) (k : Nat) (w : List Nat) : (setSlot k w s).mem = s.mem := rfl
@[simp] theorem setSlot_ecc (s : State) (k : Nat) (w : List Nat) : (setSlot k w s).ecc = s.ecc := rfl
@[simp] theorem setSlot_ddrErr (s : State) (k : Nat) (w : List Nat) : (setSlot k w s).ddrErr = s.ddrErr := rfl
@[simp] theorem setSlot_replies (s : State) (k : Nat) (w : List Nat) : (setSlot k w s).replies = s.replies := rfl
@[simp] theorem setSlot_halfWrite (s : State) (k : Nat) (w : List Nat) : (setSlot k w s).halfWrite = s.halfWrite := rfl
@[simp] theorem setSlot_halfRead (s : State) (k : Nat) (w : List Nat) : (setSlot k w s).halfRead = s.halfRead := rfl
@[simp] theorem setSlot_held (s : State) (k : Nat) (w : List Nat) : (setSlot k w s).held = s.held := rfl
@[simp] theorem setSlot_out (s : State) (k : Nat) (w : List Nat) : (setSlot k w s).out = s.out := rfl
@[simp] theorem setSlot_locked (s : State) (k : Nat) (w : List Nat) : (setSlot k w s).locked = s.locked := rfl
@[simp] theorem setSlot_elapsed (s : State) (k : Nat) (w : List Nat) : (setSlot k w s).elapsed = s.elapsed := rfl
@[simp] theorem setSlot_freeCtr (s : State) (k : Nat) (w : List Nat) : (setSlot k w s).freeCtr = s.freeCtr := rfl
@[simp] theorem setSlot_ddrEpoch (s : State) (k : Nat) (w : List Nat) : (setSlot k w s).ddrEpoch = s.ddrEpoch := rfl
@[simp] theorem setSlot_flash0 (s : State) (k : Nat) (w : List Nat) : (setSlot k w s).flash0 = s.flash0 := rfl
@[simp] theorem setSlot_flash1 (s : State) (k : Nat) (w : List Nat) : (setSlot k w s).flash1 = s.flash1 := rfl
@[simp] theorem setSlot_flashSize0 (s : State) (k : Nat) (w : List Nat) : (setSlot k w s).flashSize0 = s.flashSize0 := rfl
@[simp] theorem setSlot_flashSize1 (s : State) (k : Nat) (w : List Nat) : (setSlot k w s).flashSize1 = s.flashSize1 := rfl
@[simp] theorem setSlot_tb (s : State) (k : Nat) (w : List Nat) : (setSlot k w s).tb = s.tb := rfl
@[simp] theorem setSlot_stk (s : State) (k : Nat) (w : List Nat) : (setSlot k w s).stk = s.stk := rfl
@[simp] theorem setSlot_flt (s : State) (k : Nat) (w : List Nat) : (setSlot k w s).flt = s.flt := rfl
@[simp] theorem setSlot_memx (s : State) (k : Nat) (w : List Nat) : (setSlot k w s).memx = s.memx := rfl
@[simp] theorem setSlot_vec (s : State) (k : Nat) (w : List Nat) : (setSlot k w s).vec = s.vec := rfl
@[simp] theorem setSlot_dom (s : State) (k : Nat) (w : List Nat) : (setSlot k w s).dom = s.dom := rfl
@[simp] theorem setSlot_io (s : State) (k : Nat) (w : List Nat) : (setSlot k w s).io = s.io := rfl
@[simp] theorem setSlot_host (s : State) (k : Nat) (w : List Nat) : (setSlot k w s).host = s.host := rfl
@[simp] theorem setSlot_cox (s : State) (k : Nat) (w : List Nat) : (setSlot k w s).cox = s.cox := rfl
@[simp] theorem setSlot_cus (s : State) (k : Nat) (w : List Nat) : (setSlot k w s).cus = s.cus := rfl
@[simp] theorem setSlot_pow (s : State) (k : Nat) (w : List Nat) : (setSlot k w s).pow = s.pow := rfl
@[simp] theorem setSlot_dbg (s : State) (k : Nat) (w : List Nat) : (setSlot k w s).dbg = s.dbg := rfl

/-! ### setRun -/

@[simp] theorem setRun_pending (s : State) (k : Nat) (r : SlotRun) : (setRun k r s).pending = s.pending := rfl
@[simp] theorem setRun_regs (s : State) (k : Nat) (r : SlotRun) : (setRun k r s).regs = s.regs := rfl
@[simp] theorem setRun_mem (s : State) (k : Nat) (r : SlotRun) : (setRun k r s).mem = s.mem := rfl
@[simp] theorem setRun_ecc (s : State) (k : Nat) (r : SlotRun) : (setRun k r s).ecc = s.ecc := rfl
@[simp] theorem setRun_ddrErr (s : State) (k : Nat) (r : SlotRun) : (setRun k r s).ddrErr = s.ddrErr := rfl
@[simp] theorem setRun_replies (s : State) (k : Nat) (r : SlotRun) : (setRun k r s).replies = s.replies := rfl
@[simp] theorem setRun_halfWrite (s : State) (k : Nat) (r : SlotRun) : (setRun k r s).halfWrite = s.halfWrite := rfl
@[simp] theorem setRun_halfRead (s : State) (k : Nat) (r : SlotRun) : (setRun k r s).halfRead = s.halfRead := rfl
@[simp] theorem setRun_held (s : State) (k : Nat) (r : SlotRun) : (setRun k r s).held = s.held := rfl
@[simp] theorem setRun_out (s : State) (k : Nat) (r : SlotRun) : (setRun k r s).out = s.out := rfl
@[simp] theorem setRun_locked (s : State) (k : Nat) (r : SlotRun) : (setRun k r s).locked = s.locked := rfl
@[simp] theorem setRun_elapsed (s : State) (k : Nat) (r : SlotRun) : (setRun k r s).elapsed = s.elapsed := rfl
@[simp] theorem setRun_freeCtr (s : State) (k : Nat) (r : SlotRun) : (setRun k r s).freeCtr = s.freeCtr := rfl
@[simp] theorem setRun_ddrEpoch (s : State) (k : Nat) (r : SlotRun) : (setRun k r s).ddrEpoch = s.ddrEpoch := rfl
@[simp] theorem setRun_flash0 (s : State) (k : Nat) (r : SlotRun) : (setRun k r s).flash0 = s.flash0 := rfl
@[simp] theorem setRun_flash1 (s : State) (k : Nat) (r : SlotRun) : (setRun k r s).flash1 = s.flash1 := rfl
@[simp] theorem setRun_flashSize0 (s : State) (k : Nat) (r : SlotRun) : (setRun k r s).flashSize0 = s.flashSize0 := rfl
@[simp] theorem setRun_flashSize1 (s : State) (k : Nat) (r : SlotRun) : (setRun k r s).flashSize1 = s.flashSize1 := rfl
@[simp] theorem setRun_tb (s : State) (k : Nat) (r : SlotRun) : (setRun k r s).tb = s.tb := rfl
@[simp] theorem setRun_stk (s : State) (k : Nat) (r : SlotRun) : (setRun k r s).stk = s.stk := rfl
@[simp] theorem setRun_flt (s : State) (k : Nat) (r : SlotRun) : (setRun k r s).flt = s.flt := rfl
@[simp] theorem setRun_memx (s : State) (k : Nat) (r : SlotRun) : (setRun k r s).memx = s.memx := rfl
@[simp] theorem setRun_vec (s : State) (k : Nat) (r : SlotRun) : (setRun k r s).vec = s.vec := rfl
@[simp] theorem setRun_dom (s : State) (k : Nat) (r : SlotRun) : (setRun k r s).dom = s.dom := rfl
@[simp] theorem setRun_io (s : State) (k : Nat) (r : SlotRun) : (setRun k r s).io = s.io := rfl
@[simp] theorem setRun_host (s : State) (k : Nat) (r : SlotRun) : (setRun k r s).host = s.host := rfl
@[simp] theorem setRun_cox (s : State) (k : Nat) (r : SlotRun) : (setRun k r s).cox = s.cox := rfl
@[simp] theorem setRun_cus (s : State) (k : Nat) (r : SlotRun) : (setRun k r s).cus = s.cus := rfl
@[simp] theorem setRun_pow (s : State) (k : Nat) (r : SlotRun) : (setRun k r s).pow = s.pow := rfl
@[simp] theorem setRun_dbg (s : State) (k : Nat) (r : SlotRun) : (setRun k r s).dbg = s.dbg := rfl

/-! ### setDetQ -/

@[simp] theorem setDetQ_pending (s : State) (bank : Nat) (q : List (Nat × Nat)) : (setDetQ bank q s).pending = s.pending := rfl
@[simp] theorem setDetQ_regs (s : State) (bank : Nat) (q : List (Nat × Nat)) : (setDetQ bank q s).regs = s.regs := rfl
@[simp] theorem setDetQ_mem (s : State) (bank : Nat) (q : List (Nat × Nat)) : (setDetQ bank q s).mem = s.mem := rfl
@[simp] theorem setDetQ_ecc (s : State) (bank : Nat) (q : List (Nat × Nat)) : (setDetQ bank q s).ecc = s.ecc := rfl
@[simp] theorem setDetQ_ddrErr (s : State) (bank : Nat) (q : List (Nat × Nat)) : (setDetQ bank q s).ddrErr = s.ddrErr := rfl
@[simp] theorem setDetQ_replies (s : State) (bank : Nat) (q : List (Nat × Nat)) : (setDetQ bank q s).replies = s.replies := rfl
@[simp] theorem setDetQ_halfWrite (s : State) (bank : Nat) (q : List (Nat × Nat)) : (setDetQ bank q s).halfWrite = s.halfWrite := rfl
@[simp] theorem setDetQ_halfRead (s : State) (bank : Nat) (q : List (Nat × Nat)) : (setDetQ bank q s).halfRead = s.halfRead := rfl
@[simp] theorem setDetQ_held (s : State) (bank : Nat) (q : List (Nat × Nat)) : (setDetQ bank q s).held = s.held := rfl
@[simp] theorem setDetQ_out (s : State) (bank : Nat) (q : List (Nat × Nat)) : (setDetQ bank q s).out = s.out := rfl
@[simp] theorem setDetQ_locked (s : State) (bank : Nat) (q : List (Nat × Nat)) : (setDetQ bank q s).locked = s.locked := rfl
@[simp] theorem setDetQ_elapsed (s : State) (bank : Nat) (q : List (Nat × Nat)) : (setDetQ bank q s).elapsed = s.elapsed := rfl
@[simp] theorem setDetQ_freeCtr (s : State) (bank : Nat) (q : List (Nat × Nat)) : (setDetQ bank q s).freeCtr = s.freeCtr := rfl
@[simp] theorem setDetQ_ddrEpoch (s : State) (bank : Nat) (q : List (Nat × Nat)) : (setDetQ bank q s).ddrEpoch = s.ddrEpoch := rfl
@[simp] theorem setDetQ_flash0 (s : State) (bank : Nat) (q : List (Nat × Nat)) : (setDetQ bank q s).flash0 = s.flash0 := rfl
@[simp] theorem setDetQ_flash1 (s : State) (bank : Nat) (q : List (Nat × Nat)) : (setDetQ bank q s).flash1 = s.flash1 := rfl
@[simp] theorem setDetQ_flashSize0 (s : State) (bank : Nat) (q : List (Nat × Nat)) : (setDetQ bank q s).flashSize0 = s.flashSize0 := rfl
@[simp] theorem setDetQ_flashSize1 (s : State) (bank : Nat) (q : List (Nat × Nat)) : (setDetQ bank q s).flashSize1 = s.flashSize1 := rfl
@[simp] theorem setDetQ_tb (s : State) (bank : Nat) (q : List (Nat × Nat)) : (setDetQ bank q s).tb = s.tb := rfl
@[simp] theorem setDetQ_stk (s : State) (bank : Nat) (q : List (Nat × Nat)) : (setDetQ bank q s).stk = s.stk := rfl
@[simp] theorem setDetQ_flt (s : State) (bank : Nat) (q : List (Nat × Nat)) : (setDetQ bank q s).flt = s.flt := rfl
@[simp] theorem setDetQ_vec (s : State) (bank : Nat) (q : List (Nat × Nat)) : (setDetQ bank q s).vec = s.vec := rfl
@[simp] theorem setDetQ_tim (s : State) (bank : Nat) (q : List (Nat × Nat)) : (setDetQ bank q s).tim = s.tim := rfl
@[simp] theorem setDetQ_dom (s : State) (bank : Nat) (q : List (Nat × Nat)) : (setDetQ bank q s).dom = s.dom := rfl
@[simp] theorem setDetQ_io (s : State) (bank : Nat) (q : List (Nat × Nat)) : (setDetQ bank q s).io = s.io := rfl
@[simp] theorem setDetQ_host (s : State) (bank : Nat) (q : List (Nat × Nat)) : (setDetQ bank q s).host = s.host := rfl
@[simp] theorem setDetQ_cox (s : State) (bank : Nat) (q : List (Nat × Nat)) : (setDetQ bank q s).cox = s.cox := rfl
@[simp] theorem setDetQ_cus (s : State) (bank : Nat) (q : List (Nat × Nat)) : (setDetQ bank q s).cus = s.cus := rfl
@[simp] theorem setDetQ_pow (s : State) (bank : Nat) (q : List (Nat × Nat)) : (setDetQ bank q s).pow = s.pow := rfl
@[simp] theorem setDetQ_dbg (s : State) (bank : Nat) (q : List (Nat × Nat)) : (setDetQ bank q s).dbg = s.dbg := rfl

/-! ### emit -/

@[simp] theorem emit_pending (s : State) (o : Out) : (emit o s).pending = s.pending := rfl
@[simp] theorem emit_regs (s : State) (o : Out) : (emit o s).regs = s.regs := rfl
@[simp] theorem emit_mem (s : State) (o : Out) : (emit o s).mem = s.mem := rfl
@[simp] theorem emit_ecc (s : State) (o : Out) : (emit o s).ecc = s.ecc := rfl
@[simp] theorem emit_ddrErr (s : State) (o : Out) : (emit o s).ddrErr = s.ddrErr := rfl
@[simp] theorem emit_replies (s : State) (o : Out) : (emit o s).replies = s.replies := rfl
@[simp] theorem emit_halfWrite (s : State) (o : Out) : (emit o s).halfWrite = s.halfWrite := rfl
@[simp] theorem emit_halfRead (s : State) (o : Out) : (emit o s).halfRead = s.halfRead := rfl
@[simp] theorem emit_held (s : State) (o : Out) : (emit o s).held = s.held := rfl
@[simp] theorem emit_locked (s : State) (o : Out) : (emit o s).locked = s.locked := rfl
@[simp] theorem emit_elapsed (s : State) (o : Out) : (emit o s).elapsed = s.elapsed := rfl
@[simp] theorem emit_freeCtr (s : State) (o : Out) : (emit o s).freeCtr = s.freeCtr := rfl
@[simp] theorem emit_ddrEpoch (s : State) (o : Out) : (emit o s).ddrEpoch = s.ddrEpoch := rfl
@[simp] theorem emit_flash0 (s : State) (o : Out) : (emit o s).flash0 = s.flash0 := rfl
@[simp] theorem emit_flash1 (s : State) (o : Out) : (emit o s).flash1 = s.flash1 := rfl
@[simp] theorem emit_flashSize0 (s : State) (o : Out) : (emit o s).flashSize0 = s.flashSize0 := rfl
@[simp] theorem emit_flashSize1 (s : State) (o : Out) : (emit o s).flashSize1 = s.flashSize1 := rfl
@[simp] theorem emit_tb (s : State) (o : Out) : (emit o s).tb = s.tb := rfl
@[simp] theorem emit_stk (s : State) (o : Out) : (emit o s).stk = s.stk := rfl
@[simp] theorem emit_flt (s : State) (o : Out) : (emit o s).flt = s.flt := rfl
@[simp] theorem emit_memx (s : State) (o : Out) : (emit o s).memx = s.memx := rfl
@[simp] theorem emit_vec (s : State) (o : Out) : (emit o s).vec = s.vec := rfl
@[simp] theorem emit_tim (s : State) (o : Out) : (emit o s).tim = s.tim := rfl
@[simp] theorem emit_dom (s : State) (o : Out) : (emit o s).dom = s.dom := rfl
@[simp] theorem emit_io (s : State) (o : Out) : (emit o s).io = s.io := rfl
@[simp] theorem emit_host (s : State) (o : Out) : (emit o s).host = s.host := rfl
@[simp] theorem emit_cox (s : State) (o : Out) : (emit o s).cox = s.cox := rfl
@[simp] theorem emit_cus (s : State) (o : Out) : (emit o s).cus = s.cus := rfl
@[simp] theorem emit_pow (s : State) (o : Out) : (emit o s).pow = s.pow := rfl
@[simp] theorem emit_dbg (s : State) (o : Out) : (emit o s).dbg = s.dbg := rfl

end Sys2Proof.Machine
end

