-- ==== Sys2Proof/Laws/Regs.lean ====
section
/-!
SUPPORT. Registers and their fields: what they read after a write.
-/
namespace Sys2Proof.Machine

@[simp] theorem reg_setReg_self (s : State) (a v : Nat) : (s.setReg a v).reg a = v % 2 ^ 64 := by
  simp [State.reg, State.setReg]

theorem reg_setReg_other (s : State) {a b : Nat} (h : b ≠ a) (v : Nat) : (s.setReg a v).reg b = s.reg b := by
  simp [State.reg, State.setReg, nget_nput_other h]

/-- A field of at most 64 bits reads what was written to it. -/
theorem rd_wr_self (s : State) (f : Fld) (v : Nat) (h : f.hi < 64) : (s.wr f v).rd f = v % 2 ^ (f.hi + 1 - f.lo) := by
  simp only [State.rd, State.wr, reg_setReg_self]
  rw [bits_mod _ _ _ _ h, bits_putBits_self]

/-- A field of another register reads as before. -/
theorem rd_wr_reg (s : State) (f g : Fld) (v : Nat) (h : g.addr ≠ f.addr) : (s.wr f v).rd g = s.rd g := by
  simp only [State.rd, State.wr]
  rw [reg_setReg_other s h]

/-- A field of the same register apart from the written one reads as before. -/
theorem rd_wr_apart (s : State) (f g : Fld) (v : Nat) (ha : g.addr = f.addr) (hg : g.hi < 64)
    (h : g.hi < f.lo ∨ f.lo + (f.hi + 1 - f.lo) ≤ g.lo) : (s.wr f v).rd g = s.rd g := by
  simp only [State.rd, State.wr, ha, reg_setReg_self]
  rw [bits_mod _ _ _ _ hg, bits_putBits_other _ _ _ _ _ _ h]

theorem rd_setReg_self (s : State) (f : Fld) (v : Nat) (h : f.hi < 64) :
    (s.setReg f.addr v).rd f = bits v f.hi f.lo := by
  simp only [State.rd, reg_setReg_self]
  exact bits_mod _ _ _ _ h

theorem rd_setReg_other (s : State) (a v : Nat) (f : Fld) (h : f.addr ≠ a) : (s.setReg a v).rd f = s.rd f := by
  simp only [State.rd]
  rw [reg_setReg_other s h]

/-- A field does not change with anything but the registers. -/
theorem rd_congr {s t : State} (h : s.regs = t.regs) (f : Fld) : s.rd f = t.rd f := by
  simp [State.rd, State.reg, h]

theorem forAll_nil {α : Type} (g : α → State → State) (s : State) : forAll [] g s = s := rfl

theorem forAll_cons {α : Type} (a : α) (l : List α) (g : α → State → State) (s : State) :
    forAll (a :: l) g s = forAll l g (g a s) := rfl

/-- A property that each of a list of things keeps holds after all of them. -/
theorem forAll_keeps {α : Type} (P : State → Prop) (l : List α) (g : α → State → State) (hg : ∀ a s, P s → P (g a s)) (s : State)
    (h : P s) : P (forAll l g s) := by
  induction l generalizing s with
  | nil => exact h
  | cons a l ih => exact ih _ (hg a s h)

/-- A list of things that each leave a view of the state alone leaves it alone. -/
theorem forAll_same {α β : Type} (v : State → β) (l : List α) (g : α → State → State) (hg : ∀ a s, v (g a s) = v s)
    (s : State) : v (forAll l g s) = v s :=
  forAll_keeps (fun t => v t = v s) l g (fun a t ht => (hg a t).trans ht) s rfl

end Sys2Proof.Machine
end

