-- ==== Sys2Proof/Laws/Memory.lean ====
section
/-!
SUPPORT. Memory: what a byte reads after a write, and that every operation on memory keeps its canonical form.
-/
namespace Sys2Proof.Machine

/-! ### Bytes -/

theorem memByte_putByte_self (s : State) (a : Nat) (b : Byte) : memByte (putByte a b s) a = b := by
  by_cases h : unlisted a = some b
  · simp [memByte, putByte, cellPut, h]
  · simp [memByte, putByte, cellPut, h]

theorem memByte_putByte_other (s : State) {a x : Nat} (h : x ≠ a) (b : Byte) :
    memByte (putByte a b s) x = memByte s x := by
  by_cases hu : unlisted a = some b
  · simp [memByte, putByte, cellPut, hu, nget_ndel_other h]
  · simp [memByte, putByte, cellPut, hu, nget_nput_other h]

theorem memByte_congr {s t : State} (hm : s.mem = t.mem) (he : s.ddrEpoch = t.ddrEpoch) (a : Nat) : memByte s a = memByte t a := by
  simp [memByte, hm, he]

/-- Bytes apart from those written read as before. -/
theorem memByte_putBytes_other (bs : List Byte) (s : State) (a x : Nat) (h : x < a ∨ a + bs.length ≤ x) :
    memByte (putBytes a bs s) x = memByte s x := by
  induction bs generalizing s a with
  | nil => rfl
  | cons b bs ih =>
    simp only [List.length_cons] at h
    simp only [putBytes]
    rw [ih _ _ (by omega), memByte_putByte_other _ (by omega)]

/-- A byte written reads as it was written. -/
theorem memByte_putBytes_self (bs : List Byte) (s : State) (a i : Nat) (h : i < bs.length) :
    memByte (putBytes a bs s) (a + i) = bs[i] := by
  induction bs generalizing s a i with
  | nil => exact absurd h (Nat.not_lt_zero _)
  | cons b bs ih =>
    simp only [putBytes]
    cases i with
    | zero => rw [memByte_putBytes_other _ _ _ _ (Or.inl (by omega))]; simpa using memByte_putByte_self s a b
    | succ i =>
      have := ih (putByte a b s) (a + 1) i (by simpa using h)
      rw [show a + (i + 1) = a + 1 + i by omega, this]
      rfl

@[simp] theorem putBytes_regs (bs : List Byte) (s : State) (a : Nat) : (putBytes a bs s).regs = s.regs := by
  induction bs generalizing s a with
  | nil => rfl
  | cons b bs ih => exact ih _ _

@[simp] theorem putBytes_ecc (bs : List Byte) (s : State) (a : Nat) : (putBytes a bs s).ecc = s.ecc := by
  induction bs generalizing s a with
  | nil => rfl
  | cons b bs ih => exact ih _ _

/-! ### The canonical form -/

theorem wf_iff (m : List Host.Cell) : Memory.wf m = true ↔ rising m = true ∧ ∀ c ∈ m, unlisted c.1 ≠ some c.2 := by
  simp [Memory.wf]

theorem wf_nil : Memory.wf [] = true := rfl

theorem wf_filter (f : Host.Cell → Bool) (m : List Host.Cell) (h : Memory.wf m = true) : Memory.wf (m.filter f) = true := by
  rw [wf_iff] at h ⊢
  exact ⟨rising_filter f m h.1, fun c hc => h.2 c (List.mem_filter.mp hc).1⟩

theorem wf_ndelRange (lo len : Nat) (m : List Host.Cell) (h : Memory.wf m = true) : Memory.wf (ndelRange lo len m) = true :=
  wf_filter _ m h

theorem wf_nput {a : Nat} {b : Byte} (hb : unlisted a ≠ some b) (m : List Host.Cell) (h : Memory.wf m = true) :
    Memory.wf (nput a b m) = true := by
  rw [wf_iff] at h ⊢
  refine ⟨rising_nput a b m h.1, fun c hc => ?_⟩
  rcases nput_mem hc with e | e
  · subst e; exact hb
  · exact h.2 c e

theorem wf_cellPut (a : Nat) (b : Byte) (m : List Host.Cell) (h : Memory.wf m = true) : Memory.wf (cellPut a b m) = true := by
  simp only [cellPut]
  split
  · exact wf_filter _ m h
  · next hb => exact wf_nput hb m h

theorem wf_putByte (a : Nat) (b : Byte) (s : State) (h : Memory.wf s.mem = true) : Memory.wf (putByte a b s).mem = true :=
  wf_cellPut a b s.mem h

theorem wf_putBytes (bs : List Byte) (a : Nat) (s : State) (h : Memory.wf s.mem = true) :
    Memory.wf (putBytes a bs s).mem = true := by
  induction bs generalizing s a with
  | nil => exact h
  | cons b bs ih => exact ih _ _ (wf_putByte a b s h)

theorem wf_fillZero (a n : Nat) (s : State) (h : Memory.wf s.mem = true) : Memory.wf (fillZero a n s).mem = true :=
  wf_ndelRange a n s.mem h

/-- Memory keeps its canonical form under an operation. -/
def KeepsMem (f : State → State) : Prop := ∀ s, Memory.wf s.mem = true → Memory.wf (f s).mem = true

theorem keeps_forAll {α : Type} (l : List α) (g : α → State → State) (h : ∀ a, KeepsMem (g a)) : KeepsMem (forAll l g) :=
  fun s hs => forAll_keeps (fun t => Memory.wf t.mem = true) l g (fun a t ht => h a t ht) s hs

theorem keeps_wr (f : Fld) (v : Nat) : KeepsMem (fun s => s.wr f v) := fun _ h => h

theorem flipInto_mem (wa : Nat) (s : State) : (flipInto wa s).mem = s.mem := by
  unfold flipInto
  split <;> rfl

theorem keeps_flipInto (wa : Nat) : KeepsMem (flipInto wa) := fun s h => by rw [flipInto_mem]; exact h

theorem sealWord_mem (wa : Nat) (s : State) : (sealWord wa s).mem = s.mem := flipInto_mem wa _

theorem keeps_fillWrite (a n : Nat) : KeepsMem (fillWrite a n) :=
  fun s h => keeps_forAll _ flipInto keeps_flipInto _ (wf_fillZero a n s h)

theorem keeps_sealWord (wa : Nat) : KeepsMem (sealWord wa) := fun s h => by rw [sealWord_mem]; exact h

theorem keeps_settleWord (wa : Nat) : KeepsMem (settleWord wa) := fun s h => by
  simp only [settleWord, setPattern_mem]
  exact wf_putBytes _ _ s h

theorem keeps_retireWord (wa v : Nat) : KeepsMem (retireWord wa v) := fun s h => by
  simp only [retireWord]
  rw [sealWord_mem]
  exact wf_putBytes _ _ s h

theorem keeps_writeBack (wa v : Nat) : KeepsMem (writeBack wa v) := fun s h => by
  simp only [writeBack]
  rw [sealWord_mem]
  exact wf_putBytes _ _ s h

theorem keeps_wipeOnChip : KeepsMem wipeOnChip := fun s h => by
  simp only [wipeOnChip]
  exact wf_filter _ _ h

theorem keeps_fillArray (k : Fin 16) : KeepsMem (fillArray k) := fun s h => by
  simp only [fillArray]
  exact wf_filter _ _ h

theorem keeps_launchWipe : KeepsMem launchWipe := fun s h => by
  simp only [launchWipe]
  exact wf_filter _ _ h

theorem keeps_ddrForgets : KeepsMem ddrForgets := fun s h => by
  simp only [ddrForgets]
  exact wf_filter _ _ h

theorem keeps_zeros (l : List Nat) : KeepsMem (fun s => forAll l (putByte · 0) s) :=
  fun s h => keeps_forAll l _ (fun a t ht => wf_putByte a 0 t ht) s h

theorem keeps_loseDdr : KeepsMem loseDdr := fun s h =>
  keeps_forAll _ _ (fun _ t ht => keeps_zeros _ t ht) _ (keeps_ddrForgets s h)

theorem keeps_storeRaw (wa d c : Nat) : KeepsMem (storeRaw wa d c) := fun s h => by
  simp only [storeRaw]
  split
  · rw [setPattern_mem]; exact wf_putBytes _ _ s h
  · rw [setPattern_mem]; exact h

theorem keeps_fillGroup (d : Nat) : KeepsMem (fillGroup d) := fun s h => by
  simp only [fillGroup]
  split
  · rw [State.orBit_mem]; exact keeps_fillWrite _ _ s h
  · split
    · rw [State.orBit_mem]; exact keeps_fillWrite _ _ s h
    · exact h

end Sys2Proof.Machine
end

