-- ==== Sys2Proof/Laws/Cox.lean ====
section
/-!
SUPPORT. What an issue group of one trigger of an arithmetic unit does: the results that it delivers, and what stays.
-/
namespace Sys2Proof.Machine

theorem issueOne_unit (s : State) (c : CoxId) (u off v : Nat) (h : Quiet s c)
    (hu : 3 ≤ u ∧ u ≤ 18 ∧ u ∉ [12, 13, 14, 15, 16, 17]) (ho : 8 ≤ off ∧ off < 32)
    (hw : writeRight (portOf u off) = some false)
    (hb : triggerBad s c false u off v = false) :
    issueOne c (portOf u off) v false s = 
      issueNow c [(oneMove (core s c).pc (portOf u off) v false, false)] []
        [⟨(oneMove (core s c).pc (portOf u off) v false, false, ⟨false, 0, portOf u off, .imm v, 0⟩), v⟩]
        [⟨u, off, v, (core s c).pc, off * 8⟩] ⟨pushParts (core s c), []⟩ s := by
  obtain ⟨hm, hc, hf, hsb, hx, hsh, -, hg⟩ := h
  have h1 : unitOf (portOf u off) = u := by simp only [unitOf, portOf]; omega
  have h2 : offOf (portOf u off) = off := by simp only [offOf, portOf]; omega
  have ht : isTrigger (portOf u off) = true := by
    have : 0x80 ≤ portOf u off ∧ portOf u off < 0x2E0 := by simp only [portOf]; omega
    simp [isTrigger, h2, this, ho]
  have hr : isRudder (portOf u off) = false := by
    have : 0xE8 ≤ portOf u off := by simp only [portOf]; omega
    simp only [isRudder, Bool.and_eq_false_imp, decide_eq_true_eq, decide_eq_false_iff_not]; omega
  have hL : (portOf u off == pLoopStart) = false := by simp [portOf, pLoopStart]; omega
  have hE : (portOf u off == 0xAE) = false := by simp [portOf]; omega
  have h8f : (portOf u off == 0x8F) = false := by simp [portOf]; omega
  have h80 : ¬ portOf u off < 0x80 := by simp [portOf]; omega
  have hS : isStatePort (portOf u off) = false := by
    have : 0xE8 ≤ portOf u off := by simp only [portOf]; omega
    simp only [isStatePort, Bool.and_eq_false_imp, decide_eq_true_eq, decide_eq_false_iff_not]; omega
  have hheld : heldUp (core s c) = false := by simp [heldUp, hf]
  have hit : groupItems s c [(oneMove (core s c).pc (portOf u off) v false, false)] = [⟨(oneMove (core s c).pc (portOf u off) v false, false, ⟨false, 0, portOf u off, .imm v, 0⟩), v⟩] := by
    simp [groupItems, groupMoves, oneMove, guardOn, mvValue]
  have hlast : ∀ i : Item, lastOnly [i] = [i] := by intro i; simp [lastOnly]
  have htr : groupTrigs [⟨(oneMove (core s c).pc (portOf u off) v false, false, ⟨false, 0, portOf u off, .imm v, 0⟩), v⟩] = [⟨u, off, v, (core s c).pc, off * 8⟩] := by
    simp [groupTrigs, lastPerUnit, Item.dest, ht, sortKey, insertKey, trigOf, h1, h2, oneMove, bnat]
  have hop : operandWrite c ⟨(oneMove (core s c).pc (portOf u off) v false, false, ⟨false, 0, portOf u off, .imm v, 0⟩), v⟩ s = s := by
    simp [operandWrite, Item.dest, ht]
  have hoe : groupFault s s c [(oneMove (core s c).pc (portOf u off) v false, false)] [⟨(oneMove (core s c).pc (portOf u off) v false, false, ⟨false, 0, portOf u off, .imm v, 0⟩), v⟩] = none := by
    simp [groupFault, firstPort, movePorts, cacheOpPriv, bundleFault, headerBad, moveBad, itemBad, oneMove, Bun.rudder, hr, hL, hx, groupMoves, hw,
      Item.dest, h8f, hS, ht, h1, h2, hb]
  have htn : trigNeed s c ⟨u, off, v, (core s c).pc, off * 8⟩ = .nothing := by
    simp only [List.mem_cons, List.not_mem_nil, or_false, not_or] at hu
    unfold trigNeed
    split <;> simp_all
  have hn : needCheck c [(oneMove (core s c).pc (portOf u off) v false, false)] [⟨u, off, v, (core s c).pc, off * 8⟩] s s = (s, .nothing, ⟨pushParts (core s c), []⟩) := by
    have hu1 : (u == 1) = false := by simp; omega
    simp [needCheck, shadowNeed, eretLevel, hx, sortKey, insertKey, htn, hu1]
  have hsa : sbAfter s c [⟨u, off, v, (core s c).pc, off * 8⟩] = 0 := by
    simp only [List.mem_cons, List.not_mem_nil, or_false, not_or] at hu
    have : ¬ ((u = 12 ∨ u = 13) ∧ 16 ≤ off ∧ off < 20) := by omega
    simp [sbAfter, this, hsb]
  have hser : (oneMove (core s c).pc (portOf u off) v false).serial = false := rfl
  have hid : idles s c = false := by
    have hw : waiting s c = false := by simp only [mayIssue, Bool.and_eq_true, Bool.not_eq_true'] at hm; exact hm.1.1.2
    simp [idles, hw]
  simp only [issueOne, coreCycle, hm, hc, hheld, hid, hg]
  simp [issueGroup, issueChecked, hit, hlast, hop, hoe, htr, hn, hsa, forAll, hser, Item.dest, hE]


theorem core_setCore_self (c : CoxId) (k : Core) (s : State) : core (setCore c k s) c = k := by simp [core, setCore]
theorem core_setCore_other {c d : CoxId} (h : d ≠ c) (k : Core) (s : State) : core (setCore c k s) d = core s d := by
  simp only [core, setCore]
  have : c.val ≠ d.val := fun e => h (Fin.ext e.symm)
  simp [this]
theorem core_onCore_self (c : CoxId) (f : Core → Core) (s : State) : core (onCore c f s) c = f (core s c) := core_setCore_self c _ s
theorem core_onCore_other {c d : CoxId} (h : d ≠ c) (f : Core → Core) (s : State) : core (onCore c f s) d = core s d :=
  core_setCore_other h _ s

/-- Nothing but core c differs. -/
def OnlyCore (c : CoxId) (s t : State) : Prop :=
  t.mem = s.mem ∧ t.regs = s.regs ∧ t.ddrEpoch = s.ddrEpoch ∧ ∀ d, d ≠ c → core t d = core s d

theorem OnlyCore.refl (c : CoxId) (s : State) : OnlyCore c s s := ⟨rfl, rfl, rfl, fun _ _ => rfl⟩
theorem OnlyCore.trans {c : CoxId} {s t u : State} (h : OnlyCore c s t) (g : OnlyCore c t u) : OnlyCore c s u :=
  ⟨g.1.trans h.1, g.2.1.trans h.2.1, g.2.2.1.trans h.2.2.1, fun d hd => (g.2.2.2 d hd).trans (h.2.2.2 d hd)⟩
theorem OnlyCore.on (c : CoxId) (f : Core → Core) (s : State) : OnlyCore c s (onCore c f s) :=
  ⟨rfl, rfl, rfl, fun _ hd => core_onCore_other hd f s⟩

theorem raise_only (c : CoxId) (e : Exc) (s : State) : OnlyCore c s (raise c e s) := OnlyCore.on c _ s

/-- Values that a list of writes leaves at the ports, where no port is written twice. -/
theorem nget_writes (l : List (Nat × Nat)) (m : NMap Nat) (h : l.Pairwise (fun a b => a.1 ≠ b.1)) :
    ∀ w ∈ l, nget w.1 (l.foldl (fun m w => nput w.1 w.2 m) m) = some w.2 := by
  have keep : ∀ (l : List (Nat × Nat)) (m : NMap Nat) (p : Nat), (∀ w ∈ l, p ≠ w.1) →
      nget p (l.foldl (fun m w => nput w.1 w.2 m) m) = nget p m := by
    intro l
    induction l with
    | nil => intros; rfl
    | cons a l ih =>
      intro m p hp
      rw [List.foldl_cons, ih _ _ (fun w hw => hp w (List.mem_cons_of_mem _ hw)), nget_nput_other (hp a (List.mem_cons_self ..))]
  induction l generalizing m with
  | nil => intro w hw; cases hw
  | cons a l ih =>
    rw [List.pairwise_cons] at h
    intro w hw
    rcases List.mem_cons.mp hw with e | e
    · subst e
      rw [List.foldl_cons, keep l _ _ (fun x hx => h.1 x hx), nget_nput_self]
    · rw [List.foldl_cons]; exact ih _ h.2 w e

theorem onCore_congr {c : CoxId} {f g : Core → Core} {s : State} (h : f (core s c) = g (core s c)) : onCore c f s = onCore c g s := by
  simp [onCore, h]

theorem onCore_id {c : CoxId} {f : Core → Core} {s : State} (h : f (core s c) = core s c) : onCore c f s = s := by
  rw [onCore, h]
  simp [setCore, core]

theorem complete_one (c : CoxId) (f : Flight) (s : State) :
    OnlyCore c s (complete c [f] s) ∧ core (complete c [f] s) c = { landFlight (core s c) f with exc := (core (complete c [f] s) c).exc } := by
  simp only [complete, sortKey, List.foldl_cons, List.foldl_nil, insertKey, forAll_cons, forAll_nil]
  constructor
  · split
    · exact (OnlyCore.on c _ s).trans (raise_only c _ _)
    · exact OnlyCore.on c _ s
  · split <;> simp [raise, core_onCore_self, landFlight]

/-- A lone new operation that is no load settles: it lands if its cycle has come, and stays in flight otherwise. -/
theorem settle_one (c : CoxId) (s : State) (f : Flight) (hf : (core s c).flight = [f]) (hs : (core s c).sb = []) (hr : f.ready = true) :
    OnlyCore c s (settle c s) ∧
    (if f.land ≤ (core s c).cyc then
      (core (settle c s) c) = { landFlight { core s c with flight := [] } f with exc := (core (settle c s) c).exc }
     else core (settle c s) c = core s c) := by
  by_cases h : f.land ≤ (core s c).cyc
  · simp only [h, if_true]
    have e0 : onCore c (fun k => { k with flight := k.flight.filter (fun g => !(g.ready && decide (g.land ≤ (core s c).cyc))) }) s
        = onCore c (fun k => { k with flight := [] }) s := onCore_congr (by simp [hf, hr, h])
    have e : settle c s = complete c [f] (onCore c (fun k => { k with flight := [] }) s) := by
      have e1 : (core s c).flight.filter (fun g => g.ready && decide (g.land ≤ (core s c).cyc)) = [f] := by simp [hf, hr, h]
      simp only [settle, e0, e1]
      have := (complete_one c f (onCore c (fun k => { k with flight := [] }) s)).2
      rw [this]
      simp [landFlight, core_onCore_self, hs, drainDue]
    rw [e]
    refine ⟨(OnlyCore.on c _ s).trans (complete_one c f _).1, ?_⟩
    have := (complete_one c f (onCore c (fun k => { k with flight := [] }) s)).2
    rw [core_onCore_self] at this
    exact this
  · simp only [h, if_false]
    have e0 : onCore c (fun k => { k with flight := k.flight.filter (fun g => !(g.ready && decide (g.land ≤ (core s c).cyc))) }) s
        = s := onCore_id (by simp [hf, hr, h]; rw [← hf])
    have e : settle c s = s := by
      have e1 : (core s c).flight.filter (fun g => g.ready && decide (g.land ≤ (core s c).cyc)) = [] := by simp [hf, h]
      simp only [settle, e0, e1, complete, sortKey, List.foldl_nil, forAll_nil]
      rw [onCore_id rfl, hs]
      rfl
    rw [e]
    exact ⟨OnlyCore.refl c s, rfl⟩

/-- What an arithmetic trigger's flight is, with the free choice of a compare (R228). -/
theorem fireUnit_spec (c : CoxId) (g : Trig) (s : State) (hf : (core s c).flight = []) :
    ∃ same, OnlyCore c s (fireUnit c g s) ∧
      core (fireUnit c g s) c
        = { core s c with flight := [unitFlight (core s c) g (operandPort s c g.unit 0) (operandPort s c g.unit 1)
              (operandPort s c g.unit 1) same] } := by
  simp only [fireUnit]
  split
  · refine ⟨(Config.openWord s.freeCtr).getLsbD 0, ⟨rfl, rfl, rfl, fun d hd => core_onCore_other hd _ _⟩, ?_⟩
    simp only [addFlight, core_onCore_self]
    have : core (s.fresh).2 c = core s c := rfl
    simp only [this, hf, List.filter_nil, List.nil_append]
    rfl
  · refine ⟨false, OnlyCore.on c _ s, ?_⟩
    simp only [addFlight, core_onCore_self, hf, List.filter_nil, List.nil_append]

theorem unitFlight_ready (k : Core) (g : Trig) (a b d : Nat) (same : Bool) : (unitFlight k g a b d same).ready = true := by
  simp only [unitFlight]
  split <;> rfl

theorem unitFlight_writes (k : Core) (g : Trig) (a b d : Nat) (same : Bool) :
    (unitFlight k g a b d same).writes.Pairwise (fun x y => x.1 ≠ y.1) := by
  simp only [unitFlight]
  split <;> simp [flightOf, fpFlight, divFlight, fpu1Flight]
  split <;> simp


theorem unitFlight_land (k : Core) (g : Trig) (a b d : Nat) (same : Bool) :
    (unitFlight k g a b d same).land = k.cyc + latency g.unit g.off := by
  unfold unitFlight
  split <;> simp_all [flightOf, fpFlight, divFlight, fpu1Flight]

theorem latency_pos (u off : Nat) : 1 ≤ latency u off := by
  unfold latency
  repeat' split
  all_goals omega

/-- A core as the end of a group of one bundle with no transfer or loop leaves it. -/
def pastOne (pc : Nat) (k : Core) : Core :=
  { k with pc := pc + 16, faulted := [], paired := false, owe := 0, queue := k.queue.filter (fun q => !(pc == q.1)) }

theorem afterGroup_one {c : CoxId} {pc port v : Nat} {s : State} (hr : isRudder port = false) (ho : (core s c).owe = 0) :
    afterGroup c [(oneMove pc port v false, false)] none false s = onCore c (pastOne pc) s := by
  have hn : ([(oneMove pc port v false, false)] : Group).find? (fun b => b.1.rudder && (predicted s c b.1.va).isSome) = none := by
    simp [Bun.rudder, oneMove, hr]
  have hi : (if (core s c).xfer.isNone = true then
      ([(oneMove pc port v false, false)] : Group).find? (fun b => b.1.rudder && (predicted s c b.1.va).isSome) else none) = none := by
    rw [hn, ite_self]
  simp only [afterGroup, hi, ho]
  have hg : ∀ x : State, goesOn c [(oneMove pc port v false, false)] 0 false x = x := fun x => by simp [goesOn, payCycles, oneMove]
  rw [hg]
  exact onCore_congr (by simp [pastOne, oneMove, groupNext])

/-- A lone trigger of an arithmetic unit delivers its flight's results in its latency; one of latency 1 has also written its
predicates; nothing but the unit's results, flags and predicates and the program counter differs. -/
theorem unit_result (s : State) (c : CoxId) (u off v : Nat) (h : Quiet s c)
    (hu : 3 ≤ u ∧ u ≤ 18 ∧ u ∉ [12, 13, 14, 15, 16, 17]) (ho : 8 ≤ off ∧ off < 32)
    (hw : writeRight (portOf u off) = some false) (hb : triggerBad s c false u off v = false) :
    ∃ same, (∀ w ∈ (unitFlight (core s c) ⟨u, off, v, (core s c).pc, off * 8⟩ (o1 s c u) (o2 s c u) (o2 s c u) same).writes,
        Delivers s (issueOne c (portOf u off) v false s) c (latency u off) w.1 w.2)
      ∧ (latency u off = 1 → (core (issueOne c (portOf u off) v false s) c).preds
          = (unitFlight (core s c) ⟨u, off, v, (core s c).pc, off * 8⟩ (o1 s c u) (o2 s c u) (o2 s c u) same).preds.foldl
              (fun p w => setBit p w.1 w.2) (core s c).preds)
      ∧ UnitFrame s (issueOne c (portOf u off) v false s) c := by
  have hi := issueOne_unit s c u off v h hu ho hw hb
  obtain ⟨hm, hc, hf, hsb, hx, hsh, hq, hgap⟩ := h
  have hp : 0xE0 ≤ portOf u off := by simp only [portOf]; omega
  have h1 : unitOf (portOf u off) = u := by simp only [unitOf, portOf]; omega
  obtain ⟨same, hfo, hfc⟩ := fireUnit_spec c ⟨u, off, v, (core s c).pc, off * 8⟩ s hf
  refine ⟨same, ?_⟩
  generalize hF : unitFlight (core s c) ⟨u, off, v, (core s c).pc, off * 8⟩ (o1 s c u) (o2 s c u) (o2 s c u) same = f at *
  have hfl : f.land = (core s c).cyc + latency u off := hF ▸ unitFlight_land ..
  have hlp := latency_pos u off
  have hfr : f.ready = true := hF ▸ unitFlight_ready ..
  have hfw := hF ▸ unitFlight_writes (core s c) ⟨u, off, v, (core s c).pc, off * 8⟩ (o1 s c u) (o2 s c u) (o2 s c u) same
  have hfire : ∀ (n : Nat) (x : State), fire c n ⟨u, off, v, (core s c).pc, off * 8⟩ x = fireUnit c ⟨u, off, v, (core s c).pc, off * 8⟩ x := by
    intro n x
    simp only [List.mem_cons, List.not_mem_nil, or_false, not_or] at hu
    unfold fire
    split <;> simp_all
  have hsp : isShadowPort (portOf u off) = false := by
    simp only [isShadowPort, Bool.and_eq_false_imp, decide_eq_true_eq, decide_eq_false_iff_not]; omega
  have h87 : (portOf u off == 0x87) = false := by simp; omega
  have hG : ∀ (p : Nat) (k : Core), 64 ≤ p → regWriteG p v k = k := by intro p k hp; simp [regWriteG]; omega
  have hP : ∀ (p : Nat) (k : Core), 0x50 ≤ p → regWriteP p v k = k := by intro p k hp; simp [regWriteP]; omega
  have hu0 : (u == 0) = false := by simp; omega
  -- the state before the settling, after it, and what the end of the group does
  let s1 := fireUnit c ⟨u, off, v, (core s c).pc, off * 8⟩ s
  let s2 := onCore c (fun k => { k with xfer := k.xfer.map (fun x => x.given (core s c) ⟨pushParts (core s c), []⟩), shadow := none }) s1
  let s3 := onCore c (fun k => k.runs 1) s2
  have hs1 : core s1 c = { core s c with flight := [f] } := by
    rw [show s1 = fireUnit c ⟨u, off, v, (core s c).pc, off * 8⟩ s from rfl, hfc, ← hF]; rfl
  have hs3 : core s3 c = { (core s c).runs 1 with flight := [f], shadow := none } := by
    simp [s3, s2, core_onCore_self, hs1, hx, Core.runs, Core.cycles]
  obtain ⟨hso, hsc⟩ := settle_one c s3 f (by rw [hs3]) (by rw [hs3]; exact hsb) hfr
  let s4 := settle c s3
  let after := pastOne (core s c).pc
  have e : issueOne c (portOf u off) v false s = onCore c after s4 := by
    have hrud : isRudder (portOf u off) = false := by
      simp only [isRudder, Bool.and_eq_false_imp, decide_eq_true_eq, decide_eq_false_iff_not]; omega
    have hid : ∀ x : State, onCore c (fun k => k) x = x := fun x => onCore_id rfl
    have hxn : onCore c (fun k => { k with xfer := none }) s = s := onCore_id (by rw [← hx])
    have howe : (core s4 c).owe = 0 := by
      by_cases hl : f.land ≤ (core s3 c).cyc <;> simp only [hl, if_true, if_false] at hsc <;> simp only [s4]
      · rw [hsc]; simp [landFlight, hs3, Core.runs, Core.cycles, hq]
      · rw [hsc]; simp [hs3, Core.runs, Core.cycles, hq]
    rw [hi]
    simp only [issueNow, hx, hsh, forAll_cons, forAll_nil, hfire, lastOnly, Item.dest, List.any_nil, Bool.false_eq_true, if_false,
      List.filter_cons, List.filter_nil, hsp, List.any_cons, Bool.or_false, h87, List.foldl_cons, List.foldl_nil, hG _ _ (show 64 ≤ portOf u off by omega),
      hP _ _ (show 0x50 ≤ portOf u off by omega), hid, hu0, Bool.false_and, Option.isSome_none, Option.map_none, hxn]
    exact afterGroup_one hrud howe
  have honly : OnlyCore c s (issueOne c (portOf u off) v false s) := by
    rw [e]
    exact (((hfo.trans (OnlyCore.on c _ _)).trans (OnlyCore.on c _ _)).trans hso).trans (OnlyCore.on c _ _)
  have hq5 : core (issueOne c (portOf u off) v false s) c = after (core s4 c) := by rw [e, core_onCore_self]
  have hs4 : core s4 c = core (settle c s3) c := rfl
  have hcyc : (core s3 c).cyc = (core s c).cyc + 1 := by rw [hs3]; rfl
  refine ⟨?_, ?_, ?_⟩
  · intro w hwm
    by_cases hl : f.land ≤ (core s3 c).cyc
    · have h1 : latency u off = 1 := by omega
      simp only [hl, if_true] at hsc
      simp only [Delivers, h1, if_true]
      rw [hq5, hs4, hsc]
      exact nget_writes f.writes _ hfw w hwm
    · have h1 : latency u off ≠ 1 := by omega
      simp only [hl, if_false] at hsc
      simp only [Delivers, h1, if_false]
      refine ⟨f, ?_, hwm, hfl⟩
      rw [hq5, hs4, hsc, hs3]
      simp [after, pastOne]
  · intro h1
    have hl : f.land ≤ (core s3 c).cyc := by omega
    simp only [hl, if_true] at hsc
    rw [hq5, hs4, hsc, hs3]
    rfl
  · refine ⟨fun a => memByte_congr honly.1 honly.2.2.1 a, honly.2.1, ?_, honly.2.2.2⟩
    by_cases hl : f.land ≤ (core s3 c).cyc
    · simp only [hl, if_true] at hsc
      rw [hq5, hs4, hsc, hs3]
      simp [SameCore, past, landFlight, after, pastOne, Core.runs, Core.cycles]
    · simp only [hl, if_false] at hsc
      rw [hq5, hs4, hsc, hs3]
      simp [SameCore, past, after, pastOne, Core.runs, Core.cycles]

end Sys2Proof.Machine
end

