-- ==== Sys2Proof/Laws/Open.lean ====
section
/-!
SUPPORT. What a read and a write of on-chip memory do that is open to their master: nothing but the bytes written.
-/
namespace Sys2Proof.Machine

/-! ### Bytes and words -/

theorem leBytes_length (n x : Nat) : (leBytes n x).length = n := by
  induction n generalizing x with
  | zero => rfl
  | succ n ih => simp [leBytes, ih]

theorem leBytes_leNat (bs : List Byte) : leBytes bs.length (leNat bs) = bs := by
  induction bs with
  | nil => rfl
  | cons b bs ih =>
    have h : (b.toNat + 256 * leNat bs) / 256 = leNat bs := by have := b.isLt; omega
    have h' : (b.toNat + 256 * leNat bs) % 256 = b.toNat := by have := b.isLt; omega
    simp [leNat, leBytes, h, h', ih]

theorem leNat_leBytes (n x : Nat) : leNat (leBytes n x) = x % 2 ^ (8 * n) := by
  induction n generalizing x with
  | zero => simp [leBytes, leNat, Nat.mod_one]
  | succ n ih =>
    have h := Nat.mod_mul (a := 256) (b := 2 ^ (8 * n)) (x := x)
    simp only [leBytes, leNat, ih, BitVec.toNat_ofNat, show 2 ^ 8 = 256 from rfl, Nat.mod_mod]
    rw [show 8 * (n + 1) = 8 + 8 * n by omega, Nat.pow_add, show 2 ^ 8 = 256 from rfl, h]

theorem leNat_lt (bs : List Byte) : leNat bs < 2 ^ (8 * bs.length) := by
  have := leNat_leBytes bs.length (leNat bs)
  rw [leBytes_leNat] at this
  rw [this]
  exact Nat.mod_lt _ (Nat.two_pow_pos _)

/-! ### Register accesses that have rows of their own (R481, R494) -/

/-- All that such an access can do: its effect, the answer of a block under test, or the wait at a block in reset. -/
theorem reaches_cases (m : Master) (b : Blk) (off : Nat) (op : BusOp) (f : State → State) (s : State) :
    (blkOpen s b = true ∧ reaches m b off op f s = f s) ∨
    (s.flt.underTest.contains b = true ∧ ∃ q : Req, q.master = m ∧
      reaches m b off op f s = respond q (emptyReply q rInTest) (countInTest q rInTest s)) ∨
    (s.flt.resets.contains b = true ∧ ∃ h : Held, h.req.master = m ∧ reaches m b off op f s = hold h (.block b) s) := by
  unfold reaches
  by_cases ht : s.flt.underTest.contains b = true
  · exact .inr (.inl ⟨ht, ⟨m, 0, BitVec.ofNat 44 (b.base + off), op⟩, rfl, by rw [if_pos ht]⟩)
  · rw [if_neg ht]
    by_cases hr : s.flt.resets.contains b = true
    · exact .inr (.inr ⟨hr, _, rfl, by rw [if_pos hr]⟩)
    · exact .inl ⟨by simp only [blkOpen, Bool.eq_false_iff.mpr ht, Bool.eq_false_iff.mpr hr]; rfl, by rw [if_neg hr]⟩

/-- At a block that takes accesses, the access has its effect. -/
theorem reaches_open {s : State} {b : Blk} (h : blkOpen s b = true) (m : Master) (off : Nat) (op : BusOp) (f : State → State) :
    reaches m b off op f s = f s := by
  simp only [blkOpen, Bool.and_eq_true, Bool.not_eq_true'] at h
  simp only [reaches, h.1, h.2, Bool.false_eq_true, if_false]

@[simp] theorem memBytes_length (s : State) (a n : Nat) : (memBytes s a n).length = n := by simp [memBytes]

theorem memBytes_getElem (s : State) (a n i : Nat) (h : i < (memBytes s a n).length) : (memBytes s a n)[i] = memByte s (a + i) := by
  simp [memBytes]

theorem memBytes_append (s : State) (a m n : Nat) : memBytes s a m ++ memBytes s (a + m) n = memBytes s a (m + n) := by
  simp [memBytes, List.range_add, Nat.add_assoc]

theorem memBytes_slice (s : State) (a k d n : Nat) (h : d + n ≤ k) : ((memBytes s a k).drop d).take n = memBytes s (a + d) n := by
  apply List.ext_getElem
  · simp; omega
  · intro i h1 h2
    simp [memBytes, Nat.add_assoc]

theorem memBytes_words (s : State) (a k : Nat) :
    (List.range k).flatMap (fun i => memBytes s ((a + i) * 8) 8) = memBytes s (a * 8) (k * 8) := by
  induction k with
  | zero => simp [memBytes]
  | succ k ih =>
    rw [List.range_succ, List.flatMap_append, ih, List.flatMap_singleton, Nat.add_mul, Nat.add_mul, Nat.one_mul, memBytes_append]

theorem memBytes_congr {s t : State} (h : ∀ x, memByte t x = memByte s x) (a n : Nat) : memBytes t a n = memBytes s a n := by
  simp [memBytes, h]

theorem memBytes_putBytes (a : Nat) (bs : List Byte) (s : State) : memBytes (putBytes a bs s) a bs.length = bs := by
  apply List.ext_getElem
  · simp
  · intro i h1 h2
    rw [memBytes_getElem, memByte_putBytes_self]

/-- Writing what memory holds changes no byte. -/
theorem memByte_rewrite (s : State) (a n x : Nat) : memByte (putBytes a (memBytes s a n) s) x = memByte s x := by
  by_cases h : x < a ∨ a + n ≤ x
  · exact memByte_putBytes_other _ _ _ _ (by simpa using h)
  · obtain ⟨i, rfl⟩ : ∃ i, x = a + i := ⟨x - a, by omega⟩
    rw [memByte_putBytes_self _ _ _ _ (by simp; omega), memBytes_getElem]

/-! ### Admission -/

theorem probes_in {s : State} {a n x : Nat} (hn : 0 < n) (h : x ∈ probes s a n) : a ≤ x ∧ x < a + n := by
  have key : ∀ g : Nat, 0 < g → ∀ i, i < (a + n - 1) / g - a / g → a ≤ (a / g + i + 1) * g ∧ (a / g + i + 1) * g < a + n := by
    intro g hg i hi
    have h1 : a < (a / g + 1) * g := by rw [Nat.mul_comm]; exact Nat.lt_mul_div_succ a hg
    have h2 : (a + n - 1) / g * g ≤ a + n - 1 := Nat.div_mul_le_self _ _
    have h3 : (a / g + 1) * g ≤ (a / g + i + 1) * g := Nat.mul_le_mul_right _ (by omega)
    have h4 : (a / g + i + 1) * g ≤ (a + n - 1) / g * g := Nat.mul_le_mul_right _ (by omega)
    omega
  simp only [probes, List.mem_cons, List.mem_map, List.mem_range] at h
  rcases h with rfl | ⟨i, hi, rfl⟩
  · omega
  · split at hi <;> rename_i hu <;> simp only [hu] <;> exact key _ (by decide) i hi

/-- A bank that is the master's is not refused for QUIET (R137). -/
theorem quietRefused_open {s : State} {m x : Nat} (h : inCrew x = true → ownCheck s m (crewBank x).1 = .allowed) :
    quietRefused m x s = false := by
  simp only [quietRefused, Bool.and_eq_false_iff, Bool.or_eq_false_iff, beq_eq_false_iff_ne]
  by_cases hc : inCrew x = true
  · have ho := h hc
    by_cases h4 : m = 14 ∨ m = 15
    · right
      intro hq
      have h12 : ¬(m = 12 ∨ m = 13) := by omega
      simp [ownCheck, h12, h4, hq] at ho
    · left; right
      omega
  · left; left
    exact Bool.eq_false_iff.mpr hc

theorem admitBy_open {m a n : Nat} {s : State} (h : Open m a n s) {y : Way}
    (hw : ∀ x, a ≤ x → x < a + n → y.wake x s = (s, true)) (w : Bool) {x : Nat} (h1 : a ≤ x) (h2 : x < a + n) :
    admitBy y m w x s = (s, 0) := by
  obtain ⟨-, ht, -, ho⟩ := h.2.2.1 x h1 h2
  simp only [admitBy, ht, hw x h1 h2, quietRefused_open ho, Bool.false_eq_true, if_false]
  by_cases hc : inCrew x = true
  · simp [hc, ho hc, rOkay]
  · simp [hc, rOkay]

theorem wakeFor_open {m a n : Nat} {s : State} (h : Open m a n s) (x : Nat) (h1 : a ≤ x) (h2 : x < a + n) :
    wakeFor x s = (s, true) := by
  simp [wakeFor, (h.2.2.1 x h1 h2).1]

theorem wakeGroup_open {m a n : Nat} {s : State} (h : Open m a n s) (x : Nat) (h1 : a ≤ x) (h2 : x < a + n) :
    wakeGroup x s = (s, true) := by
  simp [wakeGroup, (h.2.2.1 x h1 h2).1]

theorem admitRangeBy_open {m a n : Nat} {s : State} (h : Open m a n s) {y : Way}
    (hw : ∀ x, a ≤ x → x < a + n → y.wake x s = (s, true)) (w : Bool) : admitRangeBy y m w a n s = (s, 0) := by
  have fold : ∀ l : List Nat, (∀ x ∈ l, a ≤ x ∧ x < a + n) →
      l.foldl (fun (acc : State × Nat) x => if acc.2 ≠ 0 then acc else admitBy y m w x acc.1) (s, 0) = (s, 0) := by
    intro l
    induction l with
    | nil => intro _; rfl
    | cons x l ih =>
      intro hl
      rw [List.foldl_cons]
      have := admitBy_open h hw w (hl x (List.mem_cons_self ..)).1 (hl x (List.mem_cons_self ..)).2
      simp only [ne_eq, not_true_eq_false, if_false, this]
      exact ih (fun y hy => hl y (List.mem_cons_of_mem _ hy))
  exact fold _ (fun x hx => probes_in h.1 hx)

theorem admitRange_open {m a n : Nat} {s : State} (h : Open m a n s) (w : Bool) : admitRange m w a n s = (s, 0) :=
  admitRangeBy_open (y := inStep) h (wakeFor_open h) w

theorem onChip_open {m a n : Nat} {s : State} (h : Open m a n s) :
    (rangeIn 0 courseSize a n || rangeIn crewBase crewSize a n) = true := by
  have := h.2.1
  simp only [rangeIn, Bool.or_eq_true, Bool.and_eq_true, decide_eq_true_eq]
  omega

/-! ### Reads -/

theorem readWord_open {m a n : Nat} {s : State} (h : Open m a n s) (access : Nat) {wa : Nat} (hw : wa ∈ wordsOf a n) :
    readWord m access wa s = (s, memWord s wa, false) := by
  obtain ⟨hp, hq, -⟩ := h.2.2.2 wa hw
  simp [readWord, hq, hp, eccOutcome, readValue]

theorem leBytes_memWord (s : State) (wa : Nat) : leBytes 8 (memWord s wa) = memBytes s wa 8 := by
  have := leBytes_leNat (memBytes s wa 8)
  simpa [memWord] using this

theorem badWords_clean {s : State} {l : List Nat} (h : ∀ wa ∈ l, patternOf s wa = 0) : badWords s l = [] := by
  have : l.filter (fun wa => patternOf s wa ≠ 0 && (queuedWord s wa).isNone) = [] := by
    rw [List.filter_eq_nil_iff]
    intro wa hwa
    simp [h wa hwa]
  simp only [badWords, this, List.foldl_nil]

@[simp] theorem keepLowest_nil (m access : Nat) (s : State) : keepLowest m access [] s = s := rfl

theorem readOnChip_open {m a n : Nat} {s : State} (h : Open m a n s) (access : Nat) :
    readOnChip m access a n s = (s, memBytes s a n, none) := by
  have hb : badWords s (wordsOf a n) = [] := badWords_clean (fun wa hwa => (h.2.2.2 wa hwa).1)
  have hd : (wordsOf a n).flatMap (fun wa => leBytes 8 (readWord m access wa s).2.1)
      = (wordsOf a n).flatMap (fun wa => memBytes s wa 8) := by
    rw [List.flatMap_def, List.flatMap_def]
    congr 1
    exact List.map_congr_left (fun wa hwa => by rw [readWord_open h access hwa]; exact leBytes_memWord s wa)
  have hf : (wordsOf a n).find? (fun wa => (readWord m access wa s).2.2) = none := by
    rw [List.find?_eq_none]
    intro wa hwa
    simp [readWord_open h access hwa]
  have hn := h.1
  have hw : (wordsOf a n).flatMap (fun wa => memBytes s wa 8)
      = memBytes s (a / 8 * 8) (((a + n - 1) / 8 - a / 8 + 1) * 8) := by
    rw [← memBytes_words]
    simp [wordsOf, Nat.pos_iff_ne_zero.mp hn, List.flatMap_map]
  simp only [readOnChip, hb, hd, hf, forAll, List.foldl_nil, keepLowest_nil]
  rw [hw, memBytes_slice _ _ _ _ _ (by omega), show a / 8 * 8 + a % 8 = a by omega]

/-- A read of open memory delivers its bytes and changes nothing, whatever way a sleeping group is woken. -/
theorem chipRead_open {m a n : Nat} {s : State} (h : Open m a n s) {y : Way}
    (hw : ∀ x, a ≤ x → x < a + n → y.wake x s = (s, true)) (access : Nat) :
    chipRead y m access a n s = ⟨s, 0, memBytes s a n, a⟩ := by
  simp [chipRead, admitRangeBy_open h hw, readOnChip_open h]

/-- A read of open memory delivers its bytes and changes nothing. -/
theorem memRead_open {m a n : Nat} {s : State} (h : Open m a n s) (access : Nat) :
    memRead m access a n s = ⟨s, 0, memBytes s a n, a⟩ := by
  simp [memRead, onChip_open h, chipRead_open (y := inStep) h (wakeFor_open h)]

/-! ### Writes -/

/-- The parts of a state that a write of on-chip memory may change. -/
def OnlyCells (s t : State) : Prop := t = { s with mem := t.mem, ecc := t.ecc }

theorem OnlyCells.refl (s : State) : OnlyCells s s := rfl
theorem OnlyCells.trans {s t u : State} (h : OnlyCells s t) (g : OnlyCells t u) : OnlyCells s u := by
  unfold OnlyCells at *
  rw [g, h]
theorem OnlyCells.regs {s t : State} (h : OnlyCells s t) : t.regs = s.regs := by rw [h]

theorem putByte_onlyCells (a : Nat) (b : Byte) (s : State) : OnlyCells s (putByte a b s) := rfl
theorem putBytes_onlyCells (a : Nat) (bs : List Byte) (s : State) : OnlyCells s (putBytes a bs s) := by
  induction bs generalizing a s with
  | nil => exact OnlyCells.refl s
  | cons b bs ih => exact (putByte_onlyCells a b s).trans (ih _ _)
theorem setPattern_onlyCells (wa : Nat) (e : BitVec 72) (s : State) : OnlyCells s (setPattern wa e s) := rfl
@[simp] theorem memByte_setPattern (wa : Nat) (e : BitVec 72) (s : State) (x : Nat) : memByte (setPattern wa e s) x = memByte s x := rfl
@[simp] theorem patternOf_putBytes (wa a : Nat) (bs : List Byte) (s : State) : patternOf (putBytes a bs s) wa = patternOf s wa := by
  simp [patternOf]
theorem patternOf_setPattern_zero (wa x : Nat) (s : State) (h : patternOf s x = 0) : patternOf (setPattern wa 0 s) x = 0 := by
  simp only [setPattern, if_true, patternOf, ngetD] at *
  by_cases e : x = wa
  · simp [e]
  · simpa [nget_ndel_other e] using h

theorem flipMask_onlyCells {s t : State} (h : OnlyCells s t) (wa : Nat) : flipMask t wa = flipMask s wa := by
  rw [h]; rfl

theorem settleWord_clean {wa : Nat} {s : State} (h : patternOf s wa = 0) :
    OnlyCells s (settleWord wa s) ∧ (∀ x, memByte (settleWord wa s) x = memByte s x)
    ∧ ∀ x, patternOf s x = 0 → patternOf (settleWord wa s) x = 0 := by
  have hv : readValue s wa = memWord s wa := by simp [readValue, h, eccOutcome]
  simp only [settleWord, hv, leBytes_memWord]
  refine ⟨(putBytes_onlyCells _ _ _).trans (setPattern_onlyCells _ _ _), fun x => ?_, fun x hx => ?_⟩
  · rw [memByte_setPattern, memByte_rewrite]
  · exact patternOf_setPattern_zero _ _ _ (by simpa using hx)

/-- The write of open memory itself answers OKAY, its bytes stand there, no other byte and nothing else changes. -/
theorem writeOnChip_open {m a : Nat} {bs : List Byte} {s : State} (h : Open m a bs.length s) (access : Nat) :
    ∃ t, writeOnChip m access a bs s = (t, 0) ∧ OnlyCells s t ∧ memBytes t a bs.length = bs ∧ SameMemBut a bs.length s t := by
  have hret : ∀ l : List Nat, (∀ wa ∈ l, wa ∈ wordsOf a bs.length) → forAll l retireFor s = s := by
    intro l
    induction l with
    | nil => intro _; rfl
    | cons wa l ih =>
      intro hl
      have := (h.2.2.2 wa (hl wa (List.mem_cons_self ..))).2.1
      simp only [forAll, List.foldl_cons, retireFor, this, Option.isNone_none, if_true]
      exact ih (fun y hy => hl y (List.mem_cons_of_mem _ hy))
  have hpart : ∀ (l : List Nat) (u : State), OnlyCells s u → (∀ x, memByte u x = memByte s x) →
      (∀ wa ∈ wordsOf a bs.length, patternOf u wa = 0) → (∀ wa ∈ l, wa ∈ wordsOf a bs.length) →
      OnlyCells s (forAll l settleWord u) ∧ ∀ x, memByte (forAll l settleWord u) x = memByte s x := by
    intro l
    induction l with
    | nil => intro u h1 h2 _ _; exact ⟨h1, h2⟩
    | cons wa l ih =>
      intro u h1 h2 h3 hl
      have hp := h3 wa (hl wa (List.mem_cons_self ..))
      obtain ⟨c1, c2, c3⟩ := settleWord_clean hp
      rw [forAll_cons]
      exact ih _ (h1.trans c1) (fun x => (c2 x).trans (h2 x)) (fun x hx => c3 x (h3 x hx)) (fun y hy => hl y (List.mem_cons_of_mem _ hy))
  have hseal : ∀ (l : List Nat) (u : State), OnlyCells s u → (∀ wa ∈ l, wa ∈ wordsOf a bs.length) →
      OnlyCells s (l.foldl (fun s wa => sealWord wa s) u) ∧ ∀ x, memByte (l.foldl (fun s wa => sealWord wa s) u) x = memByte u x := by
    intro l
    induction l with
    | nil => intro u h1 _; exact ⟨h1, fun _ => rfl⟩
    | cons wa l ih =>
      intro u h1 hl
      have hf : flipMask (setPattern wa 0 u) wa = none := by
        rw [flipMask_onlyCells (h1.trans (setPattern_onlyCells _ _ _))]
        exact (h.2.2.2 wa (hl wa (List.mem_cons_self ..))).2.2
      have e : sealWord wa u = setPattern wa 0 u := by simp only [sealWord, flipInto, hf]
      rw [List.foldl_cons, e]
      exact ih _ (h1.trans (setPattern_onlyCells _ _ _)) (fun y hy => hl y (List.mem_cons_of_mem _ hy))
  have hclean : badWords s ((wordsOf a bs.length).filter (fun wa => !covers a bs.length wa)) = [] :=
    badWords_clean (fun wa hwa => (h.2.2.2 wa ((List.mem_filter.mp hwa).1)).1)
  obtain ⟨p1, p2⟩ := hpart ((wordsOf a bs.length).filter (fun wa => !covers a bs.length wa)) s (OnlyCells.refl s) (fun _ => rfl)
    (fun wa hwa => (h.2.2.2 wa hwa).1) (fun wa hwa => (List.mem_filter.mp hwa).1)
  obtain ⟨q1, q2⟩ := hseal (wordsOf a bs.length) _ (p1.trans (putBytes_onlyCells a bs _)) (fun _ hx => hx)
  refine ⟨_, ?_, q1, ?_, ?_⟩
  · simp only [writeOnChip, hret _ (fun _ hx => hx), hclean, List.find?_nil, keepLowest_nil]
    rfl
  · rw [memBytes_congr q2, memBytes_putBytes]
  · intro x hx
    rw [q2, memByte_putBytes_other _ _ _ _ hx, p2]

/-- A write of open memory, whatever way a sleeping group is woken. -/
theorem chipWrite_open {m a : Nat} {bs : List Byte} {s : State} (h : Open m a bs.length s) {y : Way}
    (hw : ∀ x, a ≤ x → x < a + bs.length → y.wake x s = (s, true)) :
    ∃ t, chipWrite y m a bs s = (t, 0) ∧ OnlyCells s t ∧ memBytes t a bs.length = bs ∧ SameMemBut a bs.length s t := by
  simpa [chipWrite, admitRangeBy_open h hw] using writeOnChip_open h accPartial

/-- A write of open memory answers OKAY, its bytes stand there, no other byte and nothing else changes. -/
theorem memWrite_open {m a : Nat} {bs : List Byte} {s : State} (h : Open m a bs.length s) :
    ∃ t, memWrite m a bs s = (t, 0) ∧ OnlyCells s t ∧ memBytes t a bs.length = bs ∧ SameMemBut a bs.length s t := by
  simpa [memWrite, onChip_open h] using chipWrite_open (y := inStep) h (wakeFor_open h)

end Sys2Proof.Machine
end

