-- ==== Sys2Proof/WellFormed.lean ====
section
/-!
DEFINITION. The commands whose operands the device can meet. An operand type excludes most impossible values; these are the
checks that remain. A meaning is given to every term; the ill-formed ones stand for no event.
-/
namespace Sys2Proof

/-- A transaction carries at least one byte (R394). -/
def WriteAct.wf : WriteAct → Bool
  | .store d => !d.isEmpty
  | .add n _ | .swap n _ => n != 0

/-- A block identifier names a block of the device (R4). -/
def BlkId.wf (b : BlkId) : Bool := (Machine.blkAt b.subsys.toNat b.window.toNat).isSome

/-- A failing bit lies in a 72-bit word (R156). -/
def MarchFail.wf (f : MarchFail) : Bool := f.bit < 72

/-- Launch has 14 steps (R439). -/
def LaunchIn.wf (x : LaunchIn) : Bool := x.durations.length == 14 && x.marchFails.all MarchFail.wf

/-- The record types that hardware writes (R180). -/
def recordTypes : List (BitVec 8) := [0x10, 0x12, 0x18, 0x19, 0x20, 0x30, 0x40, 0x50, 0x58]

/-- The well-formed commands. -/
def Instr.wf : Instr → Bool
  | .busRead _ _ _ n _ _ _ => n != 0
  | .busWrite _ _ _ act _ _ => act.wf
  | .marchDone fails => fails.all MarchFail.wf
  | .blockReset b | .blockResetEnd b | .shadowEnd b => b.wf
  -- hardware never writes a reserved type (R180)
  | .ringRecordOffer o _ => recordTypes.contains o.body.type
  | .launch x => x.wf
  -- DATA0 to DATA63 hold 256 bytes (R404)
  | .xspiCommandDone r => r.data.length ≤ 256
  -- a batch holds at least one sample (R372)
  | .batchClose _ samples => !samples.isEmpty
  | _ => true

end Sys2Proof
end

