-- ==== Sys2Proof/Tests/Slice0.lean ====
section
/-!
SUPPORT. Small tests of the model: the checks of WellFormed, a few results the spec gives, and witnesses: for every statement with
hypotheses a concrete state and operands that meet them, clause by clause.
-/
namespace Sys2Proof.Tests

open Sys2Proof.Machine

set_option Elab.async false

/-! ### WellFormed refuses -/

theorem test_wf_read_empty : (Instr.busRead 0 0 0 0 0 false .data).wf = false := by decide
theorem test_wf_write_empty : (Instr.busWrite 0 0 0 (.store []) 0 false).wf = false := by decide
theorem test_wf_add_empty : (Instr.busWrite 0 0 0 (.add 0 1) 0 false).wf = false := by decide
theorem test_wf_march_bit : (Instr.marchDone [⟨0, 0, 0, 72⟩]).wf = false := by decide
theorem test_wf_block : (Instr.blockReset ⟨0, 0xFF⟩).wf = false ∧ (Instr.blockResetEnd ⟨0, 0xFF⟩).wf = false
    ∧ (Instr.shadowEnd ⟨0, 0xFF⟩).wf = false := by decide
theorem test_wf_xspi : (Instr.xspiCommandDone ⟨true, List.replicate 257 0⟩).wf = false := by decide +kernel
theorem test_wf_batch : (Instr.batchClose 0 []).wf = false := by decide

/-! ### The states of the witnesses -/

/-- Every part of Open that is decidable, for a range. -/
def openHere (m a n : Nat) (s : State) : Bool :=
  decide (0 < n) && (decide (a + n ≤ courseSize) || (decide (crewBase ≤ a) && decide (a + n ≤ crewBase + crewSize)))
  && (List.range n).all (fun i => domState s (memDom (a + i)) == 0 && !inTest s (a + i)
    && !s.flt.resets.contains (arrOf (inCrew (a + i)) (bankOf s (a + i)).1).1
    && (!inCrew (a + i) || ownCheck s m (crewBank (a + i)).1 == .allowed))
  && (wordsOf a n).all (fun wa => patternOf s wa == 0 && (queuedWord s wa).isNone && (flipMask s wa).isNone)

theorem open_here {m a n : Nat} {s : State} (h : openHere m a n s = true) : Open m a n s := by
  simp only [openHere, Bool.and_eq_true, Bool.or_eq_true, decide_eq_true_eq, List.all_eq_true, List.mem_range, beq_iff_eq,
    Bool.not_eq_true', Option.isNone_iff_eq_none, List.contains_eq_mem, decide_eq_false_iff_not] at h
  obtain ⟨⟨⟨h1, h2⟩, h3⟩, h4⟩ := h
  refine ⟨h1, h2, ?_, fun wa hw => ⟨(h4 wa hw).1.1, (h4 wa hw).1.2, (h4 wa hw).2⟩⟩
  intro x hx hx'
  obtain ⟨i, rfl⟩ : ∃ i, x = a + i := ⟨x - a, by omega⟩
  obtain ⟨⟨⟨d1, d2⟩, d3⟩, d4⟩ := h3 i (by omega)
  refine ⟨d1, d2, d3, fun hc => ?_⟩
  rcases d4 with d4 | d4
  · rw [hc] at d4; cases d4
  · exact d4

/-- Course memory as a whole is open: its groups run, no block is under test or in reset, no word has an error pattern, no write is
queued and no flip mask armed. -/
def courseOpen (s : State) : Bool :=
  s.flt.underTest.isEmpty && s.flt.resets.isEmpty && s.ecc.isEmpty && s.memx.detQ.isEmpty
  && (List.range 64).all (fun d => domState s (20 + d) == 0) && (List.range 16).all (fun k => s.rd (F (.crsArr (Fin.ofNat 16 k)) 0x008 31 31) == 0)

theorem open_course {m a n : Nat} {s : State} (h : courseOpen s = true) (hn : 0 < n) (ha : a + n ≤ courseSize) : Open m a n s := by
  simp only [courseOpen, Bool.and_eq_true, List.isEmpty_iff, List.all_eq_true, List.mem_range, beq_iff_eq] at h
  obtain ⟨⟨⟨⟨⟨h1, h2⟩, h3⟩, h4⟩, h5⟩, h6⟩ := h
  have hin : ∀ x, x < a + n → inCrew x = false := by
    intro x hx
    have : ¬ crewBase ≤ x := by simp only [crewBase, courseSize] at *; omega
    simp [inCrew, this]
  refine ⟨hn, Or.inl ha, fun x hx hx' => ?_, fun wa hw => ?_⟩
  · have hc := hin x hx'
    refine ⟨?_, by simp [inTest, h1, hc], by simp [h2], fun c => by rw [hc] at c; cases c⟩
    have : x / 2 ^ 20 < 64 := by simp only [courseSize] at ha; omega
    simpa [memDom, hc] using h5 _ this
  · have hw' : wa < a + n := by
      simp only [wordsOf, Nat.pos_iff_ne_zero.mp hn, if_false, List.mem_map, List.mem_range] at hw
      obtain ⟨i, hi, rfl⟩ := hw
      omega
    have hc := hin wa hw'
    refine ⟨by simp [patternOf, ngetD, h3], by simp [queuedWord, h4], ?_⟩
    have := h6 ((bankOf s wa).1 / 64 % 16) (Nat.mod_lt _ (by decide))
    have e : Fin.ofNat 16 ((bankOf s wa).1 / 64 % 16) = Fin.ofNat 16 ((bankOf s wa).1 / 64) := by simp [Fin.ofNat]
    rw [e] at this
    simp only [flipMask, hc, arrOf, Bool.false_eq_true, if_false]
    generalize Fin.ofNat 16 ((bankOf s wa).1 / 64) = k at this
    simp [this]

theorem region_at {s : State} {h : Nat} {r : Region} (hc : checkHandle s kRegion h = 0 ∧ regionOf (entryOf s h) = r) :
    regionAt s h = .ok r := by simp [regionAt, hc]

def region : Nat := 0x10000001
def ring : Nat := 0x20000002
def class_ : Nat := 0x40000003
def channel : Nat := 0x30000004
def vector : Nat := 0x90000005
def dropRing : Nat := 0x20000006
def window : Nat := 0x50000007

/-- A vector descriptor: copy of 4 words of the region, from 1000h to 2000h. -/
def desc : List Nat :=
  [0, 4, 0x7007, class_, 0, 0, 0x55, 0, region, 0, 0, region, 0x1000, 0, 0, 0x2000] ++ List.replicate 8 0 ++ [0x01203800]
    ++ List.replicate 7 0

/-- Race, with a region over Course, a BLOCK ring 0 at 200000h, a class, a channel of engine 0, an MSI-X vector, a DROP_NEW
ring 1 at 300000h, and a window of slot 9. -/
def env : State :=
  let s : State := { State.reset with
    stk := { State.reset.stk with
      table := [(1, ⟨kRegion, 0, 1, 0, [0, 0, 0x200000, 0, 3, 0, 0]⟩), (2, ⟨kRing, 0, 1, 0, [0, 0x200000, 0, 12, 0, 0, 0]⟩),
        (3, ⟨kClass, 0, 1, 0, [0x7F, ring, 0, 0, 0, 0, 0]⟩), (4, ⟨kChannel, 0, 1, 0, [0, ring, dropRing, 0xFFFFFFFF, 0, 0, 0]⟩),
        (5, ⟨kVector, 0, 1, 0, [3, ring, 0, 0, 0, 0, 0]⟩), (6, ⟨kRing, 0, 1, 0, [1, 0x300000, 0, 0x4C, 0, 0, 0]⟩),
        (7, ⟨kWindow, 0, 1, 0, [9, 0, 0, 0, 0, 0, 0]⟩)]
      rings := [(0, ⟨2, 0, [], 0, none⟩), (1, ⟨6, 0, [], 0, none⟩)] } }
  let s := s.wr (F .pwrCtl 0 2 0) modeRace
  let s := (s.setReg (ringReg 0 0) 0x200000).setReg (ringReg 0 8) (12 + 2 ^ 5)
  (s.setReg (ringReg 1 0) 0x300000).setReg (ringReg 1 8) (0x4C + 2 ^ 5)

/-- A job of that descriptor. -/
def job : Job := { newJob 0 16 0 [desc] with ring := ring, shells := [0], id := 7 }

/-! ### Witnesses: registers and memory -/

theorem witness_registers : Calm State.reset ∧ .hstPcie ∉ State.reset.flt.underTest ∧ .hstPcie ∉ State.reset.flt.resets
    ∧ bits (0 : W64).toNat 19 12 = 0 := by unfold Calm; decide +kernel
theorem witness_registers_locked : let s := { State.reset.wr (F .cusLc 0 2 0) 2 with locked := true }
    Calm s ∧ s.locked = true ∧ s.lc ≠ lcDevelop ∧ bits (0 : W64).toNat 3 0 ≠ s.rd (F .hstPcie 0 3 0) := by unfold Calm; decide +kernel
theorem witness_registers_open : Calm State.reset ∧ State.reset.locked = false ∧ bits (0xFF064 : W64).toNat 19 12 ≠ 0 ∧ bits (0xFF064 : W64).toNat 7 4 ≤ 6
    ∧ 1 ≤ bits (0xFF064 : W64).toNat 3 0 ∧ bits (0xFF064 : W64).toNat 3 0 ≤ 4 ∧ checkHandle State.reset kVector ((0xFF064 : W64).toNat % 2 ^ 32) ≠ 0
    ∧ .crsCtl ∉ State.reset.flt.underTest ∧ .crsCtl ∉ State.reset.flt.resets := by unfold Calm; decide +kernel
theorem witness_reads : Open 4 0x3FFFFFF 1 State.reset := open_here (by decide +kernel)
theorem witness_reads_crew : Open 0 0x4000000 8 State.reset := open_here (by decide +kernel)
def linkUp : State := State.reset.wr (F .hstPcie 4 0 0) 1
theorem witness_host_reads : Calm linkUp ∧ pcieUp linkUp = true ∧ Open 11 0x1000 64 linkUp :=
  ⟨by unfold Calm; decide +kernel, by decide +kernel, open_here (by decide +kernel)⟩
theorem witness_atomics : Open 0 0x4000008 8 State.reset ∧ crewBase ≤ 0x4000008 ∧ 0x4000008 % 8 = 0 :=
  ⟨open_here (by decide +kernel), by decide, by decide⟩
theorem witness_atomics_refused : Open 0 0x3FFFFF8 8 State.reset ∧ 0x3FFFFF8 + 8 ≤ courseSize ∧ Open 0 0x4000002 4 State.reset
    ∧ 0x4000002 % 4 ≠ 0 := ⟨open_here (by decide +kernel), by decide, open_here (by decide +kernel), by decide⟩

def split : State := (State.reset.wr (F .crwCtl 0x254 31 31) 1).setReg (Blk.base .crwCtl + 0x240) 0x4000010
theorem witness_test_word : blkOpen split (ctlOf true) = true ∧ let a := split.reg ((ctlOf true).base + 0x240) / 8 * 8
    split.rd (F (ctlOf true) 0x254 31 31) = 1 ∧ rangeIn (memBase true) (memSize true) a 8 = true ∧ domState split (memDom a) = 0
    ∧ queuedWord split a = none := by decide +kernel
def moving : State := { State.reset.wr (ownFld 3 5 5) 1 with memx := { State.reset.memx with ownNext := [(3, 4)] } }
def movingHeld : State := { moving with held := [⟨⟨0, 0, 0x4000000, .read 8⟩, false, .data, .handover 2, 13, false⟩] }
theorem witness_owner_pending : blkOpen movingHeld .crwCtl = true ∧ movingHeld.rd (ownFld 3 5 5) = 1 ∧ nget 3 movingHeld.memx.ownNext = some 4
    ∧ (∀ h ∈ movingHeld.held, h.why ≠ .handover 3 ∧ h.why ≠ .order) := by decide +kernel
theorem witness_owner_same : blkOpen State.reset .crwCtl = true ∧ State.reset.rd (ownFld 3 5 5) = 0 ∧ bits (0 : W32).toNat 3 0 = State.reset.rd (ownFld 3 3 0) := by decide +kernel
theorem witness_handover : blkOpen State.reset .crwCtl = true ∧ State.reset.rd (ownFld 3 5 5) = 0 ∧ bits (8 : W32).toNat 3 0 ≤ 8 ∧ bits (8 : W32).toNat 3 0 ≠ State.reset.rd (ownFld 3 3 0) := by decide +kernel
def flipped : State := { State.reset with ecc := [(0x40, 1)], memx := { State.reset.memx with demand0 := [0x40] } }
theorem witness_scrub : flipped.rd (F (scrubOf false) 0 23 0) ≠ 0 ∧ domState flipped (memDom 0x40) = 0 ∧ inTest flipped 0x40 = false
    ∧ flipped.memx.demand0 = [0x40] ∧ inCrew 0x40 = false
    ∧ patternOf flipped 0x40 = BitVec.ofNat 72 (2 ^ 0) ∧ scrubSkips flipped 0x40 = false ∧ queuedWord flipped 0x40 = none ∧ flipMask flipped 0x40 = none
    ∧ scrubOf false ∉ flipped.flt.underTest ∧ scrubOf false ∉ flipped.flt.resets := by decide +kernel
def stuckRow : State := { State.reset with memx := { State.reset.memx with remaps := [0x40] } }
theorem witness_remap : stuckRow.memx.remaps.find? (fun x => inCrew x = false) = some 0x40 ∧ detRunning stuckRow = false
    ∧ stuckRow.memx.march = none 
    ∧ (∀ x ∈ rowWords stuckRow 0x40, patternOf stuckRow x = 0 ∧ flipMask stuckRow x = none) ∧ vaultThere stuckRow = true
    ∧ stuckRow.cus.pfail = false ∧ stuckRow.rd (F (arrOf false (bankOf stuckRow 0x40).1).1 (0x100 + 8 * (arrOf false (bankOf stuckRow 0x40).1).2) 29 27) < 3
    ∧ domState stuckRow (memDom 0x40) = 0 ∧ (arrOf false (bankOf stuckRow 0x40).1).1 ∉ stuckRow.flt.underTest := by
  decide +kernel
theorem witness_march_start : blkOpen State.reset .crwMarch = true ∧ bit (1 : W32).toNat 0 = true ∧ State.reset.rd (F .crwMarch 8 31 31) = 0 := by decide +kernel
def marching : State := { State.reset with memx := { State.reset.memx with march := some ⟨5, false⟩ } }
theorem witness_march_done : marching.memx.march = some ⟨5, false⟩ ∧ marching.rd (F .crwArr 8 31 31) = 0
    ∧ ∃ f ∈ [(⟨2, 0, 0, 0⟩ : MarchFail)], (5 : W64).getLsbD f.bank.toNat = true := by
  decide
def queuedDet : State := { State.reset with memx := { State.reset.memx with detQ := [(8, [(0x40, 99)])] } }
theorem witness_det_write : ngetD queuedDet.memx.detQ 8 [] = [(0x40, 99)] ∧ flipMask queuedDet 0x40 = none := by decide +kernel
def waiting1 : State := { State.reset with held := [⟨⟨0, 0, 0, .read 8⟩, false, .data, .ddr, 13, false⟩] }
theorem witness_aging : waiting1.held[0]? = some ⟨⟨0, 0, 0, .read 8⟩, false, .data, .ddr, 13, false⟩ := by decide

/-! ### Witnesses: handles and rings -/

theorem witness_stakeboat_begins : blkOpen State.reset .movStk = true ∧ State.reset.rd (stkF 0xC 31 31) = 0 ∧ domState State.reset 100 = 0 := by decide +kernel
def withCmd (c : StkCmd) (s : State) : State := { s with stk := { s.stk with regCmd := some c } }
def createWindow : StkCmd := ⟨1, false, 0, 0x50000000, [5, 0, 0, 0, 0, 0, 0]⟩
theorem witness_create : createCode (withCmd createWindow env) createWindow = 0 := by decide +kernel
theorem witness_destroy_last : let s := { env with stk := { env.stk with table := [(1, ⟨kVector, 8191, 1, 0, []⟩)] } }
    destroyCode s 0x9FFF8001 = 0 ∧ (entryOf s 0x9FFF8001).gen = 8191 ∧ (entryOf s 0x9FFF8001).kind ≠ kWindow := by decide +kernel
theorem witness_destroy : destroyCode env vector = 0 ∧ (entryOf env vector).kind ≠ kWindow := by decide +kernel
theorem witness_query : checkHandle env (hKind vector) vector = 0 := by decide +kernel
def retired : State := { env with stk := { env.stk with table := [(12, ⟨kRegion, 8191, 2, 0, []⟩)] } }
theorem witness_reclaim : (entryAt retired 12).st = 2 := by decide +kernel
theorem witness_doorbell : blkOpen env (ringBlk 0) = true ∧ blkOpen env (ringBlk 2) = true ∧ ringLive env 0 = true ∧ ((4096 : W32).toNat + 2 ^ 32 - env.reg (ringReg 0 0x14)) % 2 ^ 32 ≤ ringSize env 0
    ∧ ((0 : W32).toNat + 2 ^ 32 - env.reg (ringReg 0 0x14)) % 2 ^ 32 ≤ occupancy env 0
    ∧ ringSize env 0 < ((4097 : W32).toNat + 2 ^ 32 - env.reg (ringReg 0 0x14)) % 2 ^ 32
    ∧ occupancy env 0 < ((32 : W32).toNat + 2 ^ 32 - env.reg (ringReg 0 0x14)) % 2 ^ 32 ∧ ringLive env 2 = false := by decide +kernel
def offer (h n : Nat) : RecordOffer := ⟨.timer, BitVec.ofNat 32 h, ⟨0, 1, false, false, false, 0, 0, 0, List.replicate n 0⟩⟩
def full (r : Nat) : State :=
  { env with stk := { env.stk with rings := nput r ⟨2, 4096, [], 0, none⟩ env.stk.rings } }.setReg (ringReg r 0x10) 4096
theorem witness_offer : domState env 100 = 0 ∧ checkHandle env kRing ring = 0 ∧ ringNo env ring = 0 ∧ nget 0 env.stk.rings = some ⟨2, 0, [], 0, none⟩
    ∧ roundUp (32 + 1) 32 ≤ ringSize env 0 ∧ roundUp (32 + 1) 32 ≤ ringSpace env 0 ⟨2, 0, [], 0, none⟩ := by decide +kernel
theorem witness_offer_block : domState (full 0) 100 = 0 ∧ checkHandle (full 0) kRing ring = 0 ∧ ringSpace (full 0) 0 ⟨2, 4096, [], 0, none⟩ < 32
    ∧ (full 0).rd (ringFld 0 8 7 6) = 0 := by decide +kernel
theorem witness_offer_drop : domState (full 1) 100 = 0 ∧ checkHandle (full 1) kRing dropRing = 0 ∧ ringNo (full 1) dropRing = 1
    ∧ ringSpace (full 1) 1 ⟨2, 4096, [], 0, none⟩ < 32 ∧ (full 1).rd (ringFld 1 8 7 6) = 1 ∧ (offer dropRing 0).producer = .timer := by
  decide +kernel
theorem witness_offer_oversize : domState env 100 = 0 ∧ checkHandle env kRing ring = 0 ∧ ringSize env 0 < roundUp (32 + ringSize env 0) 32 := by decide +kernel
/-- Ring 2 of 4,096 bytes at 400000h under DROP_OLD, full with records of 32 bytes (one, or 128), the oldest at CONS 0. -/
def dropOld (one : Bool) : State :=
  let n := if one then 4096 else 32
  let s := { env with
    stk := { env.stk with table := nput 8 ⟨kRing, 0, 1, 0, [2, 0x400000, 0, 0x8C, 0, 0, 0]⟩ env.stk.table, rings := nput 2 ⟨8, 4096, [], 0, none⟩ env.stk.rings },
    mem := (0x400004, BitVec.ofNat 8 n) :: (0x400005, BitVec.ofNat 8 (n / 256)) :: (0x400024, 32) :: [] }
  ((s.setReg (ringReg 2 0) 0x400000).setReg (ringReg 2 8) (0x8C + 2 ^ 5)).setReg (ringReg 2 0x10) 4096
def dropOldRing : Nat := 0x20000008
theorem witness_offer_drop_old : ∀ one : Bool, let s := dropOld one
    let fp := if one then 4096 else 32
    domState s 100 = 0 ∧ checkHandle s kRing dropOldRing = 0 ∧ ringNo s dropOldRing = 2 ∧ nget 2 s.stk.rings = some ⟨8, 4096, [], 0, none⟩
    ∧ ringSpace s 2 ⟨8, 4096, [], 0, none⟩ < 32 ∧ s.rd (ringFld 2 8 7 6) = 2
    ∧ leNat (memBytes s (ringAddr s 2 (s.reg (ringReg 2 0x14) + 4)) 4) % 2 ^ 16 = fp ∧ fp ≤ occupancy s 2
    ∧ 32 ≤ ringSize s 2 - (4096 + 2 ^ 32 - fp) % 2 ^ 32 := by decide +kernel
theorem witness_offer_drop_old_open : Open (producerMaster .timer) (ringAddr (dropOld true) 2 (0 + 4)) 4 (dropOld true)
    ∧ (dropOld true).reg (ringReg 2 0x10) = 4096 ∧ Open (producerMaster .timer) (ringAddr (dropOld false) 2 (0 + 4)) 4 (dropOld false)
    ∧ Open (producerMaster .timer) (ringAddr (dropOld false) 2 (32 + 4)) 4 (dropOld false)
    ∧ (dropOld false).reg (ringReg 2 0x10) ≠ 32
    ∧ leNat (memBytes (dropOld false) (ringAddr (dropOld false) 2 (32 + 4)) 4) % 2 ^ 16 = 32
    ∧ 32 ≤ ((dropOld false).reg (ringReg 2 0x10) + 2 ^ 32 - 32) % 2 ^ 32 :=
  ⟨open_here (by decide +kernel), by decide +kernel, open_here (by decide +kernel), open_here (by decide +kernel), by decide +kernel,
    by decide +kernel, by decide +kernel⟩
theorem witness_table_error : checkHandle env (hKind vector) vector = 0 ∧ env.flt.underTest = [] := by decide +kernel
theorem witness_stale_ring : checkHandle State.reset kRing ring ≠ 0 := by decide +kernel
def allocated : RingRec := ⟨4064, List.replicate 32 1, .timer, false⟩
def withRec : State := { env with stk := { env.stk with rings := [(0, ⟨2, 4096, [allocated], 0, none⟩)] } }
theorem witness_record_written : nget 0 withRec.stk.rings = some ⟨2, 4096, [allocated], 0, none⟩ ∧ allocated.written = false
    ∧ 32 ≤ allocated.bytes.length ∧ allocated.start % ringSize withRec 0 + 32 ≤ ringSize withRec 0
    ∧ Open (producerMaster .timer) (ringAddr withRec 0 allocated.start) 32 withRec :=
  ⟨by decide +kernel, by decide, by decide, by decide +kernel, open_here (by decide +kernel)⟩
def waitingRec : State := { env with stk := { env.stk with waits := [⟨offer ring 0, 0, .other⟩] } }
theorem witness_space_wait : domState waitingRec 100 = 0 ∧ ringNo waitingRec ring = 0
    ∧ roundUp (32 + 0) 32 ≤ ringSpace waitingRec 0 ⟨2, 0, [], 0, none⟩ ∧ checkHandle waitingRec kRing ring = 0
    ∧ Open (producerMaster .timer) (ringAddr waitingRec 0 0) 32 waitingRec :=
  ⟨by decide +kernel, by decide +kernel, by decide +kernel, by decide +kernel, open_here (by decide +kernel)⟩
theorem witness_host_message : blkOpen env .hstPcie = true ∧ (entryOf env vector).word 2 ≠ 0 ∧ (entryOf env vector).word 2 < 2 ^ 32 ∧ domState env 100 = 0 ∧ checkHandle env kRing ring = 0 ∧ checkHandle env kVector vector = 0
    ∧ (entryOf env vector).word 2 = ring ∧ ringNo env ring = 0
    ∧ 32 ≤ ringSpace env 0 ⟨2, 0, [], 0, none⟩ ∧ Open 11 (ringAddr env 0 0) 32 env :=
  ⟨by decide +kernel, by decide +kernel, by decide +kernel, by decide +kernel, by decide +kernel, by decide +kernel, by decide +kernel, by decide +kernel, by decide +kernel,
    open_here (by decide +kernel)⟩

/-! ### Witnesses: vector jobs -/

def bytesOf (d : List Nat) : List Byte := d.flatMap (leBytes 4)
def withDesc (a : Nat) (d : List Nat) (s : State) : State := putBytes a (bytesOf d) s
theorem witness_direct : let s := withDesc 0x3000 desc env
    regionAt s region = .ok ⟨0, 0x200000, true, true⟩ ∧ 0x3000 + 128 ≤ 0x200000 ∧ s.vec.pool.length < 64 ∧ rowForm (descAt s 0x3000) = 0
    ∧ admissionStatus s [descAt s 0x3000] = 0 ∧ Open 4 0x3000 128 s :=
  ⟨region_at (by decide +kernel), by decide, by decide +kernel, by decide +kernel, by decide +kernel, open_here (by decide +kernel)⟩
/-- A register-form descriptor: RY of stream register 1 from RA of register 0. -/
def regDesc : List Nat := (((desc.set 0 1).set 8 0).set 11 0 |>.set 12 0 |>.set 15 0).set 23 (1 * 2 ^ 15)
theorem witness_direct_register : let s := withDesc 0x3000 regDesc env
    rowForm (descAt s 0x3000) = 1 ∧ admissionStatus s [descAt s 0x3000] = 0 := by decide +kernel
/-- A resume descriptor, and a save area at 10000h with a job that has run one stroke of two. -/
def resumeDesc : List Nat := (List.replicate 32 0 |>.set 0 2 |>.set 3 class_).set 5 region
def savedHead : List Byte := leBytes 4 (0x5341 + 2 ^ 16 + 2 ^ 20) ++ leBytes 4 0 ++ leBytes 4 512 ++ leBytes 4 1 ++ List.replicate 48 0
def savedState : State := putBytes 0 (savedHead ++ bytesOf ((desc.set 1 1024).set 5 region)) (withDesc 0x3000 resumeDesc env)
theorem witness_resume : rowForm (descAt savedState 0x3000) = 2 ∧ resumeFieldsBad (descAt savedState 0x3000) = false
    ∧ checkHandle savedState kClass (jClass (descAt savedState 0x3000)) = 0 := by decide +kernel
theorem readSave_open {o : Nat} {d : List Nat} {s : State} {r : Region} (hr : regionAt s (jSave d) = .ok r) (ho : Open (mShell 0) r.base 2752 s)
    (hl : ¬ (r.len < 2752 ∨ !r.rd ∨ !r.wr)) (lead : List Nat) (hd : leWords 4 32 (((memBytes s r.base 2752).drop 0x40).take 128) = lead)
    (w : Nat) (hw : leNat (((memBytes s r.base 2752).drop 0).take 4) = w)
    (h1 : ¬ ((0 : Nat) ≠ 0 ∨ bits w 15 0 ≠ 0x5341 ∨ bits w 19 16 ≠ 1 ∨ !bit w 20)) (h2 : jClass lead = jClass d) (h3 : jForm lead = 0) :
    ∃ j, readSave o d s = (s, .ok j) ∧ j.resumed = true ∧ j.started = false := by
  simp only [readSave, hr, if_neg hl, memRead_open ho, hd, hw]
  rw [if_neg h1]
  simp only [h2, ne_eq, not_true_eq_false, if_false, h3]
  exact ⟨_, rfl, rfl, rfl⟩
theorem witness_resume_job : ∃ j, readSave 16 (descAt savedState 0x3000) savedState = (savedState, .ok j) ∧ j.resumed = true
    ∧ j.started = false := by
  refine readSave_open (r := ⟨0, 0x200000, true, true⟩) (region_at (by decide +kernel))
    (open_course (by decide +kernel) (by decide) (by decide)) (by decide) ((desc.set 1 1024).set 5 region) ?_ (0x5341 + 2 ^ 16 + 2 ^ 20) ?_
    (by decide) (by decide +kernel) (by decide)
  · rw [memBytes_slice _ _ _ _ _ (by decide)]; decide +kernel
  · rw [memBytes_slice _ _ _ _ _ (by decide)]; decide +kernel

/-- The lead and the continuation of a raft group of two. -/
def raftLead : List Nat := (desc.set 0 0x100).set 11 0 |>.set 15 0
def raftCont : List Nat := [3, 0, 0x7007, 0, 0, 0, 0, 0, 0, 0, 0, region, 0, 0, 0, 0x2000] ++ List.replicate 8 0 ++ [0x01203800] ++ List.replicate 7 0
def queued (d e : List Nat) : State :=
  let s := withDesc 0x200080 e (withDesc 0x200000 d env)
  ((s.setReg (ringReg 0 0x10) 256).wr (qBind 2) ring).setReg (at_ .vecSched 0x48) 1
theorem witness_raft : let s := queued raftLead raftCont
    s.rd (qBind 2) = ring ∧ bit (s.reg (at_ .vecSched 0x48)) 0 = true ∧ bit (s.reg (at_ .vecSched 0x48)) 1 = false
    ∧ 2 ∉ s.vec.qhold ∧ raftSize (descAt s (ringAddr s 0 0)) = 2 ∧ 128 * 2 ≤ occupancy s 0 ∧ rowForm (descAt s (ringAddr s 0 0)) = 3
    ∧ jForm (descAt s (ringAddr s 0 128)) = 3 ∧ admissionStatus s [descAt s (ringAddr s 0 0), descAt s (ringAddr s 0 128)] = 0 := by
  decide +kernel
theorem witness_raft_open : let s := queued raftLead raftCont
    Open 4 (ringAddr s 0 0) 128 s ∧ Open 4 (ringAddr s 0 128) 128 s := ⟨open_here (by decide +kernel), open_here (by decide +kernel)⟩
theorem witness_bind : blkOpen env .vecSched = true ∧ (nget (ringNo env ring) env.stk.rings).isSome = true
    ∧ (nget (ringNo env dropRing) env.stk.rings).isSome = true ∧ ringBindable env ring = true ∧ env.rd (qBind 0) = 0 ∧ ringPolicy env ring = 0 ∧ env.rd (qErr 0) = 0
    ∧ ringBindable env dropRing = true ∧ ringPolicy env dropRing = 1 := by decide +kernel

def pooled (l : List Job) : State := { env with vec := { env.vec with pool := l, nextId := 20 } }
def job2 : Job := { newJob 0 17 0 [desc.set 0 0x10] with ring := ring, id := 8 }
def free1 : Job := { job with shells := [] }
theorem witness_start : let s := pooled [free1, job2]
    jobReady s job2 = true ∧ job2.late = false ∧ placeFor s job2 = some [0] ∧ jobReady s free1 = true
    ∧ jPrio (leadOf free1.descs) < jPrio (leadOf job2.descs) ∧ job2.past = false ∧ free1.past = false := by decide +kernel
theorem can_start {j : Job} {c : List Nat} {s : State} (h : c ≠ [] ∧ (∀ n ∈ c, n < 4) ∧ (∀ d ∈ shellDomains j.descs c, domState s d = 0)
    ∧ (jobNeeds s { j with shells := c }).any (domFails s) = false ∧ jobStale s j = false ∧ 0 < allowedRating s c ∧ entering s = false) :
    CanStart j c s := h
theorem witness_can_start : CanStart job2 [0] (pooled [free1, job2]) := can_start (by decide +kernel)
def armed : Job := { job with slot := some 9, descs := [desc.set 4 window] }
def reservedFor (j : Job) (l : List Nat) : State :=
  let s := { env with vec := { env.vec with pool := [j], due := [⟨9, 5, some j.id, 0⟩], shells := Vector.ofFn fun i =>
    { env.vec.shells[i] with reserved := if l.contains i.val then [9] else [] } } }
  forAll l (fun n s => s.wr (shState n) stReserved) s
theorem witness_catch_start : CanStart armed armed.shells (reservedFor armed [0]) ∧ catchNow (reservedFor armed [0]) 5 = true ∧
    armed.late = false ∧ fenceOpen (reservedFor armed [0]) armed = true
    ∧ ∀ n ∈ armed.shells, (reservedFor armed [0]).rd (shState n) = stReserved ∧ 9 ∈ (run (reservedFor armed [0]) n).reserved :=
  ⟨can_start (by decide +kernel), by decide +kernel, by decide +kernel⟩
theorem witness_catch_late : CanStart armed armed.shells (reservedFor armed []) ∧ catchNow (reservedFor armed []) 5 = true
    ∧ fenceOpen (reservedFor armed []) armed = true ∧ ∃ n ∈ armed.shells, (reservedFor armed []).rd (shState n) ≠ stReserved :=
  ⟨can_start (by decide +kernel), by decide +kernel⟩
def onShell (r : ShellRun) (st : Nat) : State := ({ env with vec := { env.vec with shells := env.vec.shells.set 0 r } } : State).wr (shState 0) st
def idleRun : ShellRun := ⟨none, none, none, none, false, none, false, none, [], [], 0, [], [], [], []⟩
def back : Job := { job with preempted := true, started := true }
def suspended : State := (onShell { idleRun with stack := [back] } 0).wr (shDepth 0) 1
theorem witness_resumption : CanStart back [0] suspended ∧ suspended.vec.pool = []
    ∧ shellFree suspended back 0 = true ∧ suspended.rd (shState 0) ≠ stReserved :=
  ⟨can_start (by decide +kernel), by decide +kernel, by decide +kernel, by decide +kernel⟩

def runJob : Job := { job with started := true, descs := [(desc.set 1 600).set 5 region] }
def running (r : ShellRun) : State := (onShell r stRunning).wr (shRating 0) 7
theorem witness_stroke : let s := running { idleRun with job := some runJob }
    s.rd (shState 0) = stRunning ∧ s.rd (shRating 0) ≠ 0 ∧ isRegForm runJob.descs = false ∧ runJob.next < jLen (leadOf runJob.descs) := by decide +kernel
def smallJob : Job := { job with started := true }
def aWait : List BankWait := [⟨0, 0x40, true, 9⟩]
theorem witness_stroke_commits : let s := strokeWaits 0 smallJob aWait (running { idleRun with job := some smallJob })
    (runStroke smallJob 0 4 s).1 = s ∧ (match (runStroke smallJob 0 4 s).2 with | .ok _ => true | _ => false) = true
    ∧ jobStale (running { idleRun with job := some smallJob }) smallJob = false := by decide +kernel
/-- The copy with an operation that traps on a signalling NaN. -/
def trapJob : Job := { smallJob with descs := [(desc.set 2 0x0FC07007).set 24 0x32203800] }
theorem witness_stroke_traps : let s := putBytes 0x1000 (leBytes 8 0x7FF4000001234567) (running { idleRun with job := some trapJob })
    (runStroke trapJob 0 4 s).1 = s
    ∧ (match (runStroke trapJob 0 4 s).2 with | .error h => h.status == vsTrap | _ => false) = true := by decide +kernel
def drained1 : State := running { idleRun with job := some runJob, drain := some [.data 0x2000 [1, 2, 3, 4]] }
theorem witness_drain : drained1.rd (shState 0) = stRunning ∧ (0 ∈ runJob.shells ∧ (∀ k ∈ runJob.shells, k < 4)) ∧ jDet (leadOf runJob.descs) = false ∧ mShell (recordShell runJob) = 4
    ∧ Open 4 0x2000 4 drained1 := ⟨by decide +kernel, by decide, by decide, by decide, open_here (by decide +kernel)⟩
def drainFailed : State := running { idleRun with job := some runJob, drain := some [.data 0x2000 [1, 2, 3, 4]], drainErr := some 0x2000 }
theorem witness_drain_held : (run drainFailed 0).drainErr = some 0x2000 ∧ drainFailed.rd (shState 0) = stRunning := by decide +kernel
def held : State := (onShell { idleRun with job := some runJob, drain := some [.data 0x2000 [1, 2, 3, 4]] } stHeld)
theorem witness_retry : blkOpen held (shBlk 0) = true ∧ held.rd (shState 0) = stHeld ∧ Open 4 0x2000 4 held := ⟨by decide +kernel, by decide +kernel, open_here (by decide +kernel)⟩
theorem ready_at (h : Nat) (s : State) (m : Nat) (g : Ring) (p : checkHandle s kRing h = 0 ∧ h < 2 ^ 32 ∧ domState s 100 = 0
    ∧ nget (ringNo s h) s.stk.rings = some g ∧ g.recs = [] ∧ 64 ≤ ringSpace s (ringNo s h) g
    ∧ g.allocEnd % ringSize s (ringNo s h) + 64 ≤ ringSize s (ringNo s h)
    ∧ openHere m (ringAddr s (ringNo s h) g.allocEnd) 64 s = true) : RingReady m h 64 s :=
  ⟨p.1, p.2.1, p.2.2.1, g, p.2.2.2.1, p.2.2.2.2.1, p.2.2.2.2.2.1, p.2.2.2.2.2.2.1, open_here p.2.2.2.2.2.2.2⟩
def halted : State := running { idleRun with job := some runJob, halt := some ⟨vsEcc, 3, 0, 0⟩ }
theorem witness_halt : RingReady 4 runJob.ring 64 halted ∧ SaveOpen runJob halted ∧ halted.pow.hwEntry = false ∧ halted.pow.req ≠ some 3 ∧ runJob.shells.Nodup :=
  ⟨ready_at _ _ _ ⟨2, 0, [], 0, none⟩ (by decide +kernel), by
    intro x hx
    have : saveArea runJob halted = [(0, 2752)] := by decide +kernel
    rw [this] at hx
    cases List.mem_singleton.mp hx
    exact open_course (by decide +kernel) (by decide) (by decide), by decide, by decide, by decide⟩
def cancelled : State := running { idleRun with job := some runJob, stop := some .cancel }
theorem witness_cancel_stop : RingReady 4 runJob.ring 64 cancelled ∧ (run cancelled 0).stop = some .cancel ∧ (run cancelled 0).halt = none :=
  ⟨ready_at _ _ _ ⟨2, 0, [], 0, none⟩ (by decide +kernel), by decide +kernel, by decide +kernel⟩
def overJob : Job := { runJob with next := 600 }
def over_ : State := running { idleRun with job := some overJob }
theorem witness_complete : RingReady 4 overJob.ring 64 over_ ∧ jLen (leadOf overJob.descs) ≤ overJob.next ∧ jQuiet (leadOf overJob.descs) = false :=
  ⟨ready_at _ _ _ ⟨2, 0, [], 0, none⟩ (by decide +kernel), by decide, by decide⟩
theorem witness_discard : RingReady 4 runJob.ring 64 held ∧ blkOpen held (shBlk 0) = true ∧ held.rd (shState 0) = stHeld :=
  ⟨ready_at _ _ _ ⟨2, 0, [], 0, none⟩ (by decide +kernel), by decide +kernel, by decide +kernel⟩
def preempted : State := running { idleRun with job := some runJob, stop := some .preempt }
def yielding : State := running { idleRun with job := some runJob, stop := some .yield }
theorem witness_suspension : (run preempted 0).stop = some .preempt ∧ (run yielding 0).stop = some .yield
    ∧ (run preempted 0).stack.length < 7 ∧ (run preempted 0).drain = none := by decide +kernel
theorem witness_cancel_class : blkOpen (running { idleRun with job := some runJob }) .vecSched = true ∧ (∀ j ∈ (running { idleRun with job := some runJob }).vec.pool, jClass (leadOf j.descs) ≠ class_)
    ∧ jClass (leadOf runJob.descs) = class_ ∧ jClass (leadOf job2.descs) = class_ := by decide +kernel
theorem witness_cancel_pooled : RingReady 4 job2.ring 64 (pooled [job2]) ∧ blkOpen (pooled [job2]) .vecSched = true ∧ job2.started = false ∧ ∀ n, n < 4 → (run (pooled [job2]) n).stack = [] :=
  ⟨ready_at _ _ _ ⟨2, 0, [], 0, none⟩ (by decide +kernel), by decide +kernel, by decide, by decide +kernel⟩
theorem witness_cancel_suspended : RingReady 4 back.ring 64 suspended ∧ blkOpen suspended .vecSched = true ∧ back.started = true ∧ recordShell back < 4 ∧ (run suspended 0).stack.length = 1 :=
  ⟨ready_at _ _ _ ⟨2, 0, [], 0, none⟩ (by decide +kernel), by decide +kernel, by decide, by decide, by decide +kernel⟩


/-! ### Witnesses: the Mover -/

def anEngine : Engine := ⟨[], [], some channel, [], 0, 0, none, [(region, ⟨0, 0x200000, true, true⟩)], none, false, [], false⟩
def withEngine (g : Engine) (s : State) : State := { s with stk := { s.stk with engines := s.stk.engines.set 0 g } }
/-- A Mover descriptor of an operation: 100h bytes or elements from 1001h to 2003h of the region, indexes at 800h, elements of 4 bytes. -/
def mover (op : Nat) : List Nat :=
  [op, 0x100, region, region, 0x1001, 0, 0x2003, 0, region, 0x800, 2, 0x44332211, 0x88776655, 0xA, 0, 0]
def moves (op k : Nat) : State := withEngine { anEngine with desc := mover op, pos := k } env
theorem witness_mover_copy : Moving 0 opCopy (mover opCopy) 0 (moves opCopy 0) ∧ Open mMover 0x1001 7 (moves opCopy 0)
    ∧ Open mMover 0x2003 7 (moves opCopy 0) ∧ Moving 0 opCopy (mover opCopy) 255 (moves opCopy 255) :=
  ⟨by unfold Moving; decide +kernel, open_here (by decide +kernel), open_here (by decide +kernel), by unfold Moving; decide +kernel⟩
theorem witness_mover_fill : Moving 0 opFill (mover opFill) 5 (moves opFill 5) ∧ Open mMover 0x2008 8 (moves opFill 5) :=
  ⟨by unfold Moving; decide +kernel, open_here (by decide +kernel)⟩
theorem witness_mover_tags : Moving 0 opTagfill (mover opTagfill) 255 (moves opTagfill 255) ∧ Open mMover 0x1081 1 (moves opTagfill 255) :=
  ⟨by unfold Moving; decide +kernel, open_here (by decide +kernel)⟩
theorem witness_mover_crc : Moving 0 opCrc32c (mover opCrc32c) 255 (moves opCrc32c 255) ∧ Open mMover 0x1100 1 (moves opCrc32c 255) :=
  ⟨by unfold Moving; decide +kernel, open_here (by decide +kernel)⟩
def index (op x : Nat) : State := putBytes (0x800 + 4 * 255) (leBytes 4 x) (moves op 255)
theorem witness_mover_gather : let s := index opGather 0x7F
    Moving 0 opGather (mover opGather) 255 s ∧ Open mMover 0xBFC 4 s ∧ leNat (memBytes s 0xBFC 4) = 0x7F ∧ Open mMover 0x11FD 4 s
    ∧ Open mMover 0x23FF 4 s := ⟨by unfold Moving; decide +kernel, open_here (by decide +kernel), by decide +kernel,
      open_here (by decide +kernel), open_here (by decide +kernel)⟩
theorem witness_mover_gather_outside : let s := index opGather 0x7FBFF
    Moving 0 opGather (mover opGather) 255 s ∧ Open mMover 0xBFC 4 s ∧ leNat (memBytes s 0xBFC 4) = 0x7FBFF
    ∧ (regionFor s 0 region).len < 0x1001 + 0x7FBFF * 4 + 4 := ⟨by unfold Moving; decide +kernel, open_here (by decide +kernel),
      by decide +kernel, by decide +kernel⟩
theorem witness_mover_scatter : let s := index opScatter 0x7F
    Moving 0 opScatter (mover opScatter) 255 s ∧ Open mMover 0xBFC 4 s ∧ Open mMover 0x13FD 4 s ∧ Open mMover 0x21FF 4 s :=
  ⟨by unfold Moving; decide +kernel, open_here (by decide +kernel), open_here (by decide +kernel), open_here (by decide +kernel)⟩
theorem witness_mover_scatter_outside : let s := index opScatter 0x7F7FF
    Moving 0 opScatter (mover opScatter) 255 s ∧ (regionFor s 0 region).len < 0x2003 + 0x7F7FF * 4 + 4 :=
  ⟨by unfold Moving; decide +kernel, by decide +kernel⟩
def ending (g : Engine) : State := withEngine { g with desc := mover opCopy } env
theorem witness_mover_ends : let s := (ending { anEngine with ended := some ⟨mvOk, 0, 0, 0⟩ }).setReg (ringReg 0 0x10) 64
    descThere s channel = true ∧ checkHandle s kChannel channel = 0 ∧ (entryOf s channel).words.length = 7 ∧ RingReady mMover dropRing 64 s
    ∧ (entryOf s channel).word 3 = dropRing ∧ ringLive s (ringNo s ring) = true ∧ dQuiet (mover opCopy) = false :=
  ⟨by decide +kernel, by decide +kernel, by decide +kernel, ready_at _ _ _ ⟨6, 0, [], 0, none⟩ (by decide +kernel),
    by decide +kernel, by decide +kernel, by decide⟩
theorem witness_mover_halts : RingReady mMover dropRing 64 (ending { anEngine with failing := some ⟨mvRegion, 0, 1, 0x2003⟩ })
    ∧ RingReady mMover dropRing 64 (ending { anEngine with failing := some ⟨mvWrite, 0, 1, 0x2003⟩ }) ∧ mvRegion ≠ mvWrite :=
  ⟨ready_at _ _ _ ⟨6, 0, [], 0, none⟩ (by decide +kernel), ready_at _ _ _ ⟨6, 0, [], 0, none⟩ (by decide +kernel), by decide⟩

/-- The channel with CHARG at it, its word 1 given, and its engine. -/
def channelAt (w : Nat) (g : Engine) : State :=
  let s := withEngine g env
  { s with stk := { s.stk with table := nput 4 ⟨kChannel, 0, 1, 0, [w, ring, dropRing, 0xFFFFFFFF, 0, 0, 0]⟩ s.stk.table } }.setReg
    (Blk.base .movMvr) channel
def idleEng : Engine := { anEngine with cur := none }
theorem witness_channel_enable : let s := channelAt 0 idleEng
    blkOpen s .movMvr = true ∧ charg s = channel ∧ checkHandle s kChannel channel = 0 ∧ engineOf s channel = 0 ∧ bit ((entryOf s channel).word 1) 8 = false
    ∧ ∀ x ∈ channelBinds s channel, bindsFull s x 3 = false := by decide +kernel
theorem witness_channel_disable : let s := channelAt 0x100 { idleEng with chans := [channel] }
    bit ((entryOf s channel).word 1) 8 = true ∧ (s.stk.engines[engineOf s channel]).cur ≠ some channel := by decide +kernel
theorem witness_channel_running : let s := channelAt 0x100 { anEngine with chans := [channel], desc := mover opCopy }
    bit ((entryOf s channel).word 1) 8 = true ∧ (s.stk.engines[engineOf s channel]).cur = some channel
    ∧ (s.stk.engines[engineOf s channel]).ended = none ∧ Machine.halted s channel = false := by decide +kernel
def copyDesc : List Nat := [opCopy, 0x100, region, region, 0x1001, 0, 0x2003] ++ List.replicate 9 0
def haltedAt : State :=
  (putBytes 0x200000 (bytesOf copyDesc) (channelAt 0x300 { idleEng with chans := [channel] })).setReg (ringReg 0 0x10) 64
theorem fetch_open {h : Nat} {d : List Nat} {s : State} (hc : descThere s h = true)
    (ho : Open mMover (ringAddr s (descRing s h) (s.reg (ringReg (descRing s h) 0x14))) 64 s)
    (hd : leWords 4 16 (memBytes s (ringAddr s (descRing s h) (s.reg (ringReg (descRing s h) 0x14))) 64) = d) :
    fetchDesc h s = some (s, d) := by
  simp only [fetchDesc, if_pos hc, memRead_open ho]
  simp [hd]
theorem witness_channel_resume : fetchDesc channel haltedAt = some (haltedAt, copyDesc) ∧ Machine.halted haltedAt channel = true
    ∧ descCheck haltedAt copyDesc = 0 :=
  ⟨fetch_open (by decide +kernel) (open_here (by decide +kernel)) (by decide +kernel), by decide +kernel, by decide +kernel⟩
theorem witness_channel_skip : RingReady mMover ((entryOf haltedAt channel).word 3) 64 haltedAt :=
  ready_at _ _ _ ⟨6, 0, [], 0, none⟩ (by decide +kernel)
theorem witness_no_channel : blkOpen State.reset .movMvr = true ∧ checkHandle State.reset kChannel (charg State.reset) ≠ 0 := by decide +kernel

/-! ### Witnesses: external interfaces -/


def trainable : State := openPad 111 { env with host := { env.host with perst := true, profile := true } }
theorem witness_msix : blkOpen State.reset .hstPcie = true := by decide +kernel
theorem witness_pcie : pcieMayTrain trainable = true ∧ linkOk 4 8 = true ∧ linkOk 0 8 = false ∧ pcieUp linkUp = true := by decide +kernel
def hostWait : State := { linkUp with held := [⟨⟨3, 7, 2 ^ 43, .read 8⟩, false, .data, .host, 0, false⟩] }
theorem witness_completion_timeout : hostWait.held.find? (fun h => h.why = .host ∧ h.req.master = 3 ∧ h.req.tag = 7)
    = some ⟨⟨3, 7, 2 ^ 43, .read 8⟩, false, .data, .host, 0, false⟩ ∧ (∀ x ∈ hostWait.held, x.why ≠ .hostFull ∧ x.why ≠ .order) := by decide +kernel
def xspiBusy : State :=
  { env with host := { env.host with xspi := some ⟨0x0B, 0, 0x100, [], true⟩ }, held := [⟨⟨3, 7, 0, .read 8⟩, false, .data, .flash 1, 0, false⟩] }
theorem witness_xspi : blkOpen env .hstXspi = true ∧ blkOpen xspiBusy .hstXspi = true ∧ xspiBusy.pow.req ≠ some 3
    ∧ custodyReady xspiBusy = false ∧ env.host.xspi = none ∧ domState env 117 = 0 ∧ xspiBusy.host.xspi = some ⟨0x0B, 0, 0x100, [], true⟩
    ∧ (custodyReady (openPad 117 env) || padHeld (openPad 117 env) 117) = false
    ∧ (∀ x ∈ xspiBusy.held, x.why ≠ .flash 0 ∧ x.why ≠ .order)
    ∧ (List.replicate 256 (1 : Byte)).length % 4 = 0 ∧ (List.replicate 256 (1 : Byte)).length ≤ 256 := by decide +kernel
def ddrUp : State := openPad 113 (env.wr (F .hstDdr 4 0 0) 1)
def ddrCal : State := { ddrUp with host := { ddrUp.host with recal := true } }
def ddrTrains : State := { env with host := { env.host with retrain := true } }
theorem witness_ddr : ddrReady ddrUp = true ∧ ddrReady ddrCal = true ∧ ddrCal.host.recal = true ∧ padHeld ddrCal 113 = false
    ∧ (∀ h ∈ ddrCal.held, h.why ≠ .ddr ∧ h.why ≠ .order)
    ∧ ddrTrains.host.retrain = true ∧ ddrTrains.mode ≠ modeBoathouse ∧ ddrTrains.mode ≠ modeLaunch := by decide +kernel

/-! ### Witnesses: the time unit -/

/-- One millisecond after second 7. -/
def instant : Nat := 7001000000 * 65536
def clock : State := (List.range 8).foldl (fun s i => openPad (103 + i) s) (openPad 114 { env with tb := instant * 2 ^ 32 })
theorem witness_timebase : clock.mode ≠ modeBoathouse ∧ timeOn clock = true ∧ clock.tim.phase < 3 ∧ clock.tim.slew = 0 ∧ clock.pow.req ≠ some 3 := by decide +kernel
theorem witness_rate : Calm clock ∧ blkOpen clock .timTb = true := by unfold Calm; decide +kernel
def setTo : State := (clock.wr (tbF 0x010 31 0) 0xFFFF).wr (tbF 0x020 63 0) (2 ^ 64 - 65536)
theorem witness_set_step : passedEdges setTo setTo.tb (unstamp96 (setTo.rd (tbF 0x010 31 0) + setTo.rd (tbF 0x014 31 0) * 2 ^ 32
      + setTo.rd (tbF 0x018 31 0) * 2 ^ 64) * 2 ^ 32 % tbTop) = []
    ∧ passedEdges setTo setTo.tb ((setTo.tb : Int) + sgn 64 (setTo.rd (tbF 0x020 63 0)) * 2 ^ 32).toNat = [] := by decide +kernel
def ppsAt (ns limit : Nat) : State := (({ clock with tb := ns * 2 ^ 48 } : State).wr (tbF 0x040 1 0) 2).wr (tbF 0x048 19 0) limit
def ppsError (s : State) : Int := let f := tapStamp s ppsTab 63 % (1000000000 * 65536); if 2 * f ≤ 1000000000 * 65536 then f else (f : Int) - 1000000000 * 65536
theorem witness_pps : let s := ppsAt 6999999999 1
    tbMode s = 2 ∧ timeOn s = true ∧ padHeld s 114 = false ∧ (ppsError s).natAbs < s.rd (tbF 0x048 19 0) * 1000 * 65536 := by decide +kernel
theorem witness_pps_step : let s := ppsAt 7000001000 1
    tbMode s = 2 ∧ padHeld s 114 = false ∧ s.rd (tbF 0x048 19 0) * 1000 * 65536 ≤ (ppsError s).natAbs
    ∧ passedEdges s s.tb ((s.tb : Int) + -ppsError s * 2 ^ 32).toNat = [] := by decide +kernel
theorem witness_pps_locks : let s0 := ppsAt 6999999999 1
    let s := { s0 with tim := { s0.tim with ppsRun := 3 } }
    let e := ppsError s
    let share : Nat := 1000000000 * 2 ^ s.rd (tbF 0x040 17 14)
    let rate : Int := sgn 40 (s.rd (tbF 0x028 39 0)) - (2 * (e * 2 ^ 32) + share) / (2 * share : Nat)
    tbMode s = 2 ∧ e.natAbs < 100 * 65536 ∧ 3 ≤ s.tim.ppsRun ∧ -(2 ^ 39 : Int) ≤ rate ∧ rate < 2 ^ 39 := by decide +kernel
theorem witness_pps_far : 100 * 65536 ≤ (ppsError (ppsAt 6999999500 1)).natAbs ∧ (ppsError (ppsAt 6999999500 1)).natAbs < 1000 * 65536 := by
  decide +kernel
theorem witness_pps_lost : let s := { ppsAt 0 1 with elapsed := 2250000000 }
    tbMode s = 2 ∧ timeOn s = true ∧ 2250000000 ≤ s.elapsed - s.tim.ppsAt.getD 0 := by decide +kernel
theorem witness_event_edge : timeOn clock = true ∧ padHeld clock 114 = false ∧ (clock.tim.pf[pfIx 31]).level = false
    ∧ (clock.tim.pf[pfIx 31]).acc = false := by decide +kernel
def filtered : State :=
  (modPf 31 (fun x => { x with cand := some (true, instant, 1000) }) { clock with elapsed := 1031 }).setReg (at_ .timPf 0x2F0) (2 ^ 31 + 31 * 4 + 1)
    |>.setReg (at_ .timPf 0x2F4) dropRing
theorem witness_event_accept : let x := filtered.tim.pf[pfIx 31]
    x.cand = some (true, instant, 1000) ∧ 1000 + filtered.rd (pfF 31 0 6 2) ≤ filtered.elapsed ∧ filtered.rd (pfF 31 0 31 31) = 1
    ∧ bit (filtered.rd (pfF 31 0 1 0)) 0 = true ∧ x.lastAt = none ∧ filtered.rd (pfF 31 0 30 30) = 0 := by decide +kernel
theorem witness_event_returns : let s := modPf 31 (fun x => { x with level := true, cand := some (true, instant, 1000) }) clock
    timeOn s = true ∧ padHeld s 114 = false ∧ false ≠ (s.tim.pf[pfIx 31]).level ∧ false = (s.tim.pf[pfIx 31]).acc := by decide +kernel
theorem witness_event_waits : let s := { filtered with elapsed := 1030 }
    (s.tim.pf[pfIx 31]).cand = some (true, instant, 1000) ∧ s.elapsed < 1000 + s.rd (pfF 31 0 6 2) := by decide +kernel
theorem witness_event_glitch : let s := modPf 31 (fun x => { x with lastAt := some 985 }) filtered
    timeOn s = true ∧ (s.tim.pf[pfIx 31]).cand = some (true, instant, 1000) ∧ 1000 + s.rd (pfF 31 0 6 2) ≤ s.elapsed ∧ s.rd (pfF 31 0 31 31) = 1
    ∧ bit (s.rd (pfF 31 0 1 0)) 0 = true ∧ (s.tim.pf[pfIx 31]).lastAt = some 985 ∧ 1000 < 985 + 16 := by decide +kernel
theorem witness_event_next : (some 984).all (fun l => decide (l + 16 ≤ 1000)) = true := by decide
theorem ready_drop (s : State) (m n : Nat) (h : checkHandle s kRing dropRing = 0 ∧ 0 < n ∧ nget (ringNo s dropRing) s.stk.rings = some ⟨6, 0, [], 0, none⟩
    ∧ n ≤ ringSpace s (ringNo s dropRing) ⟨6, 0, [], 0, none⟩ ∧ 0 % ringSize s (ringNo s dropRing) + n ≤ ringSize s (ringNo s dropRing)
    ∧ courseOpen s = true ∧ ringAddr s (ringNo s dropRing) 0 + n ≤ courseSize ∧ domState s 100 = 0) : RingReady m dropRing n s :=
  ⟨h.1, by decide, h.2.2.2.2.2.2.2, _, h.2.2.1, rfl, h.2.2.2.1, h.2.2.2.2.1, open_course h.2.2.2.2.2.1 h.2.1 h.2.2.2.2.2.2.1⟩
theorem witness_event_record : filtered.rd (pfF 31 4 31 0) = dropRing ∧ RingReady 9 dropRing 32 filtered :=
  ⟨by decide +kernel, ready_drop _ _ _ (by decide +kernel)⟩

/-- A delay line of which every tap is some 11 ps wide, and one with a tap of less than 1 ps. -/
def goodLine : LineCal := ⟨7, Vector.ofFn fun _ => 700⟩
def badLine : LineCal := { goodLine with widths := goodLine.widths.set 3 5 }
theorem witness_delay_lines : calPasses goodLine = true ∧ calPasses badLine = false := by decide +kernel
def trip (owner : Nat) (x : Trip) (at' : Nat) (s : State) : State :=
  let s := modTrip 15 (fun _ => x) (s.wr (tripF 15 0 2 0) owner)
  ((s.wr (tripF 15 8 31 0) (stamp96 at')).wr (tripF 15 0xC 31 0) (stamp96 at' / 2 ^ 32)).wr (tripF 15 0x10 31 0) (stamp96 at' / 2 ^ 64)
def noEdge : Trip := ⟨none, false, [], none, none, false⟩
def soon : Nat := instant + 40 * 65536
def edgeAt (t : Nat) : Trip := { noEdge with armed := some ⟨t, true, 0⟩ }
theorem witness_trip_arm : let s := trip 5 noEdge soon clock
    tripOwner s 15 = 5 ∧ (s.tim.trips[15]).armed = none ∧ tripAt s 15 = soon ∧ cyclesAhead s (tripAt s 15) 48 = true := by decide +kernel
theorem witness_trip_past : let s := trip 5 noEdge (instant + 31 * 65536) clock
    tripOwner s 15 = 5 ∧ (s.tim.trips[15]).armed = none ∧ cyclesAhead s (tripAt s 15) 48 = false := by decide +kernel
theorem witness_trip_busy : let s := trip 5 (edgeAt soon) soon clock
    tripOwner s 15 = 5 ∧ (s.tim.trips[15]).armed.isSome = true := by decide +kernel
theorem witness_trip_other_owner : tripOwner (trip 4 noEdge soon clock) 15 ≠ 5 := by decide +kernel
theorem witness_trip_cancel : let s := trip 5 (edgeAt soon) soon clock
    tripOwner s 15 = 5 ∧ (s.tim.trips[15]).armed = some ⟨soon, true, 0⟩ ∧ (s.tim.trips[15]).committed = false
    ∧ cyclesAhead s soon 32 = true := by decide +kernel
theorem witness_trip_too_late : let s := trip 5 (edgeAt (instant + 65536)) soon clock
    (s.tim.trips[15]).armed = some ⟨instant + 65536, true, 0⟩ ∧ cyclesAhead s (instant + 65536) 32 = false := by decide +kernel
theorem witness_trip_commit : let s := trip 5 (edgeAt (instant + 20 * 65536)) soon clock
    within_ s (instant + 20 * 65536) 32 = true ∧ (s.tim.trips[15]).due = [] := by decide +kernel
theorem witness_trip_edge : let s := trip 5 { edgeAt instant with committed := true } soon clock
    within_ s instant 1 = true ∧ (s.tim.trips[15]).grid = none ∧ (s.tim.trips[15]).last = none ∧ padHeld s 114 = false := by decide +kernel

/-- A slot's words: CTL, catch and finish actions, catch, duration, period. -/
def slotOfWords (ctl a b at' dur per : Nat) : List Nat :=
  [ctl, a, b, stamp96 at' % 2 ^ 32, stamp96 at' / 2 ^ 32 % 2 ^ 32, stamp96 at' / 2 ^ 64, dur, 0, per, 0, 0, 0, 0, 0, 0, 0]
def withSlot (w : List Nat) (r : SlotRun) (s : State) : State := { s with tim := { s.tim with slots := [(9, w)], runs := [(9, r)] } }
def newRun : SlotRun := ⟨[], none, 0, false, false, false, false⟩
def withData (w : List Nat) (s : State) : State := forAll (List.range 16) (fun i s => s.setReg (at_ .timReg (0x40 + 4 * i)) (wordAt w i)) s
def queuedIrq : State := { State.reset with tim := { State.reset.tim with irqq := State.reset.tim.irqq.set 2 [16383, 4] } }
theorem witness_slot_open : blkOpen clock .timReg = true ∧ blkOpen queuedIrq .timReg = true := by decide +kernel
theorem witness_slot_write : let d := slotOfWords (2 ^ 31) 0 0 (instant + 43 * 65536) 65536 0
    let s := withData d clock
    (List.range 16).map (fun i => s.rd (F32 .timReg (0x40 + 4 * i))) = d ∧ slotReserved d = false ∧ swEn d = true
    ∧ swPeriodic d = false ∧ cyclesAhead s (swCatch d) 64 = true := by decide +kernel
theorem witness_slot_past : let d := slotOfWords (2 ^ 31) 0 0 (instant + 42 * 65536) 65536 0
    slotReserved d = false ∧ swEn d = true ∧ swPeriodic d = false ∧ cyclesAhead clock (swCatch d) 64 = false := by decide +kernel
theorem witness_slot_reserved : slotReserved (slotOfWords (2 ^ 31) 1 0 (instant + 43 * 65536) 65536 0) = true := by decide +kernel
theorem witness_slot_disabled : let d := slotOfWords 0 0 0 0 1 0
    slotReserved d = false ∧ swEn d = false := by decide +kernel
theorem witness_window_opens : let s := withSlot (slotOfWords (2 ^ 31) 0 0 instant 65536 0) newRun clock
    timeOn s = true ∧ (slotWords s 9).length = 16 ∧ catchDue s 9 = true ∧ reached s (swCatch (slotWords s 9)) = true
    ∧ actOf (wordAt (slotWords s 9) 1) = 0 ∧ actOf (wordAt (slotWords s 9) 2) = 0
    ∧ FirstOfItsInstant s (swCatch (slotWords s 9)) (.catch_ 9) := by unfold FirstOfItsInstant; decide +kernel
theorem witness_window_reopens : let s := withSlot (slotOfWords (2 ^ 31 + 2 ^ 30) 0 0 instant 65536 0x40000) { newRun with next := 5 } clock
    catchDue s 9 = true ∧ reached s (swCatch (slotWords s 9)) = true ∧ swPeriodic (slotWords s 9) = true
    ∧ FirstOfItsInstant s (swCatch (slotWords s 9)) (.catch_ 9) := by unfold FirstOfItsInstant; decide +kernel
def opened : OpenInst := ⟨instant - 65536, instant, 0, 0, 0, false, true⟩
theorem witness_window_closes : let s := withSlot (slotOfWords (2 ^ 31) 0 0 (instant - 65536) 65536 0) { newRun with opens := [opened] } clock
    (slotRun s 9).opens = [opened] ∧ reached s opened.finish = true ∧ actOf opened.act = 0 ∧ actOf (wordAt (slotWords s 9) 1) = 0
    ∧ FirstOfItsInstant s opened.finish (.finish 9 opened) := by unfold FirstOfItsInstant; decide +kernel
def wakes : State :=
  ((withSlot (slotOfWords (2 ^ 31 + 3 * 2 ^ 20 + 2000) (2 * 2 ^ 28) 0 (instant + 2000 * 65536) 65536 0) newRun clock).setReg
    (at_ .timReg (0x100 + 16 * 3)) (2 ^ 16 + 2 ^ 20)).wr (F .pwrDom (16 * 16 + 0xC) 2 0) 2
theorem witness_pre_wake : swEn (slotWords wakes 9) = true ∧ (slotRun wakes 9).woke = false ∧ (slotRun wakes 9).passed = false
    ∧ actOf (wordAt (slotWords wakes 9) 1) = 2 ∧ reached wakes (swCatch (slotWords wakes 9) - swLead (slotWords wakes 9) * 65536) = true
    ∧ passedBy wakes (swCatch (slotWords wakes 9) - swLead (slotWords wakes 9) * 65536) 64 = false
    ∧ wakeSet wakes (swWakeSet (slotWords wakes 9)) = [16, 20] ∧ domForce wakes 16 = 0 := by decide +kernel
theorem witness_pre_wake_low : domState wakes 16 ∈ [1, 2, 3] := by decide +kernel
def handsOver : State := withSlot (slotOfWords (2 ^ 31) (3 * 2 ^ 28 + 16 + 15) 0 (instant + 50 * 65536) 65536 0) newRun (trip 4 noEdge soon clock)
theorem witness_handover_trip : (slotRun handsOver 9).opens = [] ∧ (slotRun handsOver 9).handed = false ∧ (slotRun handsOver 9).passed = false
    ∧ actOf (wordAt (slotWords handsOver 9) 1) = 3 ∧ bits (wordAt (slotWords handsOver 9) 1) 3 0 = 15 ∧ tripOwner handsOver 15 = 4
    ∧ handsOver.mode ≠ modeHoldWater ∧ within_ handsOver (swCatch (slotWords handsOver 9)) 128 = true
    ∧ cyclesAhead handsOver (swCatch (slotWords handsOver 9)) 64 = true := by decide +kernel
theorem witness_irqq : queuedIrq.tim.irqq[2] = 16383 :: [4] ∧ 16383 < 2 ^ 14 := by decide +kernel
def timer (per : Nat) : State := { clock with stk := { clock.stk with table := nput 20 ⟨kTimer, 0, 1, 0,
  [stamp96 instant % 2 ^ 32, stamp96 instant / 2 ^ 32 % 2 ^ 32, stamp96 instant / 2 ^ 64, per, 0, dropRing, 1]⟩ clock.stk.table } }
theorem witness_timer : let s := timer 65536
    timeOn s = true ∧ timerOn (entryAt s 20) = true ∧ timerAt (entryAt s 20) = instant ∧ reached s instant = true
    ∧ (entryAt s 20).words.length = 7 ∧ (entryAt s 20).word 6 = dropRing ∧ timerPeriod (entryAt s 20) = 65536
    ∧ instant % (65536 * 1000000000 * 2 ^ 48) = instant ∧ now16 s < tbTop / 2 ^ 32 - 65536 := by decide +kernel
theorem witness_timer_ring : RingReady 9 dropRing 32 (timer 65536) := ready_drop _ _ _ (by decide +kernel)
theorem witness_timer_once : timerOn (entryAt (timer 0) 20) = true ∧ timerPeriod (entryAt (timer 0) 20) = 0 := by decide +kernel

/-! ### Witnesses: ingest and network -/

/-- A configuration of a link: M = 2, L = 1, S = 1, N = 16; its lane is given by INSTANTS' neighbour LANES. -/
def linkCfgWord : W32 := BitVec.ofNat 32 (2 ^ 31 + 1 * 2 ^ 24 + 1 * 2 ^ 17)
def linkOff : State := (clock.setReg (at_ (.ingLink 3) 4) 15).setReg (at_ (.ingLink 3) 8) (4 * 32)
def linkIn (st cfg : Nat) (l : IngLink) (s : State) : State :=
  modLink 3 (fun _ => l) (((s.setReg (at_ (.ingLink 3) 0) (linkCfgWord.toNat + cfg)).setReg (at_ (.ingLink 3) 0xC) dropRing).wr (lkState 3) st)
theorem witness_link_enable : blkOpen linkOff (.ingLink 3) = true ∧ blkOpen (linkIn 1 0 freshLink linkOff) (.ingLink 3) = true ∧ lkEn linkOff 3 = false ∧ linkCfgWord.getLsbD 31 = true
    ∧ lkLegal (plain32 (.ingLink 3) 0 (setBit linkCfgWord.toNat 31 false) linkOff) 3 = true := by decide +kernel
theorem witness_link_illegal : (BitVec.ofNat 32 (2 ^ 31 + 2 ^ 17 + 2 * 2 ^ 21) : W32).getLsbD 31 = true
    ∧ lkLegal (plain32 (.ingLink 3) 0 (setBit (BitVec.ofNat 32 (2 ^ 31 + 2 ^ 17 + 2 * 2 ^ 21) : W32).toNat 31 false) linkOff) 3 = false := by
  decide +kernel
theorem witness_link_states : lkEn (linkIn 1 0 freshLink linkOff) 3 = true ∧ lkPads (linkIn 1 0 freshLink linkOff) 3 = true
    ∧ (linkIn 1 0 freshLink linkOff).rd (lkState 3) = 1 ∧ (linkIn 2 0 freshLink linkOff).rd (lkState 3) = 2
    ∧ (linkIn 4 0 freshLink linkOff).rd (lkState 3) = 4 ∧ lkPads (linkIn 4 0 freshLink linkOff) 3 = true := by decide +kernel
theorem witness_link_sysref : (linkIn 3 0 freshLink linkOff).rd (lkState 3) = 3 ∧ ∀ j, j ≠ 3 → lkEn (linkIn 3 0 freshLink linkOff) j = false := by
  decide +kernel
theorem witness_link_periodic : let s := (linkIn 5 (2 ^ 29) freshLink linkOff).setReg (at_ (.ingLink 3) 0x010) 65536
    (#v[none, none, none, some 7] : Vector (Option Nat) 4)[(3 : Fin 4)] = some 7 ∧ 4 ≤ s.rd (lkState 3) ∧ s.rd (lkF 3 0 29 29) = 1 ∧ lkEn s 3 = true
    ∧ ∀ j, j ≠ 3 → lkEn s j = false := by decide +kernel
theorem witness_link_crc : let s := linkIn 2 0 freshLink linkOff
    lkEn s 3 = true ∧ 2 ≤ s.rd (lkState 3) ∧ (0 : Fin 8).val < lkL s 3 := by decide +kernel
def ran : IngLink := { freshLink with ran := true, up := true, anchor := instant }
theorem witness_batch : let s := linkIn 5 0 ran linkOff
    lkEn s 3 = true ∧ (s.io.links[3]).ran = true ∧ ([1, -2, 3, -4, 5, -6, 7, -8] : List Int).length = lkInst s 3 * lkM s 3
    ∧ s.rd (lkF 3 0 30 30) = 0 ∧ (s.io.links[3]).up = true ∧ s.rd (lkF 3 8 1 1) = 0 ∧ s.rd (lkF 3 8 2 2) = 0 ∧ s.rd (lkF 3 8 4 3) = 0
    ∧ linkBuffered s 3 + batchLen s 3 ≤ 65536 ∧ domState s 100 = 0 ∧ checkHandle s kRing (s.rd (lkF 3 0xC 31 0)) = 0
    ∧ nget (ringNo s dropRing) s.stk.rings = some ⟨6, 0, [], 0, none⟩
    ∧ roundUp (batchLen s 3) 32 ≤ ringSpace s (ringNo s dropRing) ⟨6, 0, [], 0, none⟩ := by decide +kernel
theorem witness_batch_gated : let s := linkIn 5 (2 ^ 30) ran linkOff
    s.rd (lkF 3 0 30 30) = 1 ∧ gateOpen s 3 (instStamp s 3 0) = false := by decide +kernel

/-- Port 2 enabled, of at most 1518 octets, its link up; the default ring and both queues are given. -/
def port (rx : Nat) (s : State) : State :=
  (((s.setReg (at_ (.netPort 2) 0) (2 ^ 31 + 1518 * 2 ^ 16)).wr (ptF 2 0x028 0 0) 1).wr (ptF 2 4 31 0) rx)
def octets (n et : Nat) : List Byte := List.replicate 12 2 ++ [BitVec.ofNat 8 (et / 256), BitVec.ofNat 8 et] ++ List.replicate (n - 14) 7
theorem witness_port : let s := port dropRing clock
    ptUp s 2 = true ∧ padHeld s 105 = false ∧ domState s 105 = 0 ∧ .netPort 2 ∉ s.flt.underTest ∧ maxLen s 2 = 1518 ∧ pairMode s 2 = 0 ∧ quietNow s = false := by
  decide +kernel
theorem witness_frames : fcs (octets 60 0x1234) ≠ [0, 0, 0, 0] ∧ (octets 59 0x1234).length + 4 < 64 ∧ 64 ≤ (octets 60 0x1234).length + 4
    ∧ 1518 < (octets 1515 0x1234).length + 4 ∧ (octets 1514 0x1234).length + 4 ≤ 1518 := by decide +kernel
theorem witness_frame_default : let f := octets 60 0x1234
    let s := port dropRing clock
    vlanLen f = 0 ∧ etherAt f ≠ 0x8808 ∧ isIec (etherAt f) = false ∧ matchFilter s 2 (etherAt f) (be16 (f.drop 14) 0) 0 = none
    ∧ s.rd (ptF 2 4 31 0) = dropRing := by decide +kernel
theorem witness_frame_ring : RingReady 10 dropRing (roundUp (32 + (octets 60 0x1234).length) 32) (port dropRing clock) :=
  ready_drop _ _ _ (by decide +kernel)
def filtered2 : State :=
  let s := port 0 clock
  { s with stk := { s.stk with table := nput 21 ⟨kFilter, 0, 1, 0, [3, 0x12340707, 2 ^ 14, dropRing, 0, 0, 0]⟩ s.stk.table } }
theorem witness_frame_filter : let f := octets 60 0x1234
    vlanLen f = 0 ∧ etherAt f ≠ 0x8808 ∧ isIec (etherAt f) = false
    ∧ (matchFilter filtered2 2 (etherAt f) (be16 (f.drop 14) 0) 0).map (fun x => (bit (x.2.2.word 5) 0, x.2.2.word 4)) = some (false, dropRing) := by
  decide +kernel
theorem witness_link_up : ptEn (port 0 clock) 2 = true ∧ domState (port 0 clock) 105 = 0 ∧ padHeld (port 0 clock) 105 = false := by decide +kernel
def hsrFrame : List Byte := octets 80 0x892F
def forwards : State := modPort 3 (fun x => { x with fwd := [(hsrFrame, 5)] }) (port 0 clock)
theorem witness_forward : (forwards.io.ports[3]).fwd = [(hsrFrame, 5)] ∧ be16 hsrFrame (12 + vlanLen hsrFrame) = 0x892F
    ∧ be16 hsrFrame (18 + vlanLen hsrFrame) ≠ 0x88F7 ∧ portHeld forwards (otherPort 3) = false ∧ .netPort (otherPort 3) ∉ forwards.flt.underTest ∧ quietNow forwards = false
    ∧ lineFree forwards (otherPort 3) = true ∧ guarded forwards (otherPort 3) hsrFrame.length = false
    ∧ ptUp forwards (otherPort 3) = true := by decide +kernel
def seenOnce (now : Nat) : State := { clock with elapsed := now, io := { clock.io with seen := clock.io.seen.set 1 [⟨5, 6, 100⟩] } }
theorem witness_ageout : (seenOnce 600000100).io.seen[1] = [⟨5, 6, 100⟩] ∧ 600000000 ≤ (seenOnce 600000100).elapsed - 100
    ∧ (seenOnce 600000099).elapsed - 100 < 600000000 := by decide +kernel
/-- A transmit record of 60 octets at CONS of the DROP_NEW ring, its queue bound to port 2 in register 008h or 00Ch. -/
def txRec : List Byte := leBytes 4 0 ++ leBytes 2 92 ++ leBytes 2 0 ++ List.replicate 24 0 ++ octets 60 0x1234
def transmits (off : Nat) : State :=
  (((putBytes 0x300000 txRec (port 0 clock)).setReg (ringReg 1 0x10) 96).wr (ptF 2 off 31 0) dropRing)
theorem witness_transmit : let s := transmits 8
    ptUp s 2 = true ∧ pairMode s 2 = 0 ∧ portHeld s 2 = false ∧ quietNow s = false ∧ .netPort 2 ∉ s.flt.underTest
    ∧ leNat (memBytes s (ringAddr s 1 (s.reg (ringReg 1 0x14)) + 4) 2) = 92 ∧ 92 ≤ 28 + maxLen s 2 ∧ roundUp 92 32 ≤ occupancy s 1
    ∧ ringAddr s 1 (s.reg (ringReg 1 0x14)) + 92 ≤ s.reg (ringReg 1 0) + ringSize s 1
    ∧ leNat (memBytes s (0x300000 + 6) 2) = 0 ∧ memBytes s (0x300000 + 20) 12 = List.replicate 12 0
    ∧ queueRing s 2 8 = some 1 ∧ lineFree s 2 = true ∧ guarded s 2 60 = false := by decide +kernel
theorem witness_transmit_open : Open 10 0x300000 92 (transmits 8) := open_course (by decide +kernel) (by decide) (by decide)
def scheduled : State := modPort 2 (fun x => { x with due := [instant] }) (transmits 0xC)
theorem witness_transmit_scheduled_port : ptUp scheduled 2 = true ∧ portHeld scheduled 2 = false ∧ quietNow scheduled = false := by decide +kernel
theorem witness_transmit_scheduled : queueRing scheduled 2 0xC = some 1 ∧ (scheduled.io.ports[2]).due = [instant]
    ∧ (scheduled.io.ports[2]).busy ≤ instant := by decide +kernel

/-! ### Witnesses: power -/

/-- Paddle or Race with cool silicon and no work. -/
def calm (m : Nat) : State := State.reset.wr (F .pwrCtl 0 2 0) m
def requested (m k : Nat) : State := { calm m with pow := { (calm m).pow with req := some k } }
/-- The same with core 2 released and not waiting. -/
def withCore (k : Machine.Core) (s : State) : State := setCore 2 k s
def liveCore : Machine.Core := { Machine.core State.reset 0 with on := true, pc := 0x4000 }
theorem witness_request : (calm modePaddle).pow.req = none ∧ (calm modePaddle).mode = modePaddle
    ∧ (∀ n, n < 4 → (calm modePaddle).rd (shState n) ≤ stIdle)
    ∧ (∀ e, e < 16 → (calm modePaddle).rd (F .movMvr (0x100 + 4 * e) 31 31) ≠ 1) := by decide +kernel
theorem witness_request_busy_shell : (running { idleRun with job := some runJob }).pow.req = none
    ∧ (running { idleRun with job := some runJob }).mode = modeRace
    ∧ stIdle < (running { idleRun with job := some runJob }).rd (shState 0) := by decide +kernel
theorem witness_request_busy : (requested modeRace 3).pow.req.isSome = true := by decide +kernel
def hot (tj : Nat) : State := ((calm modeHoldWater).wr (F .pwrGov 4 31 24) tj).wr (F .pwrGov 0 15 8) 110
theorem witness_paddle : (hot 106).pow.req = none ∧ (hot 106).pow.hwEntry = false ∧ (hot 106).mode = modeHoldWater
    ∧ (hot 106).rd (F .pwrCtl 8 2 0) = 0 ∧ tjNow (hot 106) < (tjThrot (hot 106) : Int) - 3 := by decide +kernel
theorem witness_paddle_hot : (tjThrot (hot 107) : Int) - 3 ≤ tjNow (hot 107) ∧ ((calm modeHoldWater).wr (F .pwrCtl 8 2 0) 4).rd (F .pwrCtl 8 2 0) ≠ 0 := by
  decide +kernel
theorem witness_easy : (calm modeHoldWater).pow.req = none ∧ NoWaitingJobs (calm modeHoldWater) := by
  refine ⟨by decide +kernel, rfl, fun n => ?_⟩
  have h : ∀ n : Fin 4, (run (calm modeHoldWater) n).stack = [] := by decide +kernel
  by_cases hn : n < 4
  · exact h ⟨n, hn⟩
  · have := h (Fin.ofNat 4 n); simpa [run] using this
theorem witness_easy_now : let s := openPad 117 (calm modeHoldWater)
    s.pow.req = none ∧ s.mode = modeHoldWater ∧ allWait s = true ∧ workEnded s = true ∧ s.vec.pool = [] ∧ s.cus.flying = none ∧ flashTaken s = false
    ∧ padHeld s 117 = false := by decide +kernel
theorem witness_hold_water : let s := (calm modeRace).wr (tripF 7 0 5 5) 1
    s.pow.req = none ∧ s.mode = modeRace ∧ s.rd (tripF 7 0 5 5) = 1 := by decide +kernel
theorem witness_request_timeout : let s := withCore liveCore (requested modeRace 1)
    s.pow.req = some 1 ∧ s.mode ≠ modeEasyAll ∧ allWait s = false := by decide +kernel

theorem witness_boathouse_entry : entryDue (requested modePaddle 1) = true ∧ (requested modePaddle 1).pow.latched = none ∧ ∀ c : CoxId, (Machine.core (requested modePaddle 1) c).sb = []
    ∧ (Machine.core (requested modePaddle 1) c).dcache = [] ∧ nget c.val (requested modePaddle 1).stk.coxCmd = none := by decide +kernel
def asleep (src : Nat) : State := (calm modeBoathouse).setReg (at_ .pwrAon 0) (2 ^ src)
def found (osc vreg : Bool) : WakeIn := ⟨5, [], osc, vreg, []⟩
theorem witness_wake_timer : let s := (asleep 0).setReg (at_ .pwrAon 0x010) 5
    mayWake s 0 = true ∧ s.rd (F .pwrAon 0x010 47 0) ≤ ticksNow s + (found true true).ticks := by decide +kernel
def wakeOctets : List Byte :=
  let f : List Byte := [0x12, 0x34, 0x56, 0x78, 0x9A, 0xBC] ++ List.replicate 6 2 ++ [8, 0x42] ++ List.replicate 46 7
  f ++ fcs f
theorem witness_wake_eth : let s := ((asleep 1).setReg (at_ .pwrAon 0x020) 0x123456789ABC).wr (ptF 0 0 1 0) 2
    within 1 2 (s.rd (ptF 0 0 1 0)) = true ∧ mayWake s 1 = true ∧ wakeFrame s wakeOctets = true := by decide +kernel
theorem witness_wake_pcie : mayWake (asleep 2) 2 = true := by decide +kernel
theorem witness_wake_supply : let s := { asleep 3 with pow := { (asleep 3).pow with pfailSleep := true } }
    mayWake s 3 = true ∧ s.pow.pfailSleep = true ∧ s.pow.pfail = false := by decide +kernel
theorem witness_wake_window : let s := { asleep 4 with pow := { (asleep 4).pow with windowTick := some 5 } }
    mayWake s 4 = true ∧ s.pow.windowTick = some 5 ∧ 5 ≤ ticksNow s + (found true true).ticks := by decide +kernel
theorem witness_wake_evtin : mayWake (asleep 23) (16 + 7) = true := by decide +kernel
theorem witness_wake_latched : let s := (requested modePaddle 1).setReg (at_ .pwrAon 0) (2 ^ 23)
    bit (s.rd (F32 .pwrAon 0)) (16 + 7) = true ∧ s.mode ≠ modeBoathouse ∧ sleepComes s = true ∧ s.pow.latched = none := by decide +kernel
theorem witness_wake_irqin : let s := { asleep 31 with cox := { (asleep 31).cox with irqIn := 2 ^ 7 } }
    mayWake s (24 + 7) = true ∧ irqAsserted s 7 = true := by decide +kernel
def waking (l : List (WakeComp × Bool)) : State :=
  { asleep 2 with pow := { (asleep 2).pow with wake := some ⟨3, 0, found false false, l⟩ } }
theorem witness_wake_timeout : (waking [(.osc, false)]).pow.wake = some ⟨3, 0, found false false, [(.osc, false)]⟩
    ∧ (waking [(.vreg, true)]).pow.wake = some ⟨3, 0, found false false, [(.vreg, true)]⟩ ∧ (waking [(.vreg, true)]).rd (recF 31 29) < 2 := by
  decide +kernel

def rising (l : List (WakeComp × Bool)) (en good : Nat) : State :=
  { asleep 2 with pow := { (asleep 2).pow with wake := some ⟨3, 0, found true true, l⟩, railEn := en, railGood := good } }
theorem witness_wake_rail : (rising [(.vreg, false)] 3 1).pow.wake = some ⟨3, 0, found true true, [(.vreg, false)]⟩
    ∧ bit (rising [(.vreg, false)] 3 1).pow.railEn 1 = true ∧ bit (rising [(.vreg, false)] 3 1).pow.railGood 1 = false
    ∧ setBit (rising [(.vreg, false)] 3 1).pow.railGood 1 true ≠ 15 := by decide +kernel
theorem witness_wake_last_rail : let s := rising [(.vreg, false)] 15 7
    (found true true).vreg = true ∧ s.pow.railEn = 15 ∧ s.pow.railGood = 7 ∧ s.held = [] := by decide +kernel

/-- A domain's state, its CTL and its idle times. -/
def domain (d st ctl t : Nat) : State :=
  (((calm modeRace).setReg (at_ .pwrDom (16 * d + 0xC)) st).setReg (at_ .pwrDom (16 * d)) ctl).setReg (at_ .pwrDom (16 * d + 4)) t
theorem witness_idle_stage : let s := domain 20 0 0 5
    (∀ h ∈ s.held, h.why ≠ .order) ∧ domForce s 20 = 0 ∧ domBusy s 20 = false ∧ (∀ p ∈ s.dom.kept, p.1 ≠ 20) ∧ nextStage s 20 = some 1 := by decide +kernel
theorem witness_force_refused : neverOff 0 = true ∧ bits (2 : W32).toNat 1 0 = 2 ∧ bits (3 : W32).toNat 1 0 = 3
    ∧ bit (2 : W32).toNat 4 = false ∧ bit (2 : W32).toNat 6 = false := by decide
theorem witness_force_off : let s := domain 20 0 0 0
    bits (2 : W32).toNat 1 0 = 2 ∧ neverOff 20 = false ∧ domForce s 20 ≠ 2 := by decide +kernel
theorem witness_force_on : let s := domain 20 3 0 0
    bits (1 : W32).toNat 1 0 = 1 ∧ bit (1 : W32).toNat 4 = false ∧ domForce s 20 ≠ 1 ∧ domState s 20 ∈ [1, 2, 3] := by decide +kernel
theorem witness_domain_wake : domForce (domain 20 5 0 0) 20 ≠ 2 ∧ domState (domain 20 5 0 0) 20 ∈ [1, 2, 3, 5] := by decide +kernel
def wakingDom (tried : Bool) : State :=
  { domain 20 4 0 0 with dom := { State.reset.dom with from_ := [(20, 2)], tried := if tried then [20] else [] } }
theorem witness_domain_ready : let s := wakingDom false
    domState s 20 = 4 ∧ ngetD s.dom.from_ 20 3 ≠ 3 ∧ 20 ∉ s.dom.rel ∧ 20 ∉ s.dom.byIdle ∧ s.held = [] ∧ s.host.xspi = none ∧ custodyReady s = false
    ∧ 20 ∉ s.dom.tried := by decide +kernel
theorem witness_domain_tried : domState (wakingDom true) 20 = 4 ∧ 20 ∈ (wakingDom true).dom.tried ∧ (wakingDom true).vec.pool = [] := by decide +kernel
theorem witness_release : (domain 105 0 0x80 0).held = [] ∧ (domain 105 0 0x80 0).host.xspi = none ∧ custodyReady (domain 105 0 0x80 0) = false
    ∧ padHeld (domain 105 0 0x80 0) 105 = true ∧ domState (domain 105 0 0x80 0) 105 = 0 ∧ padHeld (domain 105 3 0x80 0) 105 = true ∧ domState (domain 105 3 0x80 0) 105 ≠ 0 := by decide +kernel

/-- Current and voltage point, and a step. -/
def opPoint (cur volt : Nat) (step v : Option Nat) : State :=
  let s := ((calm modeRace).wr (dvF 4 2 0) cur).wr (dvF 4 10 8) volt
  { s with pow := { s.pow with step := step, volt := v } }
def wants (v : Nat) (s : State) : Nat := dvfsTarget (s.wr (dvF 0 2 0) v)
theorem witness_dvfs : (opPoint 3 3 none none).mode ≠ modeBoathouse ∧ (opPoint 3 3 none none).pow.hwEntry = false ∧ (opPoint 3 3 none none).pow.req ≠ some 3
    ∧ (opPoint 3 3 none none).pow.step = none ∧ wants 3 (opPoint 3 3 none none) = 3 ∧ wants 5 (opPoint 3 3 none none) = 5
    ∧ wants 1 (opPoint 3 3 none none) = 1 := by decide +kernel
theorem witness_voltage : let s := opPoint 3 3 (some 7) (some 7)
    s.pow.step = some 7 ∧ s.pow.volt = some 7 ∧ curOp s < 7 := by decide +kernel
theorem witness_dvfs_timeout : let s := (opPoint 3 3 (some 7) (some 7)).wr (dvF 0 2 0) 7
    s.mode ≠ modeBoathouse ∧ s.pow.hwEntry = false ∧ s.pow.req ≠ some 3 ∧ s.pow.volt.isSome = true ∧ curOp s ≤ dvfsTarget s
    ∧ (opPoint 3 3 none none).pow.volt = none := by decide +kernel
theorem witness_switch : let s := opPoint 5 5 (some 2) none
    s.pow.step = some 2 ∧ curOp s ≠ 2 ∧ 2 < voltOp s ∧ detJobs s = false := by decide +kernel
def detJob : Job := { runJob with descs := [runJob.descs.head!.set 0 0x80] }
theorem witness_switch_det : let s := { (running { idleRun with job := some detJob }).wr (dvF 4 2 0) 5 |>.wr (dvF 4 10 8) 5 with
      pow := { env.pow with step := some 2 } }
    s.pow.step = some 2 ∧ curOp s ≠ 2 ∧ 2 ≤ voltOp s ∧ detJobs s = true := by decide +kernel
theorem witness_reference : ({ calm modeRace with pow := { (calm modeRace).pow with rc := true } } : State).pow.rc = true := by decide +kernel

def capped (cap tj : Nat) : State := ((calm modeRace).wr (F .pwrGov 4 15 12) cap).wr (F .pwrGov 4 31 24) tj |>.wr (F .pwrGov 0 15 8) 110
theorem witness_monitors : let temps : Vector (BitVec 8) 8 := #v[20, 124, 128, 0, 0, 0, 0, 0]
    capNow (capped 8 0) ≤ 8 ∧ (124 : Int) ∈ temps.toList.map BitVec.toInt ∧ (∀ x ∈ temps.toList.map BitVec.toInt, x ≤ 124)
    ∧ tjNow (capped 5 106) < (tjThrot (capped 5 106) : Int) - 3 ∧ capNow (capped 5 106) < 8
    ∧ (capped 8 0).elapsed < (capped 8 0).pow.telemetryAt + 1500000 := by decide +kernel
theorem witness_ramp : let s := (running { idleRun with job := some runJob }).wr (F .pwrGov 4 15 12) 8 |>.wr (F .pwrGov 0 5 0) 10 |>.wr (shRating 0) 3
    s.rd (shState 0) = stRunning ∧ s.rd (shRating 0) < allowedRating s [0] ∧ s.rd (shRating 0) < 8 := by decide +kernel
theorem witness_ballast : let s := reservedFor armed [0]
    s.rd (shState 0) = stReserved ∧ (run s 0).ballast = 0 := by decide +kernel

/-! ### Witnesses: Launch, resets, custody -/

def rails (en good : Nat) : State := { State.reset with pow := { State.reset.pow with launch := some 0, railEn := en, railGood := good } }
theorem witness_rails : (rails 15 7).pow.launch = some 0 ∧ (rails 15 7).pow.stopped = false ∧ (rails 15 7).pow.porst = false ∧ (rails 15 7).pow.wake = none ∧ (rails 15 15).pow.testmode = false
    ∧ bit (rails 15 7).pow.railEn 3 = true ∧ bit (rails 15 7).pow.railGood 3 = false ∧ (rails 15 15).pow.railGood = 15 := by decide +kernel
theorem witness_no_image : let s := rails 15 15
    let s1 := launchClocks (ddrForgets (launchRecord 0 [] s))
    headCode s1 0 none = 1 ∧ headCode s1 1 (some 0) ≠ 0 ∧ firstSlot s1 = 0 := by decide +kernel
theorem witness_block_reset : blkOf ⟨BitVec.ofNat 4 (Blk.place .vecSched).1, BitVec.ofNat 8 (Blk.place .vecSched).2⟩ = some .vecSched
    ∧ ({ env with flt := { env.flt with reactions := [.blockReset ⟨.vecSched, 3⟩] } } : State).flt.reactions = [.blockReset ⟨.vecSched, 3⟩]
    ∧ Blk.vecSched ∉ env.flt.resets := by decide +kernel
def inReset : State := { env with flt := { env.flt with resets := [.hstDdr] } }
theorem witness_block_reset_again : ({ inReset with flt := { inReset.flt with reactions := [.blockReset ⟨.hstDdr, 3⟩] } } : State).flt.resets = [.hstDdr] := by decide
theorem witness_block_reset_end : inReset.cox.bcasts = [] ∧ inReset.held = [] ∧ Blk.hstDdr ∈ inReset.flt.resets ∧ (∀ c : CoxId, Blk.hstDdr ≠ .cox c) ∧ (∀ h ∈ inReset.held, h.why ≠ .block .hstDdr ∧ h.why ≠ .ddr) := by decide +kernel
theorem witness_chip_reset : ({ env with flt := { env.flt with reactions := [.chipReset ⟨.pwrGov, 0⟩ 3 9] } } : State).flt.reactions
    = [.chipReset ⟨.pwrGov, 0⟩ 3 9] := by decide

def vaulted : State := openPad 117 (({ env with flashSize1 := 0x400000 } : State).wr (F .cusVlt 8 4 0) 4)
def settings : Nat := 0x70000016
def withSettings (len : Nat) : State :=
  let s := { vaulted with stk := { vaulted.stk with table := nput 22 ⟨kSettings, 0, 1, 0, [5, region, 0x1000, len, 0, 0, 0]⟩ vaulted.stk.table } }
  (s.setReg (at_ .cusVlt 0x014) 0).setReg (at_ .cusVlt 0x010) 1000000
theorem witness_commit : let s := withSettings 4096
    s.held = [] ∧ s.host.xspi = none ∧ padHeld s 117 = false ∧ s.pow.req ≠ some 3 ∧ s.cus.own = [] ∧ s.cus.sys = [] ∧ s.cus.flying = none ∧ s.cus.queue = []
    ∧ holdupShort s (jFoot 4096) = false ∧ holdupShort ((s.setReg (at_ .cusVlt 0x014) 2000000)) (jFoot 4096) = true
    ∧ commitCheck (s.setReg (at_ .cusVlt 0x014) 2000000) settings = 0 ∧ (entryOf s settings).word 5 = 0 ∧ commitCheck s settings = 0 ∧ (entryOf s settings).words.length = 7 ∧ bits ((entryOf s settings).word 4) 12 0 = 4096 := by decide +kernel
theorem witness_commit_behind : let s0 := withSettings 4096
    let s := { s0 with cus := { s0.cus with queue := [⟨settings, 5, [1]⟩], flying := some ⟨false, 0x10000, 0, [1]⟩ } }
    commitCheck s settings = 0 ∧ s.cus.flying.isSome = true := by decide +kernel
theorem witness_commit_region : regionAt (withSettings 4096) ((entryOf (withSettings 4096) settings).word 2) = .ok ⟨0, 0x200000, true, true⟩
    ∧ Open 14 (0 + 0x1000) 4096 (withSettings 4096) :=
  ⟨region_at (by decide +kernel), open_course (by decide +kernel) (by decide) (by decide)⟩
theorem witness_commit_refused : padHeld vaulted 117 = false ∧ commitCheck vaulted region ≠ 0 ∧ (entryOf vaulted region).word 5 = 3
    ∧ commitCheck vaulted 0x70000FFF ≠ 0 ∧ (entryOf vaulted 0x70000FFF).word 5 = 0 := by decide +kernel
def committing : State := { withSettings 16 with cus := { vaulted.cus with queue := [⟨settings, 5, List.replicate 16 9⟩], flying := some ⟨false, 0x10000, 0, []⟩ } }
theorem witness_commit_end : committing.cus.flying.any (fun f => !f.sys) = true ∧ committing.cus.own = [] ∧ committing.cus.sys = [] ∧ committing.pow.req ≠ some 3 ∧ padHeld committing 117 = false ∧ committing.cus.queue = [⟨settings, 5, List.replicate 16 9⟩] ∧ 0 < vaultBlocks committing
    ∧ (entryOf committing settings).word 5 = 0
    ∧ ∀ i, i < jFoot 16 → vRead committing (jOffset committing (jPlace committing.cus.wp (jFoot 16)) + i) 1 = [0xFF] := by decide +kernel
theorem witness_commit_checked : checkHandle committing kSettings settings = 0 := by decide +kernel
def preferring : State := { vaulted with cus := { vaulted.cus with sys := [.prefer true], flying := some ⟨true, 0, 0, []⟩ } }
theorem witness_system_record : preferring.cus.queue = [] ∧ preferring.cus.flying.any Flying.sys = true ∧ preferring.cus.own = [] ∧ preferring.pow.req ≠ some 3 ∧ padHeld preferring 117 = false ∧
    preferring.cus.sys = [.prefer true] ∧ vaultThere preferring = true ∧ (sysNow preferring).isNone = true := by decide +kernel
def cutting : State := { vaulted with cus := { vaulted.cus with pfail := true, wp := 16 } }
theorem witness_cut : cutting.cus.flying = none ∧ cutting.mode ≠ modeLaunch ∧ cutting.pow.req ≠ some 3 ∧ cutting.cus.own = [] ∧ cutting.cus.pfail = true ∧ cutting.cus.queue = [] ∧ cutting.cus.sys = [] ∧ cutting.cus.cutN ≤ 4094
    ∧ padHeld cutting 117 = false ∧ cutting.cus.cutFrom + 375000 * cutting.cus.cutN ≤ cutting.elapsed
    ∧ vaultThere cutting = true ∧ (∀ i, i < 16 → vRead cutting (jOffset cutting cutting.cus.wp + i) 1 = [0xFF]) ∧ cutting.cus.wp % 16 = 0 := by
  decide +kernel
theorem witness_pfail : padHeld vaulted 117 = false ∧
    vaulted.held = [] ∧ vaulted.host.xspi = none ∧ vaulted.pow.req ≠ some 3 ∧ vaulted.cus.own = []
    ∧ vaulted.pow.porst = false ∧ vaulted.pow.pfail = false ∧ vaulted.pow.erg = none ∧ vaulted.cus.seedDue = false
    ∧ vaulted.cus.queue.length ≤ bnat (vaulted.cus.flying.any (fun f => !f.sys)) ∧ vaulted.cus.sys.length ≤ bnat (vaulted.cus.flying.any Flying.sys)
    ∧ committing.cus.queue.length ≤ bnat (committing.cus.flying.any (fun f => !f.sys)) := by
  decide +kernel
def fullJournal : State := { vaulted with cus := { vaulted.cus with wp := 0x20040 } }
theorem witness_compaction : fullJournal.cus.flying = none ∧ fullJournal.cus.own = [] ∧ fullJournal.pow.req ≠ some 3 ∧ padHeld fullJournal 117 = false ∧ fullJournal.held = [] ∧ fullJournal.host.xspi = none ∧
    vaultThere fullJournal = true ∧ fullJournal.cus.pfail = false ∧ jFree fullJournal < 2 * 65536
    ∧ fullJournal.cus.wp / 65536 ≠ fullJournal.cus.oldBlk ∧ 0 < vaultBlocks fullJournal := by decide +kernel

def lifecycle (n : Nat) : State := env.wr (F .cusLc 0 2 0) n
theorem witness_lifecycle : (lifecycle 1).rd (F .cusLc 0xC 31 31) = 0 ∧ lcAllowed (lifecycle 1).lc 0 = false
    ∧ lcAllowed (lifecycle 1).lc 2 = true ∧ lcAllowed (lifecycle 1).lc 4 = true ∧ (lifecycle 1).cus.pfail = false ∧ 2 ≠ lcReturn := by decide +kernel
theorem witness_return_token : (lifecycle 2).lc = lcField ∧ readToken (lifecycle 2) = (lifecycle 2, none) := by
  refine ⟨by decide +kernel, ?_⟩
  have : regionAt (lifecycle 2) ((lifecycle 2).rd (F32 .cusLc 8)) = .error cNull := by
    have h : checkHandle (lifecycle 2) kRegion ((lifecycle 2).rd (F32 .cusLc 8)) = cNull := by decide +kernel
    simp [regionAt, h, cNull]
  simp [readToken, this]
theorem witness_advance : let s := (lifecycle 2).setReg (at_ .cusAuth 0xC) 65
    s.rd (F .cusAuth 4 31 31) = 0 ∧ s.lc = lcField ∧ s.cus.pfail = false ∧ s.cus.rollback < min 64 (s.rd (F32 .cusAuth 0x00C)) := by decide +kernel
theorem witness_prefer : env.rd (F .cusAuth 4 31 31) = 0 ∧ env.cus.pfail = false := by decide +kernel

/-! ### Witnesses: faults, debug access, erg runs -/

def umpire (fault mis : Bool) (n : Nat) : State :=
  let s := env.wr (F .pwrFlt 0 1 1) 1
  { s with flt := { s.flt with pairFault := fault, mismatch := mis, mismatchFor := n } }
theorem witness_umpire : (umpire false false 0).rd (F .pwrFlt 0 1 1) = 1 ∧ (umpire false false 0).flt.pairFault = false
    ∧ (umpire true false 0).flt.pairFault = true ∧ umpCause (umpire true false 0) = 0
    ∧ (true, false) = umpDriven (umpire false false 0) ∧ (false, false) ≠ umpDriven (umpire false false 1)
    ∧ 1 ≤ (umpire false false 1).flt.mismatchFor := by decide +kernel
def nmiWaits : State :=
  let s := (env.setReg (faultReg .vecSched 0) 8).setReg (at_ .pwrFlt 8) 1
  { s with elapsed := 1500, flt := { s.flt with nmi := [⟨⟨.vecSched, 3⟩, 0⟩] } }
theorem witness_nmi_wait : nmiWaits.flt.nmi = [⟨⟨.vecSched, 3⟩, 0⟩] ∧ nmiWaits.rdBit (fStatus .vecSched) 3 = true
    ∧ nmiOver nmiWaits ⟨⟨.vecSched, 3⟩, 0⟩ = true ∧ nmiWaits.mode ≠ modeEasyAll ∧ nmiWaits.mode ≠ modeLaunch := by decide +kernel
theorem witness_nmi_cleared : let s := nmiWaits.setReg (faultReg .vecSched 0) 0
    s.flt.nmi = [⟨⟨.vecSched, 3⟩, 0⟩] ∧ s.rdBit (fStatus .vecSched) 3 = false := by decide +kernel
def debugged : State := { env with dbg := { env.dbg with addr := 0x1000, status := 0, data := 7 } }
theorem witness_debug : debugged.mode ≠ modeBoathouse ∧ dbgAllowed debugged = true ∧ dbgWaits debugged = false ∧ debugged.dbg.status ≠ 1
    ∧ debugged.dbg.addr < 2 ^ 44 ∧ debugged.rd (F .cusLc 0xC 31 31) = 0 ∧ lcAllowed debugged.lc (bits (1 : W64).toNat 2 0) = true
    ∧ debugged.cus.pfail = false ∧ debugged.lc = lcTest ∧ ergAllowed debugged = true ∧ debugged.rd (ergF 31 31) = 0
    ∧ bitsOf (bits (0x24 : W64).toNat 5 0) 6 = 2 :: [5] := by decide +kernel
theorem witness_debug_open : domState debugged 102 = 0 ∧ Open 15 0x1000 4 debugged ∧ Open 15 0x1000 8 debugged :=
  ⟨by decide +kernel, open_here (by decide +kernel), open_here (by decide +kernel)⟩
theorem witness_debug_refused : dbgAllowed (lifecycle 2) = false ∧ (lifecycle 1).lc ≠ lcTest ∧ dbgAllowed (lifecycle 1) = true := by decide +kernel
theorem witness_erg_start : ergAllowed env = true ∧ env.rd (ergF 31 31) = 0 ∧ bitsOf (bits (0x20 : W32).toNat 5 0) 6 = 5 :: []
    ∧ (env.wr (ergF 31 31) 1).rd (ergF 31 31) = 1 ∧ ergAllowed (lifecycle 2) = false := by decide +kernel
def tested : State :=
  { vaulted with flt := { vaulted.flt with underTest := [.timPf] }, pow := { vaulted.pow with erg := some ⟨[5], [5], true, 0⟩ } }
theorem witness_erg_done : tested.host.xspi = none ∧ tested.cus.flying = none ∧ padHeld tested 117 = false ∧ tested.pow.erg = some ⟨[5], [5], true, 0⟩ ∧ tested.cus.pfail = false ∧ vaultThere tested = true
    ∧ ∀ w ∈ tested.cus.wins, w.seq ≤ tested.cus.seq := by decide +kernel

/-! ### Witness: an image that passes its checks

PUBKEY is the generator of P-384, the key of the private number 1; hash and signature are computed outside the model. -/

def imageBytes : List Byte :=
  leBytes 4 0x53484D44 ++ leBytes 2 1 ++ leBytes 2 1 ++ leBytes 4 0 ++ leBytes 4 1 ++ leBytes 4 0 ++ leBytes 4 2 ++ List.replicate 136 0
    ++ leBytes 96 0x5f0eea907c1d437a9d817e1dceb1600ac0b8f0b51331dae97c149a28bd1df4f829dc9292bf989e5d6f2c26964ade1736b70a7672385e543a6c2955bf5df20255382a5482e041f759989ba78b623b1d6e74ad20f31ec7b18e37058bbe22ca87aa
    ++ leBytes 4 0 ++ leBytes 4 (2 * 2 ^ 16) ++ leBytes 4 0x1C0 ++ leBytes 4 64
    ++ leBytes 48 0xbedeb6978ebaba4a4c8869036162440c1b287320bce48f3c8b381a70c3f2133ad2c099709326686c637c453b8daa16c5
    ++ leBytes 96 0xcf46bc50ff198857ebca2219d305f414cf016ea6924a08fa619498ad01f89393b0ca16cb97eb3e3506bf713d382abd68b70a7672385e543a6c2955bf5df20255382a5482e041f759989ba78b623b1d6e74ad20f31ec7b18e37058bbe22ca87aa
    ++ List.replicate 96 0
/-- The image in a slot of a flash of 128 MiB. -/
def imaged (slot : Nat) : State := { rails 15 15 with flashSize0 := 0x8000000, flash0 := (List.range' (slot * 0x4000000) imageBytes.length).zip imageBytes }

theorem ngetD_zip (l : List Byte) (k n : Nat) : ngetD ((List.range' n l.length).zip l) (n + k) 0xFF = l.getD k 0xFF := by
  induction l generalizing k n with
  | nil => simp [ngetD]
  | cons x l ih =>
    simp only [List.length_cons, List.range'_succ, List.zip_cons_cons]
    cases k with
    | zero => simp [ngetD, nget]
    | succ k =>
      have e : n + (k + 1) = (n + 1) + k := by omega
      have hne : ¬ n = (n + 1) + k := by omega
      rw [e, List.getD_cons_succ, ← ih k (n + 1)]
      simp only [ngetD, nget, if_neg hne]

theorem slot_image {s : State} {slot : Nat} {l : List Byte} (h : s.flash0 = (List.range' (slot * 0x4000000) l.length).zip l) (o n : Nat) :
    slotBytes s slot o n = (l.drop o ++ List.replicate n 0xFF).take n := by
  apply List.ext_getElem
  · simp [slotBytes, flashBytes]
  · intro i h1 h2
    have := ngetD_zip l (o + i) (slot * 0x4000000)
    rw [show slot * 0x4000000 + (o + i) = slot * 0x4000000 + o + i by omega] at this
    simp only [slotBytes, flashBytes, List.getElem_map, List.getElem_range, flashByte, if_true, h, this,
      List.getElem_take, List.getElem_append, List.getElem_drop, List.getElem_replicate, List.length_drop, List.getD_eq_getElem?_getD]
    split
    · rw [List.getElem?_eq_getElem (by omega), Option.getD_some]
    · rw [List.getElem?_eq_none (by omega), Option.getD_none]

/-- Sections that are not loaded leave the state as it is. -/
theorem loadBody_plain (slot : Nat) (l : List Section) (s : State) (h : ∀ x ∈ l, x.typ ≠ 1) : loadBody slot none l s
    = (s, if l.all (fun x => sha384 (slotBytes s slot x.off x.size) == x.hash) then 0 else 7) := by
  induction l with
  | nil => rfl
  | cons x l ih =>
    have hx := h x List.mem_cons_self
    simp only [loadBody, Option.filter_none, if_neg hx, ih (fun y hy => h y (List.mem_cons_of_mem _ hy)), List.all_cons, Bool.and_eq_true]
    split <;> simp_all

/-- A slot's checks read it only through its bytes. -/
theorem image_head {s : State} {slot : Nat} (h : s.flash0 = (List.range' (slot * 0x4000000) imageBytes.length).zip imageBytes) (hs : slot < 2)
    (h1 : s.flashSize0 = 0x8000000) (h2 : s.cus.keyHash.all (· == 0) = true) (h3 : s.lc = lcTest) (h4 : s.cus.rollback = 0) : headCode s slot none = 0 := by
  have : slotThere s slot = true := by simp only [slotThere, h1, Bool.or_eq_true, decide_eq_true_eq]; left; omega
  simp only [headCode, headerCode, Option.any_none, Bool.and_false, Bool.false_eq_true, if_false, formatOk, keyOk, sections, secOk, this, slotWord,
    slot_image h, h2, h3, h4, if_true]
  decide +kernel
theorem image_body {s t : State} {slot : Nat} (h : s.flash0 = (List.range' (slot * 0x4000000) imageBytes.length).zip imageBytes)
    (ht : t.flash0 = s.flash0) : (loadBody slot none (imageAt s slot).secs t).2 = 0 := by
  have hl : ∀ x ∈ (imageAt s slot).secs, x.typ ≠ 1 := by simp only [imageAt, sections, slotWord, slot_image h]; decide +kernel
  rw [loadBody_plain slot _ t hl]
  simp only [imageAt, sections, slotWord, slot_image h, slot_image (ht.trans h)]
  decide +kernel
theorem try_slot {slot : Nat} {x : LaunchIn} {s : State} (hb : x.reads[Fin.ofNat 2 slot] = none) (hc : headCode s slot none = 0)
    (h : s.flash0 = (List.range' (slot * 0x4000000) imageBytes.length).zip imageBytes) (ho : bit (imageAt s slot).options 0 = false)
    (ht : let s1 := (s.wr (F .hstXspi 0 15 8) (bits (imageAt s slot).xspi 15 8)).wr (F .hstXspi 0 7 0) (bits (imageAt s slot).xspi 7 0)
      (calibrateLines x.lines (launchWipe (loadRepairs s1))).flash0 = s.flash0) : (trySlot slot false x s).2 = 0 := by
  simp only [trySlot, hb, hc, ho, ne_eq, not_true_eq_false, Bool.false_eq_true, if_false]
  exact image_body h ht
def launchIn (a b : Option Nat) : LaunchIn := ⟨true, true, true, [], [], [], #v[a, b]⟩
theorem witness_image : let s1 := launchClocks (ddrForgets (launchRecord 0 [] (imaged 0)))
    (imaged 0).pow.launch = some 0 ∧ (imaged 0).pow.railGood = 15 ∧ firstSlot s1 = 0 ∧ (trySlot (firstSlot s1) false (launchIn none none) s1).2 = 0 := by
  have h1 : firstSlot (launchClocks (ddrForgets (launchRecord 0 [] (imaged 0)))) = 0 := by decide +kernel
  refine ⟨by decide +kernel, by decide +kernel, h1, ?_⟩
  simp only [h1]
  exact try_slot rfl (image_head (by decide +kernel) (by decide) (by decide +kernel) (by decide +kernel) (by decide +kernel) (by decide +kernel))
    (by decide +kernel) (by decide +kernel) (by decide +kernel)
theorem witness_image_fallback : let s1 := slotFails 0 8 (launchClocks (ddrForgets (launchRecord 0 [] (imaged 1))))
    firstSlot s1 = 0 ∧ headCode (launchClocks (ddrForgets (launchRecord 0 [] (imaged 1)))) 0 (some 0) = 8
    ∧ (trySlot 1 false (launchIn (some 0) none) s1).2 = 0 := by
  refine ⟨by decide +kernel, by decide +kernel, ?_⟩
  exact try_slot rfl (image_head (by decide +kernel) (by decide) (by decide +kernel) (by decide +kernel) (by decide +kernel) (by decide +kernel))
    (by decide +kernel) (by decide +kernel) (by decide +kernel)

/-! ### Witnesses: the Cox cores -/

/-- Core 2 as given, in Race; it owns the first Crew bank. -/
def cox (k : Machine.Core) : State := withCore k (env.wr (ownFld 0 3 0) 2)
/-- Core 2 with operands 0 and 1 of a unit. -/
def ports (u a b : Nat) (k : Machine.Core) : Machine.Core := { k with banks := k.banks.set 0 [(u * 8, a), (u * 8 + 1, b)] }
theorem quiet_of {s : State} {c : CoxId} (h : mayIssue s c = true ∧ (Machine.core s c).catchup = none ∧ (Machine.core s c).flight = []
    ∧ (Machine.core s c).sb = [] ∧ (Machine.core s c).xfer = none ∧ (Machine.core s c).shadow = none ∧ (Machine.core s c).owe = 0 ∧ (Machine.core s c).gap = 0) :
    Quiet s c := h
theorem witness_units : Quiet (cox liveCore) 2 := quiet_of (by decide +kernel)
theorem witness_unit_ports : Quiet (cox (ports 10 0x12C 1 liveCore)) 2 ∧ o2 (cox (ports 10 0x12C 1 liveCore)) 2 10 < 2 :=
  ⟨quiet_of (by decide +kernel), by decide +kernel⟩
theorem witness_field_in_word : (Claims.bitsUnit (.extract 2 (BitVec.ofNat 64 (63 * 64)))).isSome = true
    ∧ (Claims.bitsUnit (.insert 2 63)).isSome = true ∧ (Claims.bitsUnit (.extract 2 (BitVec.ofNat 64 (63 * 64 + 1)))).isNone = true := by
  decide +kernel
theorem witness_compare : let s := cox (ports 11 5 0xF1 liveCore)
    Quiet s 2 ∧ o2 s 2 11 < 256 ∧ bits (o2 s 2 11) 3 0 ≠ bits (o2 s 2 11) 7 4 := ⟨quiet_of (by decide +kernel), by decide +kernel, by decide +kernel⟩
/-- 1.0 and 2.0 in binary64 and binary32. -/
theorem witness_float : (fpu0Op 8 0x3FF0000000000000 0 0x4000000000000000 0).cause = none
    ∧ (fpu1Op 8 0x3FF0000000000000 0x4000000000000000 0).cause = none ∧ (cmpOp 19 0x3FF0000000000000 0x4000000000000000 0).cause = none
    ∧ (fpu0Op 16 0x3F800000 0 0x40000000 0).cause = none := by decide +kernel

/-! ### Witnesses: loads, stores, system operations -/

def at0 (k : Machine.Core) (acc : CpuAcc) (va : Nat) : Tx := translate k k.xlate k.user acc va
theorem witness_load : let k := ports 13 0x1000 0 liveCore
    Quiet (cox k) 2 ∧ lsuVa (cox k) 2 true 8 = 0x1008 ∧ 0x1008 % 8 = 0 ∧ at0 (Machine.core (cox k) 2) .load 0x1008 = .ok 0x1008 1
    ∧ cacheable k 0x1008 1 = false ∧ k.det = false := ⟨quiet_of (by decide +kernel), by decide +kernel, by decide, by decide +kernel,
      by decide +kernel, by decide +kernel⟩
theorem witness_load_open : Open 2 0x1008 8 (cox (ports 13 0x1000 0 liveCore)) := open_here (by decide +kernel)
/-- Page 4000h to Crew address 4001000h: supervisor, writable, of memory type 2, its line in the data cache. -/
def paged : Machine.Core := { ports 12 0x4010 7 liveCore with
  xlate := 1, tlb := [(3, ⟨2 ^ 63 + 12 * 2 ^ 48 + 0x4000, 2 ^ 52 + 2 * 2 ^ 50 + 0x4001000, false⟩)],
  dcache := [(lineOf 0x4001000, ⟨List.replicate 64 0x85, true, []⟩)] }
theorem witness_load_cached : Quiet (cox paged) 2 ∧ lsuVa (cox paged) 2 false 0 = 0x4010 ∧ at0 paged .load 0x4010 = .ok 0x4001010 2
    ∧ cacheable paged 0x4001010 2 = true ∧ (nget (lineOf 0x4001010) paged.dcache).map (fun l => (l.data.length, l.bad)) = some (64, []) := ⟨quiet_of (by decide +kernel),
      by decide +kernel, by decide +kernel, by decide +kernel, by decide +kernel⟩
theorem witness_prefetch_fault : at0 { liveCore with user := true } .load 0x1000 = .fault 0x12 := by decide +kernel
def uncached : Machine.Core := { paged with dcache := [] }
theorem witness_prefetch_fill : cacheable uncached 0x4001010 2 = true ∧ (sameSet (lineOf 0x4001010) uncached.dcache).length < 4
    ∧ Open 2 (lineOf 0x4001010 * 64) 64 (cox uncached) := ⟨by decide +kernel, by decide +kernel, open_here (by decide +kernel)⟩
theorem witness_prefetch_walk : at0 { uncached with tlb := [], xlate := 0x10009 } .load 0x4010 = .miss ∧ uncached.walks = [] ∧ uncached.det = false := by decide +kernel
theorem witness_store : at0 paged .store 0x4010 = .ok 0x4001010 2 ∧ 0x4001010 % 8 = 0 ∧ paged.det = false ∧ crewBase ≤ 0x4001010 := by
  decide +kernel
theorem witness_atomic : Quiet (cox uncached) 2 ∧ nget (lineOf 0x4001010) uncached.dcache = none ∧ Open 2 0x4001010 8 (cox uncached) :=
  ⟨quiet_of (by decide +kernel), by decide, open_here (by decide +kernel)⟩
/-- TLB words in the operands of SYS. -/
def tlbOps : Machine.Core := { ports 0 (2 ^ 63 + 12 * 2 ^ 48 + 0x4000) (2 ^ 52 + 0x4001000) liveCore with tlb := paged.tlb }
theorem witness_tlb_write : let s := cox tlbOps
    Quiet s 2 ∧ (Machine.core s 2).user = false ∧ bit (o1 s 2 0) 63 = true ∧ tlbWordsOk 255 (o1 s 2 0) (o2 s 2 0) = true
    ∧ tlbWordsOk 0x10F (o1 s 2 0) (o2 s 2 0) = true :=
  ⟨quiet_of (by decide +kernel), by decide +kernel, by decide +kernel, by decide +kernel, by decide +kernel⟩
theorem witness_tlb_remove : bit (o1 (cox liveCore) 2 0) 63 = false := by decide +kernel
theorem witness_tlb_read : (nget 3 tlbOps.tlb).isSome = true ∧ nget 255 tlbOps.tlb = none ∧ (cox tlbOps).flt.resets = []
    ∧ (∀ d, (Machine.core (cox tlbOps) d).walks = [] ∧ (Machine.core (cox tlbOps) d).staleWalk = false)
    ∧ (Machine.core (cox tlbOps) 2).on = true ∧ domState (cox tlbOps) 2 ≠ 3 := by decide +kernel
def broadcasting : State := let s := cox tlbOps; { s with cox := { s.cox with bcasts := [⟨0, 1, [2]⟩] } }
theorem witness_tlb_broadcast : broadcasting.cox.bcasts = [⟨0, 1, [2]⟩] ∧ Blk.cox 2 ∉ broadcasting.flt.resets
    ∧ domState broadcasting 2 ≠ 1 := by decide +kernel
theorem witness_system : let s := cox liveCore
    (Machine.core s 2).user = false ∧ s.pow.req ≠ some 3 ∧ (Machine.core s 2).sbErr = [] ∧ (Machine.core s 2).cacheOps = []
    ∧ sterrFirst s 2 = false ∧ curLevel s 2 ≠ 4 ∧ at0 (Machine.core s 2) .load 0x1008 = .ok 0x1008 1 := by decide +kernel
theorem witness_system_values : (0x13FFB : Nat) &&& 0x13FFB = 0x13FFB ∧ (0xB : Nat) &&& 0xB = 0xB ∧ 1 ≤ bits 0xFC 2 0 ∧ bits 0xFC 2 0 ≤ 4
    ∧ bits 0xFFFFFFFF009 11 4 = 0 ∧ bits 0xFFFFFFFF009 2 1 = 0 := by decide +kernel

/-! ### Witnesses: transfers, loops, time, mail, jobs -/

theorem witness_jump : Quiet (cox liveCore) 2 ∧ (0xFFFFFFFFFFF0 : Nat) % 16 = 0 ∧ 0xFFFFFFFFFFF0 < 2 ^ 48 := ⟨quiet_of (by decide +kernel), by decide, by decide⟩
def stacked : Machine.Core := { liveCore with ssp := 0x4001008 }
theorem witness_call : Quiet (cox stacked) 2 ∧ at0 stacked .ssStore (pushVa stacked) = .ok 0x4001000 1 ∧ stacked.ssp % 8 = 0 :=
  ⟨quiet_of (by decide +kernel), by decide +kernel, by decide⟩
def returns : State := putBytes 0x4001008 (leBytes 8 0x8000) (cox stacked)
theorem witness_return : Quiet returns 2 ∧ at0 (Machine.core returns 2) .ssLoad (Machine.core returns 2).ssp = .ok 0x4001008 1
    ∧ Open 2 0x4001008 8 returns ∧ leNat (memBytes returns 0x4001008 8) = 0x8000 :=
  ⟨quiet_of (by decide +kernel), by decide +kernel, open_here (by decide +kernel), by decide +kernel⟩
/-- In a handler of level 2, whose save set holds zeros. -/
def inLevel2 (k : Machine.Core) : State := (cox k).wr (excF 2 2 0) 2 |>.wr (excF 2 11 8) 2
theorem witness_eret : let s := inLevel2 liveCore
    Quiet s 2 ∧ (Machine.core s 2).user = false ∧ curLevel s 2 = 2 ∧ (Machine.core s 2).sbErr = [] ∧ (Machine.core s 2).cacheOps = []
    ∧ bit (s.rd (F (.cox 2) 0x200 15 12)) 1 = false ∧ wordsOk (Machine.core s 2).saves[1] = true :=
  ⟨quiet_of (by decide +kernel), by decide +kernel⟩
/-- The canonical NOP, with LEND or not, and a move g2 to g1 with guard p3 in slot 3. -/
def nopWord : Nat := 0x00800000020000000800000020000000
def moveWord : Nat := nopWord - 2 ^ 29 + 3 * 2 ^ 25 + 1 * 2 ^ 14 + 2
theorem witness_bundles : bundleOf 0x4000 nopWord = ⟨0x4000, false, false, false, false, idleMoves⟩
    ∧ bundleOf 0x4000 (nopWord + 2 ^ 126) = ⟨0x4000, false, true, false, false, idleMoves⟩
    ∧ bundleOf 0x4000 moveWord = ⟨0x4000, false, false, false, false, idleMoves.set 3 ⟨false, 3, 1, .port 2 0, 3⟩⟩ := by decide +kernel
def delay (x : Xfer) (k : Machine.Core) : Machine.Core := { k with xfer := some x, queue := [(0x4000, .got nopWord)] }
theorem copy_stays {k : Machine.Core} (h : k.loops = []) : LoopCopyStays k := by intro l hl; simp [h] at hl
theorem quiet_unpended {s : State} {c : CoxId} (h : mayIssue (unpended s c) c = true ∧ (Machine.core (unpended s c) c).catchup = none
    ∧ (Machine.core (unpended s c) c).flight = [] ∧ (Machine.core (unpended s c) c).sb = [] ∧ (Machine.core (unpended s c) c).xfer = none
    ∧ (Machine.core (unpended s c) c).shadow = none ∧ (Machine.core (unpended s c) c).owe = 0 ∧ (Machine.core (unpended s c) c).gap = 0) : Quiet (unpended s c) c := h
theorem witness_transfer : let s := cox (delay ⟨1, 0x8000, some 0x3FF0, [], [], none⟩ liveCore)
    Quiet (unpended s 2) 2 ∧ LoopCopyStays (Machine.core s 2) ∧ (Machine.core s 2).xfer = some ⟨1, 0x8000, some 0x3FF0, [], [], none⟩
    ∧ (Machine.core s 2).queue = [((Machine.core s 2).pc, .got nopWord)] ∧ (Machine.core s 2).pc = 0x4000 :=
  ⟨quiet_unpended (by decide +kernel), copy_stays (by decide +kernel), by decide +kernel, by decide +kernel, by decide +kernel⟩
theorem witness_transfer_call : let s := cox (delay ⟨2, 0x8000, some 0x3FF0, [(pushVa stacked, 0x4001000, 8)], [], none⟩ stacked)
    Quiet (unpended s 2) 2 ∧ at0 (Machine.core s 2) .ssStore (pushVa (Machine.core s 2)) = .ok 0x4001000 1 ∧ Open 2 0x4001000 8 s :=
  ⟨quiet_unpended (by decide +kernel), by decide +kernel, open_here (by decide +kernel)⟩
theorem witness_transfer_trap : Quiet (unpended (cox (delay ⟨4, 15, none, [], [], some 104⟩ liveCore)) 2) 2 := quiet_unpended (by decide +kernel)
theorem witness_transfer_eret : let s := inLevel2 (delay ⟨5, 2, none, [], [], none⟩ liveCore)
    Quiet (unpended s 2) 2 ∧ bit (s.rd (F (.cox 2) 0x200 15 12)) 1 = false ∧ wordsOk (Machine.core s 2).saves[1] = true
    ∧ bits (wordAt (Machine.core s 2).saves[1] 3) 31 0 = 0 ∧ bits (wordAt (Machine.core s 2).saves[1] 1) 46 44 = 0 :=
  ⟨quiet_unpended (by decide +kernel), by decide +kernel⟩
theorem witness_loop_start : (0xFFFFFFFF : Nat) ≠ 0 ∧ 0xFFFFFFFF < 2 ^ 32 ∧ ({ liveCore with loops := [⟨1, 0x3000, []⟩] } : Machine.Core).loops.length < 2 := by
  decide
def four (w : Nat) : List (Nat × Fetched) := [(0x4000, .got w), (0x4010, .got 5), (0x4020, .got 6), (0x4030, .got 7)]
theorem ahead {k : Machine.Core} {w : Nat} (h : k.queue = [(k.pc, .got w), (k.pc + 16, .got 5), (k.pc + 32, .got 6), (k.pc + 48, .got 7)]) :
    FetchedAhead k w := ⟨5, 6, 7, h⟩
def looping (n : Nat) : Machine.Core := { liveCore with loops := [⟨n, 0x3FE0, []⟩, ⟨3, 0x3000, []⟩], queue := four (nopWord + 2 ^ 126) }
theorem witness_loop_turn : Quiet (unpended (cox (looping 2)) 2) 2 ∧ FetchedAhead (looping 2) (nopWord + 2 ^ 126) ∧ (looping 2).xfer = none
    ∧ (looping 2).pc ≠ 0x3FE0 ∧ Quiet (unpended (cox (looping 1)) 2) 2 :=
  ⟨quiet_unpended (by decide +kernel), ahead rfl, by decide, by decide, quiet_unpended (by decide +kernel)⟩
def tripCore (owner : Nat) (x : Trip) : State :=
  trip owner x 0 { cox (ports 16 (stamp96 soon / 2 ^ 32) (stamp96 soon % 2 ^ 32) liveCore) with tb := instant * 2 ^ 32 }
theorem witness_trip_unit : let s := tripCore 2 noEdge
    Quiet s 2 ∧ (Machine.core s 2).user = false ∧ o2 s 2 16 < 2 ^ 32 ∧ unstamp96 (o1 s 2 16 * 2 ^ 32 + o2 s 2 16) = soon ∧ tripOwner s 15 = 2
    ∧ (s.tim.trips[15]).armed = none ∧ cyclesAhead s soon 48 = true :=
  ⟨quiet_of (by decide +kernel), by decide +kernel⟩
theorem witness_trip_unit_cancel : let s := tripCore 2 (edgeAt soon)
    Quiet s 2 ∧ (s.tim.trips[15]).armed = some ⟨soon, true, 0⟩ ∧ (s.tim.trips[15]).committed = false ∧ cyclesAhead s soon 32 = true
    ∧ tripOwner (tripCore 5 noEdge) 15 ≠ 2 := ⟨quiet_of (by decide +kernel), by decide +kernel⟩
def mailCore : Machine.Core := { ports 17 77 0 liveCore with inbox := List.replicate 8 (3, 5) }
theorem witness_trip_unit_busy : (tripCore 2 (edgeAt soon)).tim.trips[(15 : Fin 16)].armed.isSome = true ∧ cyclesAhead (tripCore 2 noEdge) (instant + 31 * 65536) 48 = false
    ∧ cyclesAhead (tripCore 2 (edgeAt (instant + 65536))) (instant + 65536) 32 = false := by decide +kernel
theorem witness_mail : Quiet (cox mailCore) 2 ∧ mailCore.mailLev < 4 ∧ mailCore.inbox = (3, 5) :: List.replicate 7 (3, 5) ∧ liveCore.inbox = []
    ∧ ((0 : W64).toNat = (0 : CoxId).val) := ⟨quiet_of (by decide +kernel), by decide +kernel⟩
def submits : State := putBytes 0x1F0000 (bytesOf desc) (cox (ports 14 region 0 liveCore))
theorem witness_submit : regionAt submits (o1 submits 2 14 % 2 ^ 32) = .ok ⟨0, 0x200000, true, true⟩ ∧ 0x1F0000 % 128 = 0
    ∧ Open 4 (0 + 0x1F0000) 128 submits ∧ rowForm (leWords 4 32 (memBytes submits 0x1F0000 128)) = 0 ∧ submits.vec.pool.length < 64 :=
  ⟨region_at (by decide +kernel), by decide, open_here (by decide +kernel), by decide +kernel, by decide +kernel⟩
def queries : State :=
  let f : Flight := ⟨15, 10, 0, 3, [], 0, [], none, 0, none, 0, 0, 0, 0, true, 0x3FF0, 0, false, none⟩
  let s := cox { liveCore with flight := [f] }
  { s with stk := { s.stk with coxCmd := [(2, [⟨3, false, 0, vector, [0, 0, 0, 0, 0, 0, 0]⟩])] } }
theorem witness_query_ends : let k := Machine.core queries 2
    k.flight.length = 1 ∧ (k.flight.map (fun f => (f.unit, f.slow, f.land))) = [(15, true, k.cyc + 3)]
    ∧ ngetD queries.stk.coxCmd 2 [] = [⟨3, false, 0, vector, [0, 0, 0, 0, 0, 0, 0]⟩] ∧ checkHandle queries (hKind vector) vector = 0
    ∧ k.sb = [] := by decide +kernel

/-! ### Witnesses: the pipeline -/

def fetched (w : Nat) : Machine.Core := { liveCore with queue := four w, preds := 8 }
theorem witness_issue : Quiet (unpended (cox (fetched moveWord)) 2) 2 ∧ LoopCopyStays (fetched moveWord) ∧ (fetched moveWord).xfer = none
    ∧ FetchedAhead (fetched moveWord) moveWord ∧ (fetched moveWord).preds.testBit 3 = true :=
  ⟨quiet_unpended (by decide +kernel), copy_stays rfl, by decide, ahead rfl, by decide⟩
theorem witness_nop_issue : FetchedAhead (fetched nopWord) nopWord ∧ FetchedAhead (fetched 0) 0 ∧ Quiet (unpended (cox (fetched nopWord)) 2) 2 ∧ Quiet (unpended (cox (fetched 0)) 2) 2 :=
  ⟨ahead rfl, ahead rfl, quiet_unpended (by decide +kernel), quiet_unpended (by decide +kernel)⟩
def misses (cached : Bool) : Machine.Core := { liveCore with miss := some ⟨0x4000, 0x4000, cached⟩ }
theorem witness_bubble : Quiet (cox (misses false)) 2 ∧ (misses false).queue = [] ∧ (misses false).faulted = [] ∧ (misses false).det = false
    ∧ at0 (misses false) .fetch 0x4000 = .ok 0x4000 1 := ⟨quiet_of (by decide +kernel), by decide, by decide, by decide, by decide +kernel⟩
theorem witness_fetch : 0x4000 ∈ fetchWindow (misses false) ∧ heldAt (misses false) 0x4000 = none ∧ (misses false).on = true ∧ (cox (misses false)).mode ≠ modeBoathouse ∧ Open 2 0x4000 16 (cox (misses false))
    ∧ Open 2 (0x4000 / 64 * 64) 64 (cox (misses true)) :=
  ⟨by decide +kernel, by decide +kernel, by decide, by decide +kernel, open_here (by decide +kernel), open_here (by decide +kernel)⟩
def flying (land : Nat) (l : Option LoadOp) : Machine.Core :=
  { liveCore with cyc := 10, flight := [⟨12, 8, 6, land, [(0x200, 5)], 0, [], none, 0, l, 0, 0, 0, 0, false, 0x3FF0, 0, false, none⟩] }
def aLoad : LoadOp := ⟨6, [(0x1000, 0x1000, 8)], [5, 0, 0, 0, 0, 0, 0, 0], false, false, false, false⟩
theorem witness_lands : (flying 10 (some aLoad)).on = true ∧ aLoad.arrived = false ∧ 10 ≤ (flying 10 (some aLoad)).cyc
    ∧ (flying 11 (some aLoad)).cyc < 11 ∧ (flying 11 none).catchup = none ∧ (flying 11 none).miss = none ∧ (flying 11 none).exc = none ∧ (flying 11 none).gap = 0 ∧ (flying 11 none).sb = [] := by decide +kernel
/-- The flight of an atomic operation. -/
theorem witness_lands_slow : let k : Machine.Core := { flying 10 none with flight := (flying 10 none).flight.map (fun (f : Flight) => { f with slow := true }) }
    k.flight.map (fun f => (f.unit, f.slow, f.load.isNone, f.todo.isNone, f.exc.isNone)) = [(12, true, true, true, true)] ∧ 10 ≤ k.cyc := by decide +kernel
def storing (cached : Bool) : Machine.Core := { paged with sb := [⟨0x4001000 / 64, [(8, 1), (9, 2)], cached, 2, 0⟩] }
theorem witness_drain_store_due : anyLate (storing true) = false ∧ ({ storing true with det := true, cyc := 6 } : Machine.Core).sb.map (fun e => decide (e.at_ + 4 ≤ 6)) = [true] := by decide
theorem witness_drain_store : runsOf [(8, (1 : Byte)), (9, 2)] = [(8, [1, 2])] ∧ Open 2 (0x4001000 / 64 * 64 + 8) 2 (cox (storing false))
    ∧ (nget (0x4001000 / 64) (storing true).dcache).map (·.bad) = some [] ∧ (storing true).det = false :=
  ⟨by decide +kernel, open_here (by decide +kernel), by decide +kernel, by decide⟩
def storeError : Machine.Core := { liveCore with sbErr := [⟨0x1000, 0xB, 3, 1⟩] }
theorem witness_store_error : storeError.sbErr = [⟨0x1000, 0xB, 3, 1⟩] ∧ (cox storeError).rd (F (.cox 2) 0x110 31 31) = 0
    ∧ ((cox storeError).wr (F (.cox 2) 0x110 31 31) 1).rd (F (.cox 2) 0x110 31 31) = 1 := by decide +kernel
/-- Tables at 10000h, 11000h, 12000h and 13000h; address 4000h to page 4001000h. -/
def tables (e0 e1 e2 e3 : Nat) (k : Machine.Core) : State :=
  putBytes 0x10000 (leBytes 8 e0) (putBytes 0x11000 (leBytes 8 e1) (putBytes 0x12000 (leBytes 8 e2) (putBytes 0x13020 (leBytes 8 e3)
    ((cox k).setReg (at_ (.cox 2) 0x300) 1))))
def walker (kind : Nat) : Machine.Core := { liveCore with xlate := 0x10009, walks := [⟨0x4000, kind, 0x10000⟩] }
def leafEntry : Nat := 2 ^ 52 + 0x4001000 + 12 * 2 ^ 6 + 3
def mapped : State := tables 0x11001 0x12001 0x13001 leafEntry (walker 1)
theorem witness_walk : (Machine.core mapped 2).walks = [⟨0x4000, 1, 0x10000⟩] ∧ (Machine.core mapped 2).staleWalk = false
    ∧ entryAddr 0x10000 0x4000 39 = 0x10000
    ∧ entryAddr (bits 0x11001 43 12 * 4096) 0x4000 30 = 0x11000 ∧ entryAddr (bits 0x12001 43 12 * 4096) 0x4000 21 = 0x12000
    ∧ entryAddr (bits 0x13001 43 12 * 4096) 0x4000 12 = 0x13020 ∧ (∀ a ∈ [0x10000, 0x11000, 0x12000, 0x13020], tableCapable 2 mapped a = true)
    ∧ leNat (memBytes mapped 0x10000 8) = 0x11001 ∧ leNat (memBytes mapped 0x11000 8) = 0x12001
    ∧ leNat (memBytes mapped 0x12000 8) = 0x13001 ∧ leNat (memBytes mapped 0x13020 8) = leafEntry
    ∧ entryBad 0 39 0x11001 = false ∧ entryBad 1 30 0x12001 = false ∧ entryBad 2 21 0x13001 = false ∧ entryBad 3 12 leafEntry = false := by
  decide +kernel
theorem witness_walk_open : Open 2 0x10000 8 mapped ∧ Open 2 0x11000 8 mapped ∧ Open 2 0x12000 8 mapped ∧ Open 2 0x13020 8 mapped :=
  ⟨open_here (by decide +kernel), open_here (by decide +kernel), open_here (by decide +kernel), open_here (by decide +kernel)⟩
theorem witness_walk_ends : 0x10000 = rootOf (fetchState (walker 0)).1 ∧ 0x4000 ∈ fetchWindow (walker 0)
    ∧ heldAt (walker 0) 0x4000 = none ∧ bit 0 0 = false ∧ bit 5 0 = true ∧ entryBad 0 39 5 = true
    ∧ tableCapable 2 (cox { walker 0 with xlate := 2 ^ 40 + 9, walks := [⟨0x4000, 0, 2 ^ 40⟩] }) (2 ^ 40) = false := by decide +kernel
def cacheWork (op : Nat) : Machine.Core := { paged with cacheOps := [(op, lineOf 0x4001000)] }
theorem witness_cache_clean : (cacheWork 4).cacheOps = [(4, lineOf 0x4001000)] ∧ (cacheWork 4).dcache = [(lineOf 0x4001000, ⟨List.replicate 64 0x85, true, []⟩)]
    ∧ Open 2 (lineOf 0x4001000 * 64) 64 (cox (cacheWork 4)) := ⟨by decide, by decide, open_here (by decide +kernel)⟩

/-! ### Witnesses: exceptions and interrupts -/

def mailed (lev : Nat) : State := cox { liveCore with mailLev := lev, inbox := [(0, 1)] }
theorem witness_interrupt : let s := mailed 2
    (Machine.core s 2).on = true ∧ s.mode = modeRace ∧ (Machine.core s 2).stuck = false ∧ (Machine.core s 2).exc = none ∧ (Machine.core s 2).flight = []
    ∧ (Machine.core s 2).walks = [] ∧ (Machine.core s 2).catchup = none ∧ curLevel s 2 = 0 ∧ nmiPend s 2 = false ∧ irqLevel s 2 = 2
    ∧ domState s 2 = 0 ∧ domState s 6 = 0 ∧ crewPending (Machine.core s 2) = false
    ∧ (Machine.core s 2).maskLev = 0 := by decide +kernel
theorem witness_nmi : let s := ((cox liveCore).setReg (faultReg .vecSched 0) 1).setReg (faultReg .vecSched 0x14) 4 |>.setReg (faultReg .vecSched 0x20) 2
    nmiPend s 2 = true ∧ curLevel s 2 < 4 ∧ domState s 2 = 0 ∧ domState s 6 = 0 := by decide +kernel
theorem witness_synchronous : let e : Exc := ⟨0x12, 0x5000, false, 12, 1, false, false, false, 0, 0, 0, 0, 0⟩
    let s := cox { liveCore with exc := some e }
    (Machine.core s 2).on = true ∧ s.mode = modeRace ∧ (Machine.core s 2).stuck = false ∧ crewPending (Machine.core s 2) = false ∧ (Machine.core s 2).exc = some e ∧ (Machine.core s 2).flight = []
    ∧ (Machine.core s 2).walks = [] ∧ curLevel s 2 = 0 ∧ curLevel (s.wr (excF 2 2 0) 3) 2 = 3 ∧ curLevel (s.wr (excF 2 2 0) 4) 2 = 4
    ∧ Blk.cox 2 ∉ s.flt.underTest ∧ domState s 2 = 0 ∧ domState s 6 = 0 := by decide +kernel
theorem witness_user : Quiet (cox { liveCore with user := true }) 2 ∧ ({ liveCore with user := true } : Machine.Core).user = true :=
  ⟨quiet_of (by decide +kernel), by decide⟩

/-! ### Results that the spec gives -/

/-- 04, the example of R123: bank 0ADh, and 1B7h with the hash of group 18. -/
theorem test_bank_of : bankOf State.reset 0x01234568 = (0x0AD, 0x91A)
    ∧ (bankOf (State.reset.setReg (at_ .crsCtl 0) (2 ^ 18)) 0x01234568).1 = 0x1B7 := by decide +kernel
/-- 08, the example of save set 2: LD64 with E 4 and LD32U with E 2. -/
def recordedLoad (op e addr : Nat) : Nat :=
  loadEntry { liveCore with cyc := 10 } ⟨12, 8, 10 - e, 20, [], 0, [], none, 0, some ⟨op, [(addr, addr, 8)], [], false, false, false, false⟩, 0, 0, 0, 0,
    false, 0, 0, false, none⟩
theorem test_recorded_loads : recordedLoad 6 4 0x04150238 = 0xB200000004150238 ∧ recordedLoad 4 2 0x04150400 = 0xA100000004150400 := by
  decide +kernel
/-- 10, the energy counter: DADD keeps the low 15 digits with OVERFLOW. -/
theorem test_dadd : (Claims.decimal (.dadd 0 0x123450)).map (fun x => x.2.2.2 (decVal 0x9999999999999990) (decVal 0x123450)) =
    some (0x123440, 1) := by decide +kernel
def decimalCore : State := cox (ports 10 0x9999999999999990 0 liveCore)
theorem test_dadd_runs : (match exec (.dadd 2 0x123450) decimalCore with
    | .next t => (Machine.core t 2).flight.map (·.writes)
    | _ => []) = [[(0x1C0, 0x123440), (0x1C2, 1)]] := by decide +kernel
/-- 11, slot 7: finish_0 carries into the seconds. -/
theorem test_slot_times : stamp96 (unstamp96 (1750000000 * 2 ^ 48 + 999990000 * 2 ^ 16) + 0x61A80000) = 1750000001 * 2 ^ 48 + 15000 * 2 ^ 16
    ∧ stamp96 (unstamp96 (1750000000 * 2 ^ 48 + 999990000 * 2 ^ 16) + 0x186A00000) = 1750000001 * 2 ^ 48 + 90000 * 2 ^ 16 := by decide +kernel
/-- 09, the 64 KiB block: the walk of a load from 1004038A40h fills entry 0 with the words of the example. -/
def block64 : State :=
  putBytes 0x4000000 (leBytes 8 0x4001001) (putBytes 0x4001200 (leBytes 8 0x4002001) (putBytes 0x4002100 (leBytes 8 0x4003001)
    (putBytes 0x40031C0 (leBytes 8 0x0094000004030403)
      ((cox { liveCore with xlate := 0x4000009, walks := [⟨0x1004038A40, 1, 0x4000000⟩] }).setReg (at_ (.cox 2) 0x300) 2))))
theorem test_walk : (match exec (.walkComplete 2) block64 with
    | .next t => ((Machine.core t 2).tlb, translate (Machine.core t 2) 0x4000009 false .load 0x1004038A40)
    | _ => ([], .miss)) = ([(0, ⟨0x8010001004030000, 0x0094000004030000, false⟩)], .ok 0x4038A40 1) := by decide +kernel
/-- CRC-32C of "123456789", and of SHA-384 the digest of "abc" (FIPS 180-4). -/
theorem test_crc32c : crc32c 0 [0x31, 0x32, 0x33, 0x34, 0x35, 0x36, 0x37, 0x38, 0x39] = 0xE3069283 := by decide +kernel
theorem test_sha384 : beNat (sha384 [0x61, 0x62, 0x63]) =
    0xcb00753f45a35e8bb5a03d699ac65007272c32ab0eded1631a8b605a43ff5bed8086072ba1e7cc2358baeca134c825a7 := by decide +kernel
/-- 06, R202: the canonical NOP. -/
theorem test_nop : bundleOf 0 nopWord = ⟨0, false, false, false, false, idleMoves⟩ := by decide +kernel
/-- 10: 1 + 2 = 3, and 1 / 3 rounds to nearest with NX. -/
theorem test_floats : (fpu0Op 8 0x3FF0000000000000 0 0x4000000000000000 0).q = 0x4008000000000000
    ∧ (fpu1Op 8 0x3FF0000000000000 0x4008000000000000 0).q = 0x3FD5555555555555 := by decide +kernel
/-- The block and its queue: one step takes the front command, and the block idles on an empty queue. -/
theorem test_step : step { State.reset with pending := [.irqInput 3 true] } = exec (.irqInput 3 true) State.reset
    ∧ step State.reset = .next State.reset := by constructor <;> rfl
end Sys2Proof.Tests
end

section
/-!
PROOFS. The ownership registers of Crew memory (04, R135 to R140): what stays the same across a register write and across
CONFIG_ERR, the branches of a write of CRW_CTL_OWNn, and O9.
-/
namespace Sys2Proof.Machine

/-! ### What stays the same -/

theorem Keeps.trans {as : List Nat} {s t u : State} (h : Keeps as s t) (g : Keeps as t u) : Keeps as s u := by
  obtain ⟨hmem, hregs, hcox⟩ := h
  obtain ⟨gmem, gregs, gcox⟩ := g
  exact ⟨fun a => (gmem a).trans (hmem a), fun a ha => (gregs a ha).trans (hregs a ha), gcox.trans hcox⟩

theorem Keeps.mono {as bs : List Nat} {s t : State} (h : Keeps as s t) (sub : as ⊆ bs) : Keeps bs s t := by
  obtain ⟨hmem, hregs, hcox⟩ := h
  exact ⟨hmem, fun a ha => hregs a (fun hin => ha (sub hin)), hcox⟩

theorem keeps_setReg (a v : Nat) (s : State) : Keeps [a] s (s.setReg a v) :=
  ⟨fun _ => memByte_congr rfl rfl _, fun _ hb => reg_setReg_other s (List.ne_of_not_mem_cons hb) v, rfl⟩

/-- Bookkeeping of the memories that is no register and no stored byte. -/
theorem keeps_memx (as : List Nat) (s : State) (x : MemState) : Keeps as s { s with memx := x } :=
  ⟨fun _ => rfl, fun _ _ => rfl, rfl⟩

/-! ### CONFIG_ERR (R8) -/

theorem errSet_configErr (b : Blk) (off : Nat) (s : State) : ErrSet b (configErr b off s) := by
  simp only [ErrSet, errReg, configErr]
  split
  · assumption
  · have small : off % 0x10000 < 2 ^ 31 := by omega
    rw [reg_setReg_self, Nat.testBit_mod_two_pow, Nat.testBit_two_pow_add_eq, Nat.testBit_lt_two_pow small]
    rfl

theorem keeps_configErr (b : Blk) (off : Nat) (s : State) : Keeps [errReg b] s (configErr b off s) := by
  simp only [configErr]
  split
  · exact ⟨fun _ => rfl, fun _ _ => rfl, rfl⟩
  · exact keeps_setReg _ _ s

@[simp] theorem configErr_memx (b : Blk) (off : Nat) (s : State) : (configErr b off s).memx = s.memx := by
  simp only [configErr]
  split <;> rfl

theorem rd_configErr (b : Blk) (off : Nat) (s : State) (f : Fld) (h : f.addr ≠ errReg b) :
    (configErr b off s).rd f = s.rd f := by
  obtain ⟨-, hregs, -⟩ := keeps_configErr b off s
  simp only [State.rd]
  rw [hregs f.addr (by simpa using h)]

/-! ### The fields of CRW_CTL_OWNn -/

@[simp] theorem ownFld_addr (bank hi lo : Nat) : (ownFld bank hi lo).addr = at_ .crwCtl (4 * bank) := rfl

/-- The ownership registers of the 64 banks lie below the fault register set of their block. -/
theorem own_addr_ne_errReg {bank : Nat} (h : bank < 64) : at_ .crwCtl (4 * bank) ≠ errReg .crwCtl := by
  simp only [at_, errReg, faultReg, faultHome, faultOff]
  omega

theorem rd_own_configErr {bank : Nat} (h : bank < 64) (off hi lo : Nat) (s : State) :
    (configErr .crwCtl off s).rd (ownFld bank hi lo) = s.rd (ownFld bank hi lo) :=
  rd_configErr _ _ _ _ (own_addr_ne_errReg h)

theorem rd_own_wr_apart (bank v : Nat) {hi lo h l : Nat} (s : State) (in64 : h < 64) (order : lo ≤ hi)
    (apart : h < lo ∨ hi < l) : (s.wr (ownFld bank hi lo) v).rd (ownFld bank h l) = s.rd (ownFld bank h l) :=
  rd_wr_apart s (ownFld bank hi lo) (ownFld bank h l) v rfl in64 (by simp only [ownFld, F]; omega)

/-! ### QUIET takes effect in every case (R140) -/

/-- The state once QUIET has its written value, which every branch of the write goes on from. -/
def quietWritten (bank v : Nat) (s : State) : State := s.wr (ownFld bank 4 4) (bits v 4 4)

@[simp] theorem quietWritten_memx (bank v : Nat) (s : State) : (quietWritten bank v s).memx = s.memx := rfl

@[simp] theorem quietWritten_quiet (bank v : Nat) (s : State) :
    (quietWritten bank v s).rd (ownFld bank 4 4) = bits v 4 4 :=
  (rd_wr_self s (ownFld bank 4 4) _ (by simp [ownFld, F])).trans (Nat.mod_eq_of_lt (bits_lt v 4 4))

@[simp] theorem quietWritten_owner (bank v : Nat) (s : State) :
    (quietWritten bank v s).rd (ownFld bank 3 0) = s.rd (ownFld bank 3 0) :=
  rd_own_wr_apart bank _ s (by decide) (by decide) (by decide)

@[simp] theorem quietWritten_pending (bank v : Nat) (s : State) :
    (quietWritten bank v s).rd (ownFld bank 5 5) = s.rd (ownFld bank 5 5) :=
  rd_own_wr_apart bank _ s (by decide) (by decide) (by decide)

theorem keeps_quietWritten (bank v : Nat) (s : State) : Keeps [at_ .crwCtl (4 * bank)] s (quietWritten bank v s) :=
  keeps_setReg _ _ s

/-! ### A handover begins (R138) -/

/-- The state with PENDING set and the next owner noted. -/
def handoverBegun (bank o : Nat) (s : State) : State :=
  { s.wr (ownFld bank 5 5) 1 with memx := { s.memx with ownNext := nput bank o s.memx.ownNext } }

/-- OWNER and QUIET read as before. -/
theorem handoverBegun_low (bank o : Nat) {h l : Nat} (s : State) (low : h < 5) :
    (handoverBegun bank o s).rd (ownFld bank h l) = s.rd (ownFld bank h l) :=
  (rd_congr (s := handoverBegun bank o s) (t := s.wr (ownFld bank 5 5) 1) rfl _).trans
    (rd_own_wr_apart bank 1 s (by omega) (by decide) (.inl low))

theorem keeps_handoverBegun (bank o : Nat) (s : State) : Keeps [at_ .crwCtl (4 * bank)] s (handoverBegun bank o s) :=
  (keeps_setReg _ _ s).trans (keeps_memx _ _ _)

/-! ### The branches of a write of CRW_CTL_OWNn (R140) -/

/-- A handover in progress turns the write of OWNER away. -/
theorem ownerWrite_pending {bank : Nat} (v : Nat) {s : State} (pending : s.rd (ownFld bank 5 5) = 1) :
    ownerWrite bank v s = configErr .crwCtl (4 * bank) (quietWritten bank v s) := by
  have pending' := (quietWritten_pending bank v s).trans pending
  simp only [quietWritten] at pending' ⊢
  simp only [ownerWrite, pending', if_true]

/-- The current owner starts no drain. -/
theorem ownerWrite_current {bank v : Nat} {s : State} (idle : s.rd (ownFld bank 5 5) = 0)
    (same : bits v 3 0 = s.rd (ownFld bank 3 0)) (code : bits v 3 0 ≤ 8) :
    ownerWrite bank v s = quietWritten bank v s := by
  have idle' := (quietWritten_pending bank v s).trans idle
  have same' := same.trans (quietWritten_owner bank v s).symm
  simp only [quietWritten] at idle' same' ⊢
  simp [ownerWrite, idle', ← same', Nat.not_lt.mpr code]

/-- All that a write can do beside QUIET: be turned away, nothing, or begin a handover. -/
theorem ownerWrite_cases (bank v : Nat) (s : State) :
    ownerWrite bank v s = configErr .crwCtl (4 * bank) (quietWritten bank v s)
    ∨ ownerWrite bank v s = quietWritten bank v s
    ∨ ownerWrite bank v s = handoverBegun bank (bits v 3 0) (quietWritten bank v s) := by
  simp only [ownerWrite]
  split
  · exact .inl rfl
  · split
    · exact .inl rfl
    · split
      · exact .inr (.inl rfl)
      · exact .inr (.inr rfl)

theorem ownerWrite_quiet {bank : Nat} (h : bank < 64) (v : Nat) (s : State) :
    (ownerWrite bank v s).rd (ownFld bank 4 4) = bits v 4 4 := by
  obtain turned | same | begun := ownerWrite_cases bank v s
  · rw [turned, rd_own_configErr h, quietWritten_quiet]
  · rw [same, quietWritten_quiet]
  · rw [begun, handoverBegun_low _ _ _ (by decide), quietWritten_quiet]

/-- No write of OWNER changes it at once. -/
theorem ownerWrite_owner {bank : Nat} (h : bank < 64) (v : Nat) (s : State) :
    (ownerWrite bank v s).rd (ownFld bank 3 0) = s.rd (ownFld bank 3 0) := by
  obtain turned | same | begun := ownerWrite_cases bank v s
  · rw [turned, rd_own_configErr h, quietWritten_owner]
  · rw [same, quietWritten_owner]
  · rw [begun, handoverBegun_low _ _ _ (by decide), quietWritten_owner]

theorem keeps_ownerWrite (bank v : Nat) (s : State) :
    Keeps [at_ .crwCtl (4 * bank), errReg .crwCtl] s (ownerWrite bank v s) := by
  have quiet := (keeps_quietWritten bank v s).mono (bs := [at_ .crwCtl (4 * bank), errReg .crwCtl]) (by simp)
  obtain turned | same | begun := ownerWrite_cases bank v s
  · rw [turned]
    exact quiet.trans ((keeps_configErr _ _ _).mono (by simp))
  · rwa [same]
  · rw [begun]
    exact quiet.trans ((keeps_handoverBegun _ _ _).mono (by simp))

theorem exec_ownerWrite_open (m : Master) (bank : BitVec 6) (v : W32) {s : State} (h : blkOpen s .crwCtl = true) :
    exec (.ownerWrite m bank v) s = .next (ownerWrite bank.toNat v.toNat s) :=
  congrArg Host.Outcome.next (reaches_open h m _ _ _)

/-- Settles O9: QUIET, OWNER and the frame hold in every branch of the write; PENDING and the current owner each select one. -/
theorem ownerWriteKeepsOrder : Obligations.OwnerWriteKeepsOrder := by
  intro m bank v s n isOpen
  have inRange : n < 64 := bank.isLt
  refine ⟨_, exec_ownerWrite_open m bank v isOpen, ownerWrite_quiet inRange _ s, ownerWrite_owner inRange _ s,
    fun pending => ?whilePending, fun idle same code => ?currentOwner, keeps_ownerWrite n _ s⟩
  case whilePending =>
    rw [ownerWrite_pending _ pending]
    refine ⟨errSet_configErr _ _ _, ?_, ?_⟩
    · rw [configErr_memx, quietWritten_memx]
    · rw [rd_own_configErr inRange, quietWritten_pending, pending]
  case currentOwner =>
    rw [ownerWrite_current idle same code]
    exact ⟨rfl, (quietWritten_pending _ _ s).trans idle, keeps_quietWritten _ _ s⟩

end Sys2Proof.Machine
end

section
/-!
PROOFS. Records offered to a stale ring handle (05, R525): a wrapping count of a 32-bit register, what CONFIG_ERR of a block
leaves unchanged, and O15.
-/
namespace Sys2Proof.Machine

/-! ### A wrapping count -/

theorem rd_count_self (s : State) (f : Fld) (d : Nat) (in64 : f.hi < 64) :
    (s.count f d).rd f = (s.rd f + d) % 2 ^ (f.hi + 1 - f.lo) :=
  rd_wr_self s f _ in64

theorem keeps_count (s : State) (f : Fld) (d : Nat) : Keeps [f.addr] s (s.count f d) :=
  keeps_setReg _ _ s

/-- A 32-bit counter wraps at 2^32, and no other register sees the count. -/
theorem count_word (b : Blk) (off d : Nat) (s : State) :
    (s.count (F32 b off) d).rd (F32 b off) = (s.rd (F32 b off) + d) % 2 ^ 32
    ∧ Keeps [(F32 b off).addr] s (s.count (F32 b off) d) :=
  ⟨rd_count_self s (F32 b off) d (by simp [F32, F]), keeps_count s _ d⟩

/-! ### The refusal and the rings -/

@[simp] theorem configErr_stk (b : Blk) (off : Nat) (s : State) : (configErr b off s).stk = s.stk := by
  simp only [configErr]
  split <;> rfl

/-- CONFIG_ERR of a block marks that block alone. -/
theorem configErr_refuses (b : Blk) (off : Nat) (s : State) :
    ErrSet b (configErr b off s) ∧ Keeps [errReg b] s (configErr b off s) :=
  ⟨errSet_configErr b off s, keeps_configErr b off s⟩

/-! ### A stale offer (R525) -/

/-- No ring, table entry or waiting record changes: a stale offer is counted or refused outside the Stakeboat. -/
@[simp] theorem staleOffer_stk (p : Producer) (s : State) : (staleOffer p s).stk = s.stk := by
  cases p with
  | ingest | port | photo => rfl
  | vector | mover | timer | vault | host => exact configErr_stk _ _ s

theorem offerRecord_stale {o : RecordOffer} {s : State} (stale : checkHandle s kRing o.handle.toNat ≠ 0) (stamp : Nat) :
    offerRecord o stamp s = staleOffer o.producer s :=
  if_pos stale

@[simp] theorem ueHandle_false (h : Nat) (s : State) : ueHandle false h s = s :=
  if_neg (by simp)

theorem exec_ringRecordOffer_stale {o : RecordOffer} {s : State} (stale : checkHandle s kRing o.handle.toNat ≠ 0) :
    exec (.ringRecordOffer o false) s = .next (staleOffer o.producer s) := by
  change execRingRecordOffer o false s = _
  rw [execRingRecordOffer, ueHandle_false, offerRecord_stale stale]

/-- Settles O15: the offer goes no further than the check of its handle, and what follows depends on the producer alone. -/
theorem staleRingHandleWritesNothing : Obligations.StaleRingHandleWritesNothing := by
  intro o s stale counted refused
  refine ⟨staleOffer o.producer s, exec_ringRecordOffer_stale stale, staleOffer_stk o.producer s, ?_⟩
  cases o.producer with
  | ingest | port | photo => exact count_word _ _ 1 s
  | vector | mover | timer | vault | host => exact configErr_refuses _ _ s

end Sys2Proof.Machine
end

section
/-!
PROOFS. The canonical NOP and the all-zero bundle (06, R202): the two bundles, a quiet core that has its bundles fetched, a group that
writes g0 at most, with what it holds, and O55.
-/
namespace Sys2Proof.Machine

/-! ### The two bundles (R202) -/

/-- A bundle of header 0 that moves g0 to g0 four times, with guard never or always. -/
def g0Bundle (va : Nat) (never : Bool) : Bun :=
  ⟨va, false, false, false, false, [0, 1, 2, 3].map (fun i => ⟨never, 0, 0, .port 0 0, i⟩)⟩

/-- The address of a bundle has no part in its decoding. -/
theorem bundleOf_va (va w : Nat) : bundleOf va w = { bundleOf 0 w with va := va } := by
  simp only [bundleOf]
  split <;> rfl

theorem bundleOf_nop (va : Nat) : bundleOf va 0x00800000020000000800000020000000 = g0Bundle va true := by
  rw [bundleOf_va, show bundleOf 0 0x00800000020000000800000020000000 = g0Bundle 0 true by decide]
  rfl

theorem bundleOf_zero (va : Nat) : bundleOf va 0 = g0Bundle va false := by
  rw [bundleOf_va, show bundleOf 0 0 = g0Bundle 0 false by decide]
  rfl

/-! ### A quiet core with its bundles fetched (R236, R240) -/

/-- The bundles fetched have no part in whether a core issues. -/
theorem quiet_of_unpended {s : State} {c : CoxId} (h : Quiet (unpended s c) c) (noXfer : (core s c).xfer = none) : Quiet s c := by
  obtain ⟨issues, catchup, flight, sb, -, shadow, owe, gap⟩ := h
  simp only [mayIssue, unpended, core_setCore_self] at issues catchup flight sb shadow owe gap
  exact ⟨issues, catchup, flight, sb, noXfer, shadow, owe, gap⟩

theorem xfer_of_quiet {s : State} {c : CoxId} (h : Quiet s c) : (core s c).xfer = none := by
  obtain ⟨-, -, -, -, noXfer, -, -, -⟩ := h
  exact noXfer

theorem coreCycle_of_quiet {s : State} {c : CoxId} (h : Quiet s c) (ahead fetch : State → State) : coreCycle c ahead fetch s = fetch s := by
  obtain ⟨issues, catchup, flight, -, -, -, -, gap⟩ := h
  have notIdle : idles s c = false := by
    have running := issues
    simp only [mayIssue, Bool.and_eq_true, Bool.not_eq_true'] at running
    obtain ⟨⟨⟨-, notWaiting⟩, -⟩, -⟩ := running
    simp [idles, notWaiting]
  simp [coreCycle, notIdle, issues, catchup, heldUp, flight, gap]

theorem fetchWindow_of_quiet {s : State} {c : CoxId} (h : Quiet s c) :
    fetchWindow (core s c) = (List.range 4).map (fun i => (core s c).pc + 16 * i) := by
  obtain ⟨-, -, -, -, noXfer, noShadow, -, -⟩ := h
  simp [fetchWindow, noXfer, noShadow]

theorem heldAt_pc_of_ahead {k : Core} {w : Nat} (h : FetchedAhead k w) : heldAt k k.pc = some (.got w) := by
  obtain ⟨x, y, z, queue⟩ := h
  simp [heldAt, queue]

/-- A queue that holds the four bundles of the window stays as it is. -/
theorem fetchAhead_of_ahead {s : State} {c : CoxId} {w : Nat} (h : Quiet s c) (ahead : FetchedAhead (core s c) w) : fetchAhead c s = s := by
  obtain ⟨x, y, z, queue⟩ := ahead
  have window := fetchWindow_of_quiet h
  have wanted : (core s c).queue.filter (fun q => (fetchWindow (core s c) ++ copyWants (core s c)).contains q.1) = (core s c).queue := by
    simp [window, queue, List.range, List.range.loop]
  have kept : onCore c (fun k => { k with queue := k.queue.filter (fun q => (fetchWindow k ++ copyWants k).contains q.1) }) s = s :=
    onCore_id (by rw [wanted])
  have full : blockWanted (core s c) = [] := by
    simp [blockWanted, window, heldAt, queue, List.range, List.range.loop]
  simp only [fetchAhead, kept, full]

/-- A bundle with no pair issues alone. -/
theorem issueFetched_of_ahead {s : State} {c : CoxId} {w : Nat} (h : Quiet s c) (ahead : FetchedAhead (core s c) w)
    (single : (bundleOf (core s c).pc w).pair = false) :
    issueFetched c s = issueGroup c [(bundleOf (core s c).pc w, false)] [((core s c).pc, w)] s := by
  simp [issueFetched, fetchAhead_of_ahead h ahead, heldAt_pc_of_ahead ahead, single]

/-! ### Moves that leave g0 as it is -/

/-- The move writes g0 with what it holds. -/
structure KeepsG0 (k : Core) (i : Item) : Prop where
  dest : i.dest = 0
  kept : i.v = k.g[0].toNat

theorem keepsG0_groupItems (s : State) (c : CoxId) (va : Nat) (never : Bool) :
    ∀ i ∈ groupItems s c [(g0Bundle va never, false)], KeepsG0 (core s c) i := by
  intro i hi
  simp only [groupItems, groupMoves, g0Bundle, List.flatMap_singleton, List.map_map, List.mem_map, List.mem_filter] at hi
  obtain ⟨m, ⟨⟨n, -, rfl⟩, -⟩, rfl⟩ := hi
  exact ⟨rfl, by simp [mvValue, readPort]⟩

theorem lastOnly_subset (items : List Item) : lastOnly items ⊆ items := by
  induction items with
  | nil => exact List.Subset.refl _
  | cons i l ih =>
    simp only [lastOnly]
    split
    · exact List.subset_cons_of_subset i ih
    · exact List.cons_subset_cons i ih

theorem keepsG0_lastOnly {k : Core} {items : List Item} (keep : ∀ i ∈ items, KeepsG0 k i) : ∀ i ∈ lastOnly items, KeepsG0 k i :=
  fun i hi => keep i (lastOnly_subset items hi)

theorem operandWrite_g0 {k : Core} {i : Item} (h : KeepsG0 k i) (c : CoxId) (s : State) : operandWrite c i s = s := by
  simp [operandWrite, h.dest]

theorem itemBad_g0 {k : Core} {i : Item} (h : KeepsG0 k i) (s : State) (c : CoxId) (g : Group) : itemBad s c g i = false := by
  simp [itemBad, h.dest, isStatePort, isTrigger]

theorem regWriteG_g0 {k : Core} {i : Item} (h : KeepsG0 k i) : regWriteG i.dest i.v k = k := by
  simp [regWriteG, h.dest, h.kept]

theorem regWriteP_g0 {k : Core} {i : Item} (h : KeepsG0 k i) (k' : Core) : regWriteP i.dest i.v k' = k' := by
  simp [regWriteP, h.dest]

/-- Steps over a list that each change nothing change nothing together. -/
theorem foldl_of_fixed {α β : Type} {f : β → α → β} {b : β} {l : List α} (h : ∀ a ∈ l, f b a = b) : l.foldl f b = b :=
  List.foldlRecOn l f (motive := (· = b)) rfl (fun _ same a ha => same ▸ h a ha)

/-- g0 is no operand port. -/
theorem operandWrites_g0 {k : Core} {items : List Item} (keep : ∀ i ∈ items, KeepsG0 k i) (c : CoxId) (s : State) :
    forAll (lastOnly items) (operandWrite c) s = s :=
  foldl_of_fixed (fun i hi => operandWrite_g0 (keepsG0_lastOnly keep i hi) c s)

/-! ### The group issues (R203, R204, R213) -/

theorem bundleFault_g0 (k : Core) (va : Nat) (never : Bool) : bundleFault k 0 [(g0Bundle va never, false)] = none := by
  simp [bundleFault, headerBad, moveBad, g0Bundle, Bun.rudder, isRudder, pLoopStart]

/-- g0 may be read and written at any privilege: no move of the bundle names another port. -/
theorem firstPort_g0 (cause va : Nat) (never : Bool) {bad : GMove → Nat × PortRight → Bool}
    (allowed : ∀ m : GMove, m.2.2.dest = 0 → bad m (0, some false) = false) :
    firstPort cause [(g0Bundle va never, false)] bad = none := by
  simp [firstPort, groupMoves, movePorts, writeRight, readRight, g0Bundle, allowed]

/-- The group raises no exception of R213. -/
theorem groupFault_g0 {s : State} {c : CoxId} {items : List Item} (noXfer : (core s c).xfer = none)
    (keep : ∀ i ∈ items, KeepsG0 (core s c) i) (va : Nat) (never : Bool) :
    groupFault s s c [(g0Bundle va never, false)] items = none := by
  have noIllegalPort : firstPort 9 [(g0Bundle va never, false)] (fun _ p => p.2.isNone) = none :=
    firstPort_g0 _ _ _ (fun _ _ => rfl)
  have noPrivilege : firstPort 0xA [(g0Bundle va never, false)]
      (fun m p => ((core s c).user && p.2 == some true) || (p.1 == m.2.2.dest && cacheOpPriv (core s c) items m)) = none :=
    firstPort_g0 _ _ _ (fun m g0 => by simp [cacheOpPriv, g0])
  have noIllegalOp : items.find? (itemBad s c [(g0Bundle va never, false)]) = none :=
    List.find?_eq_none.mpr (fun i hi => Bool.eq_false_iff.mp (itemBad_g0 (keep i hi) s c _))
  simp only [groupFault, noXfer, Option.map_none, Option.getD_none, bundleFault_g0, noIllegalPort, noPrivilege, noIllegalOp]

theorem groupTrigs_g0 {k : Core} {items : List Item} (keep : ∀ i ∈ items, KeepsG0 k i) : groupTrigs items = [] := by
  have noTrigger : items.filter (fun i => isTrigger i.dest) = [] :=
    List.filter_eq_nil_iff.mpr (fun i hi => by simp [(keep i hi).dest, isTrigger])
  simp [groupTrigs, noTrigger, lastPerUnit, sortKey]

/-- A group with no trigger, and no transfer before it, needs nothing of memory. -/
theorem needCheck_no_trigger {s : State} {c : CoxId} (noXfer : (core s c).xfer = none) (g : Group) :
    needCheck c g [] s s = (s, .nothing, ⟨pushParts (core s c), []⟩) := by
  simp [needCheck, shadowNeed, eretLevel, noXfer, sortKey]

theorem issueChecked_g0 {s : State} {c : CoxId} {items : List Item} (h : Quiet s c) (keep : ∀ i ∈ items, KeepsG0 (core s c) i)
    (g : Group) (raw : List (Nat × Nat)) :
    issueChecked c g raw items s s = issueNow c g raw items [] ⟨pushParts (core s c), []⟩ s := by
  obtain ⟨-, -, -, noStore, noXfer, -, -, -⟩ := h
  simp [issueChecked, groupTrigs_g0 (keepsG0_lastOnly keep), needCheck_no_trigger noXfer, sbAfter, noStore, operandWrites_g0 keep]

/-- The group waits for nothing and none of its moves is illegal, so it issues. -/
theorem issueGroup_g0 {s : State} {c : CoxId} (h : Quiet s c) (va : Nat) (never : Bool) (raw : List (Nat × Nat)) :
    issueGroup c [(g0Bundle va never, false)] raw s
      = issueNow c [(g0Bundle va never, false)] raw (groupItems s c [(g0Bundle va never, false)]) [] ⟨pushParts (core s c), []⟩ s := by
  have keep := keepsG0_groupItems s c va never
  have noEret : (groupItems s c [(g0Bundle va never, false)]).any (fun i => i.dest == 0xAE) = false :=
    List.any_eq_false.mpr (fun i hi => by simp [(keep i hi).dest])
  have notSerial : ([(g0Bundle va never, false)] : Group).any (fun b => b.1.serial) = false := rfl
  simp only [issueGroup, noEret, notSerial, operandWrites_g0 keep, groupFault_g0 (xfer_of_quiet h) keep, Bool.or_false, Bool.false_and,
    Bool.false_eq_true, if_false, issueChecked_g0 h keep]

/-! ### The issue cycle passes -/

/-- With no operation in flight and no store buffered, nothing lands. -/
theorem settle_of_idle {s : State} {c : CoxId} (noFlight : (core s c).flight = []) (noStore : (core s c).sb = []) : settle c s = s := by
  have same : onCore c (fun k => { k with flight := k.flight.filter (fun f => !(f.ready && decide (f.land ≤ (core s c).cyc))) }) s = s :=
    onCore_id (by simp only [noFlight, List.filter_nil]; rw [← noFlight])
  have noneDue : complete c [] s = s := by
    simp only [complete, sortKey, List.foldl_nil, forAll_nil]
    exact onCore_id rfl
  simp only [settle, same, noFlight, List.filter_nil, noneDue, noStore, List.length_nil, drainDue]

theorem copyBundle_of_stays {k : Core} (h : LoopCopyStays k) (w : Nat) : copyBundle k.pc w k = k := by
  have same : k.loops.map (fun l => if l.takes k.pc then { l with copy := l.copy ++ [(k.pc, w)] } else l) = k.loops :=
    (List.map_congr_left (fun l hl => by simp [h l hl])).trans (List.map_id k.loops)
  rw [copyBundle, same]

/-- After a bundle with no pair, transfer or LEND the core goes on with the bundle that follows it. -/
theorem afterGroup_single {c : CoxId} {b : Bun} {s : State} (noRudder : b.rudder = false) (noPair : b.pair = false)
    (noLend : b.lend = false) (owe : (core s c).owe = 0) :
    afterGroup c [(b, false)] none false s = onCore c (pastOne b.va) s := by
  have noMiss : (if (core s c).xfer.isNone = true then
      ([(b, false)] : Group).find? (fun b => b.1.rudder && (predicted s c b.1.va).isSome) else none) = none := by
    simp [noRudder]
  have goes : ∀ x : State, goesOn c [(b, false)] 0 false x = x := fun x => by simp [goesOn, payCycles, noLend]
  simp only [afterGroup, noMiss, owe]
  rw [goes]
  exact onCore_congr (by simp [pastOne, groupNext, noPair])

/-- The core has issued its bundle, with no effect but the cycle and the program counter. -/
def idledPast (c : CoxId) (s : State) : State := onCore c (pastOne (core s c).pc) (onCore c (fun k => k.runs 1) s)

/-- No write, trigger or transfer of the group has an effect (R204), and no other operation lands in its cycle. -/
theorem issueNow_g0 {s : State} {c : CoxId} {items : List Item} (h : Quiet s c) (stays : LoopCopyStays (core s c))
    (keep : ∀ i ∈ items, KeepsG0 (core s c) i) (never : Bool) (w : Nat) (gv : Given) :
    issueNow c [(g0Bundle (core s c).pc never, false)] [((core s c).pc, w)] items [] gv s = idledPast c s := by
  obtain ⟨-, -, noFlight, noStore, noXfer, noShadow, owe, -⟩ := h
  have keepLast := keepsG0_lastOnly keep
  have otherPort : ∀ p : Nat → Bool, p 0 = false → (lastOnly items).filter (fun i => p i.dest) = [] := fun p hp =>
    List.filter_eq_nil_iff.mpr (fun i hi => by simp [(keepLast i hi).dest, hp])
  have noFpenv := otherPort (fun d => d == 0x87) rfl
  have noState := otherPort isShadowPort rfl
  have noNewShadow : (lastOnly items).any (fun i => isShadowPort i.dest) = false :=
    List.any_eq_false.mpr (fun i hi => by simp [(keepLast i hi).dest, isShadowPort])
  have noCopy : onCore c (fun k => copyBundle (core s c).pc w { k with xfer := none }) s = s :=
    onCore_id (by rw [← noXfer]; exact copyBundle_of_stays stays w)
  have noTransfer : onCore c (fun k => { k with xfer := k.xfer.map (fun x => x.given (core s c) gv), shadow := none }) s = s :=
    onCore_id (by simp only [noXfer, Option.map_none]; rw [← noXfer, ← noShadow])
  have g0Written : onCore c (fun k => (lastOnly items).foldl (fun k i => regWriteG i.dest i.v k) k) s = s :=
    onCore_id (foldl_of_fixed (fun i hi => regWriteG_g0 (keepLast i hi)))
  have predsWritten : ∀ t : State, onCore c (fun k => (lastOnly items).foldl (fun k i => regWriteP i.dest i.v k) k) t = t := fun t =>
    onCore_id (foldl_of_fixed (fun i hi => regWriteP_g0 (keepLast i hi) _))
  have settled : settle c (onCore c (fun k => k.runs 1) s) = onCore c (fun k => k.runs 1) s :=
    settle_of_idle (by rw [core_onCore_self]; exact noFlight) (by rw [core_onCore_self]; exact noStore)
  simp only [issueNow, noXfer, noShadow, Option.map_none, List.foldl_cons, List.foldl_nil, noCopy, forAll_nil, noState, noNewShadow,
    Bool.false_eq_true, if_false, noTransfer, g0Written, settled, predsWritten, noFpenv, List.any_nil, Option.isSome_none, Bool.or_false]
  exact afterGroup_single (by simp [g0Bundle, Bun.rudder, isRudder]) rfl rfl (by rw [core_onCore_self]; exact owe)

theorem exec_issueGroup_g0 {s : State} {c : CoxId} {w : Nat} (h : Quiet s c) (stays : LoopCopyStays (core s c))
    (ahead : FetchedAhead (core s c) w) {never : Bool} (decoded : bundleOf (core s c).pc w = g0Bundle (core s c).pc never) :
    exec (.issueGroup c) s = .next (idledPast c s) := by
  have issued : issueFetched c s = idledPast c s := by
    rw [issueFetched_of_ahead h ahead (by rw [decoded]; rfl), decoded, issueGroup_g0 h,
      issueNow_g0 h stays (keepsG0_groupItems s c _ never)]
  exact congrArg Host.Outcome.next ((coreCycle_of_quiet h _ _).trans issued)

theorem core_idledPast (c : CoxId) (s : State) : core (idledPast c s) c = pastOne (core s c).pc ((core s c).runs 1) := by
  simp only [idledPast, core_onCore_self]

theorem onlyCore_idledPast (c : CoxId) (s : State) : OnlyCore c s (idledPast c s) :=
  (OnlyCore.on c _ s).trans (OnlyCore.on c _ _)

theorem unitFrame_idledPast (c : CoxId) (s : State) : UnitFrame s (idledPast c s) c := by
  obtain ⟨mem, regs, epoch, others⟩ := onlyCore_idledPast c s
  refine ⟨fun a => memByte_congr mem epoch a, regs, ?_, others⟩
  simp [core_idledPast, SameCore, past, pastOne, Core.runs, Core.cycles]

/-- Settles O55: both words decode to four moves from g0 to g0, and such a group leaves the core as it was, past its bundle. -/
theorem theCanonicalNopChangesNothing : Obligations.TheCanonicalNopChangesNothing := by
  refine ⟨by decide, by decide, fun va => ⟨bundleOf_nop va, bundleOf_zero va⟩, ?issues⟩
  case issues =>
    intro c w s word quiet stays noXfer ahead
    have decoded : ∃ never, bundleOf (core s c).pc w = g0Bundle (core s c).pc never := by
      obtain rfl | rfl := word
      · exact ⟨true, bundleOf_nop _⟩
      · exact ⟨false, bundleOf_zero _⟩
    obtain ⟨never, decoded⟩ := decoded
    refine ⟨idledPast c s, exec_issueGroup_g0 (quiet_of_unpended quiet noXfer) stays ahead decoded, unitFrame_idledPast c s, ?_⟩
    rw [core_idledPast]
    exact ⟨rfl, rfl, rfl⟩

end Sys2Proof.Machine
end
